-- ==== Sys2Proof/Word.lean ====
section
/-! DEFINITION. The word types of the Ulirok module and the sparse table every indexed item of state is kept in. -/

namespace Sys2Proof

/-- A 64-bit scalar value (R101). -/
abbrev Word := BitVec 64

/-- The smallest addressable unit (R1). -/
abbrev Byte := BitVec 8

/-- A table indexed by numbers, listing the entries that have been written, in rising index order. An entry that is
not listed has the value its reader names, which is the item's reset value. -/
abbrev Tbl (α : Type) := List (Nat × α)

/-- The entry at `k`, or `d` where none is listed. -/
def Tbl.look {α : Type} (t : Tbl α) (k : Nat) (d : α) : α :=
  match t with
  | [] => d
  | (k', v) :: rest => if k' = k then v else Tbl.look rest k d

/-- The table with `v` at `k`. -/
def Tbl.put {α : Type} (t : Tbl α) (k : Nat) (v : α) : Tbl α :=
  match t with
  | [] => [(k, v)]
  | (k', v') :: rest =>
    if k' = k then (k, v) :: rest
    else if k < k' then (k, v) :: (k', v') :: rest
    else (k', v') :: Tbl.put rest k v

/-- The table without any entry at `k`. -/
def Tbl.drop {α : Type} (t : Tbl α) (k : Nat) : Tbl α := t.filter fun e => !(e.1 == k)

/-- The bit of a Boolean. -/
def bit (b : Bool) (w : Nat) : BitVec w := if b then 1#w else 0#w

end Sys2Proof
end

