-- ==== Sys2Proof/Syntax.lean ====
section
/-! DEFINITION. The instruction set as data: one constructor of `Instr` for each row of the opcode table. Scalar words
(R89) and convoy members (R92) carry their operand fields; the rows without an encoding are the steps of the module's
engines and the inputs that reach it, and carry what names the step. -/

namespace Sys2Proof

/-- An s-register number (R69). -/
abbrev SReg := BitVec 5
/-- A v-register number (R74). -/
abbrev VReg := BitVec 6
/-- A predicate number (R125). -/
abbrev PReg := BitVec 5
/-- A plane register number (R307). -/
abbrev BReg := BitVec 5

/-- Element type tags (R45). -/
inductive Tag where
  | int4 | uint4 | int8 | uint8 | int16 | uint16 | int32 | uint32 | int64 | uint64 | tern
  | e2m1 | e4m3 | e5m2 | fp16 | bf16 | fp32 | fp64 | mxe2m1 | mxe4m3 | mxe5m2 | mxint8
  deriving DecidableEq, Repr

/-- Rounding codes of an instruction (R53); `dyn` reads FPCTL.RM. -/
inductive Rnd where
  | dyn | rne | rtz | rdn | rup | sr
  deriving DecidableEq, Repr

/-- The governing fields of a member (R74). -/
structure Gov where
  pred : PReg
  sense : Bool
  z : Bool
  deriving DecidableEq, Repr

/-- What a channel reports at a microprogram's end: the groups whose check result differs (R313), and the yield points at
which ordinary accesses waited (R310). -/
structure BankEnd where
  bad : List Nat
  yields : Nat
  deriving DecidableEq, Repr

/-- Operand b of a member with the mark vs: a v-register or an s-register (R141, R142). -/
inductive VB where
  | v (r : VReg)
  | s (r : SReg)
  deriving DecidableEq, Repr

/-- Reductions of VRED and VSCAN (R75). -/
inductive RedOp where
  | sum | min | max | and | or | xor
  deriving DecidableEq, Repr

/-- Conditions of VCMP (R155). -/
inductive VCond where
  | eq | ne | lt | le | gt | ge | un
  deriving DecidableEq, Repr

/-- Conditions of FCMP (R117). -/
inductive FCond where
  | eq | lt | le | un | ne
  deriving DecidableEq, Repr

/-- Kinds of FCVT (R118). -/
inductive CvtKind where
  | s | d | w | wu | l | lu
  deriving DecidableEq, Repr

/-- Operations of AMO at opcode 0x2E (R290). -/
inductive AmoOp where
  | add | and | or | xor | min | max | minu | maxu | swap
  deriving DecidableEq, Repr

/-- Operations of VAMO (R279). -/
inductive VAmoOp where
  | add | min | max | and | or | xor
  deriving DecidableEq, Repr

/-- Orders of the home operations (R279). -/
inductive Order where
  | rlx | acq | rel | ar
  deriving DecidableEq, Repr

/-- Scopes of a publication (R258). -/
inductive Scope where
  | hart | gang | stack | module | system
  deriving DecidableEq, Repr

/-- Kinds of log set (R295). -/
inductive LogSet where
  | group | host | gang
  deriving DecidableEq, Repr

/-- Cluster operand of VSETL (R128). -/
inductive Clus where
  | keep | c1 | c2 | c4 | c8 | c16
  deriving DecidableEq, Repr

/-- Conditions of BCMP (R328). -/
inductive BCond where
  | eq | ne | lt | ge
  deriving DecidableEq, Repr

/-- Instructions, engine steps and inputs: one constructor per row of the opcode table. -/
inductive Instr where
  -- integer, register with register (R105)
  | add (sd sa sb : SReg) | sub (sd sa sb : SReg) | and (sd sa sb : SReg) | or (sd sa sb : SReg)
  | xor (sd sa sb : SReg) | sll (sd sa sb : SReg) | srl (sd sa sb : SReg) | sra (sd sa sb : SReg)
  | slt (sd sa sb : SReg) | sltu (sd sa sb : SReg) | min (sd sa sb : SReg) | max (sd sa sb : SReg)
  | mul (sd sa sb : SReg) | mulh (sd sa sb : SReg) | mulhu (sd sa sb : SReg)
  | div (sd sa sb : SReg) | divu (sd sa sb : SReg) | rem (sd sa sb : SReg) | remu (sd sa sb : SReg)
  | clz (sd sa : SReg) | ctz (sd sa : SReg) | popc (sd sa : SReg)
  | sel (sd sa sb sc : SReg)
  -- immediates (R108)
  | addi (sd sa : SReg) (imm : BitVec 15) | andi (sd sa : SReg) (imm : BitVec 15)
  | ori (sd sa : SReg) (imm : BitVec 15) | xori (sd sa : SReg) (imm : BitVec 15)
  | slti (sd sa : SReg) (imm : BitVec 15)
  | slli (sd sa : SReg) (amt : BitVec 6) | srli (sd sa : SReg) (amt : BitVec 6) | srai (sd sa : SReg) (amt : BitVec 6)
  | lui (sd : SReg) (imm : BitVec 20) | auipc (sd : SReg) (imm : BitVec 20)
  -- loads and stores (R112, R113, R289)
  | ldB (sd sa : SReg) (imm : BitVec 15) | ldH (sd sa : SReg) (imm : BitVec 15) | ldW (sd sa : SReg) (imm : BitVec 15)
  | ldD (sd sa : SReg) (imm : BitVec 15) | ldBU (sd sa : SReg) (imm : BitVec 15)
  | ldHU (sd sa : SReg) (imm : BitVec 15) | ldWU (sd sa : SReg) (imm : BitVec 15)
  | ldh (sd sa : SReg) (off : BitVec 12) (acq : Bool)
  | stB (sb sa : SReg) (imm : BitVec 15) | stH (sb sa : SReg) (imm : BitVec 15)
  | stW (sb sa : SReg) (imm : BitVec 15) | stD (sb sa : SReg) (imm : BitVec 15)
  | ldsd (sd sa : SReg) (imm : BitVec 15) | stsd (sb sa : SReg) (imm : BitVec 15)
  | amo (op : AmoOp) (dbl : Bool) (ord : Order) (sd sa sb : SReg)
  | amoCas (dbl : Bool) (ord : Order) (sd sa sb sc : SReg)
  -- branches and jumps (R109, R110, R137 to R139)
  | beq (sa sb : SReg) (imm : BitVec 15) | bne (sa sb : SReg) (imm : BitVec 15) | blt (sa sb : SReg) (imm : BitVec 15)
  | bge (sa sb : SReg) (imm : BitVec 15) | bltu (sa sb : SReg) (imm : BitVec 15) | bgeu (sa sb : SReg) (imm : BitVec 15)
  | jal (sd : SReg) (imm : BitVec 20) | jalr (sd sa : SReg) (imm : BitVec 15)
  | vbany (p : PReg) (imm : BitVec 15) | vbnone (p : PReg) (imm : BitVec 15) | vbrf (p : PReg) (imm : BitVec 15)
  | frgpop
  -- scalar floating point (R115)
  | fadd (dbl : Bool) (r : Rnd) (sd sa sb : SReg) | fsub (dbl : Bool) (r : Rnd) (sd sa sb : SReg)
  | fmul (dbl : Bool) (r : Rnd) (sd sa sb : SReg) | fdiv (dbl : Bool) (r : Rnd) (sd sa sb : SReg)
  | fsqrt (dbl : Bool) (r : Rnd) (sd sa : SReg)
  | fmin (dbl : Bool) (sd sa sb : SReg) | fmax (dbl : Bool) (sd sa sb : SReg)
  | fcmp (c : FCond) (dbl : Bool) (sd sa sb : SReg)
  | fcvt (dst src : CvtKind) (r : Rnd) (sd sa : SReg)
  | ffma (dbl : Bool) (r : Rnd) (sd sa sb sc : SReg)
  -- ordering (R295)
  | pub (sc : Scope) | acq (k : LogSet) (sa sb : SReg) | pubacq (sc : Scope) (k : LogSet) (sa sb : SReg) | bar | fence
  -- launches (R377)
  | launch (sa : SReg) | wnext (sd : SReg) | wsplit (sd : SReg) | wdone | ctwait (sd sa sb : SReg)
  | ctinc (sd sa sb : SReg) | npbegin | npend | yield | exit
  -- control registers and system (R212, R215, R216, R128, R183)
  | csrr (sd : SReg) (csr : BitVec 15) | csrw (sd : SReg) (csr : BitVec 15) (sa : SReg)
  | csrs (sd : SReg) (csr : BitVec 15) (sa : SReg) | csrc (sd : SReg) (csr : BitVec 15) (sa : SReg)
  | tret | evwait (sd sa : SReg) | halt | ptinv (sa : SReg) | capfence (sd sa : SReg) | captest (sd sa : SReg)
  | bbox (sa sb : SReg) | tstamp (sd : SReg)
  | trap (imm : BitVec 8)
  | vsetl (sd sa : SReg) (tag : Tag) (c : Clus) | vsetlG (sd sa : SReg) (tag : Tag) (c : Clus)
  | mxon | mxoff
  | illegalWord (tval : Word)
  -- vector arithmetic members (R145 to R162)
  | vadd (g : Gov) (vd va : VReg) (b : VB) (sat : Bool) (r : Rnd) | vsub (g : Gov) (vd va : VReg) (b : VB) (sat : Bool) (r : Rnd)
  | vmul (g : Gov) (vd va : VReg) (b : VB) (sat : Bool) (r : Rnd) | vmulh (g : Gov) (vd va : VReg) (b : VB)
  | vfma (g : Gov) (vd va vb vc : VReg) (sat : Bool) (r : Rnd) | vfms (g : Gov) (vd va vb vc : VReg) (sat : Bool) (r : Rnd)
  | vnfma (g : Gov) (vd va vb vc : VReg) (sat : Bool) (r : Rnd)
  | vdiv (g : Gov) (vd va : VReg) (b : VB) (sat : Bool) (r : Rnd)
  | vsqrt (g : Gov) (vd va : VReg) (r : Rnd) | vrcp (g : Gov) (vd va : VReg) (r : Rnd) | vrsq (g : Gov) (vd va : VReg) (r : Rnd)
  | vexp2 (g : Gov) (vd va : VReg) (r : Rnd) | vlog2 (g : Gov) (vd va : VReg) (r : Rnd) | vtanh (g : Gov) (vd va : VReg) (r : Rnd)
  | vmin (g : Gov) (vd va : VReg) (b : VB) | vmax (g : Gov) (vd va : VReg) (b : VB)
  | vabs (g : Gov) (vd va : VReg) (sat : Bool) | vneg (g : Gov) (vd va : VReg) (sat : Bool)
  | vand (g : Gov) (vd va : VReg) (b : VB) | vor (g : Gov) (vd va : VReg) (b : VB) | vxor (g : Gov) (vd va : VReg) (b : VB)
  | vnot (g : Gov) (vd va : VReg)
  | vshl (g : Gov) (vd va : VReg) (b : VB) (sat : Bool) | vshr (g : Gov) (vd va : VReg) (b : VB)
  | vrot (g : Gov) (vd va : VReg) (b : VB) (right : Bool)
  | vclz (g : Gov) (vd va : VReg) | vpopc (g : Gov) (vd va : VReg) | vclmul (g : Gov) (vd va : VReg) (b : VB) (hi : Bool)
  | vcmp (g : Gov) (pd : PReg) (va : VReg) (b : VB) (c : VCond)
  | vsel (g : Gov) (vd va vb : VReg) (pc : PReg)
  | vcvt (g : Gov) (vd va : VReg) (d : Tag) (sat : Bool) (r : Rnd)
  | vscale (g : Gov) (vd va : VReg) (b : VB) (r : Rnd) | vqnt (g : Gov) (vd va : VReg) (d : Tag) (r : Rnd)
  | vmov (g : Gov) (vd va : VReg) | vsplat (g : Gov) (vd : VReg) (ss : SReg) (d : Tag)
  | viota (g : Gov) (vd : VReg) (ss : SReg) (d : Tag) (sat : Bool)
  -- tags and predicates (R130 to R136)
  | vtag (vd : VReg) (t : Tag) | vtagq (sd : SReg) (va : VReg)
  | psetc (g : Gov) (pd : PReg) (ss : SReg)
  | pand (g : Gov) (pd pa pb : PReg) | por (g : Gov) (pd pa pb : PReg) | pxor (g : Gov) (pd pa pb : PReg)
  | pnot (g : Gov) (pd pa : PReg) | pandn (g : Gov) (pd pa pb : PReg)
  | ppack (vd : VReg) (pa : BitVec 2) (h : Bool) | punpack (pd : BitVec 2) (va : VReg) (h : Bool)
  | pmovs (sd : SReg) (pa : PReg) (sk : SReg)
  -- cross-lane members (R168, R134)
  | vperm (g : Gov) (vd va vb : VReg) (keep : Bool) | vput (g : Gov) (vd va vb : VReg) (px : PReg)
  | vslu (g : Gov) (vd va : VReg) (sk : SReg) (keep : Bool) | vsld (g : Gov) (vd va : VReg) (sk : SReg) (keep : Bool)
  | vcomp (g : Gov) (vd va : VReg) (sd : SReg) | vexpd (g : Gov) (vd va : VReg)
  | vred (g : Gov) (op : RedOp) (ord sat : Bool) (r : Rnd) (vd va vb : VReg) (sd : SReg)
  | vscan (g : Gov) (op : RedOp) (ex sat : Bool) (r : Rnd) (vd va : VReg)
  | vconf (g : Gov) (pd : PReg) (va : VReg) (sd : SReg)
  | vzip (g : Gov) (vd va vb : VReg) (hi keep : Bool) | vunzip (g : Gov) (vd va vb : VReg) (odd keep : Bool)
  | vbcast (g : Gov) (vd va : VReg) (sk : SReg) (keep : Bool)
  | vexts (g : Gov) (sd : SReg) (va : VReg) (sk : SReg) (keep : Bool) | vinss (g : Gov) (vd : VReg) (ss sk : SReg)
  | plead (g : Gov) (sd : SReg) (pa : PReg) | pnum (g : Gov) (sd : SReg) (pa : PReg)
  -- vector memory members (R279)
  | vld (g : Gov) (vd : VReg) (off : BitVec 8) (sb ssc : SReg) (ff ck : Bool)
  | vlds (g : Gov) (vd : VReg) (off : BitVec 8) (sb st : SReg) (ff ck : Bool)
  | vldx (g : Gov) (vd : VReg) (off : BitVec 8) (sb : SReg) (vi : VReg) (ff ck : Bool)
  | vst (g : Gov) (va : VReg) (off : BitVec 8) (sb ssc : SReg) | vsts (g : Gov) (va : VReg) (off : BitVec 8) (sb st : SReg)
  | vstx (g : Gov) (va : VReg) (off : BitVec 8) (sb : SReg) (vi : VReg)
  | vlsx (g : Gov) (vd : VReg) (off : BitVec 8) (sb : SReg) (vi : VReg)
  | vssx (g : Gov) (va : VReg) (off : BitVec 8) (sb : SReg) (vi : VReg)
  | vldh (g : Gov) (vd : VReg) (off : BitVec 8) (sb : SReg) (vi : VReg) (acq : Bool)
  | vpf (off : BitVec 8) (sb sn : SReg)
  | vamo (g : Gov) (op : VAmoOp) (ord : Order) (va : VReg) (off : BitVec 8) (sb : SReg) (vi : VReg)
  -- matrix members (R189)
  | tshape (sd sm sn sk : SReg) (f : Tag) | mma (g : Gov) (acc : BitVec 2) (va vb : VReg) | mmas (g : Gov) (acc : BitVec 2) (va vb : VReg)
  | mxzero (acc : BitVec 2) | mxext (g : Gov) (vd : VReg) (acc : BitVec 2) (sr : SReg) (d : Tag) (int sat : Bool) (r : Rnd)
  | mxins (g : Gov) (acc : BitVec 2) (va : VReg) (sr : SReg) | mxpert (sa : SReg)
  -- bank members (R317)
  | bsetl (sd sa : SReg) | balloc (sa sb : SReg) | bplane (bd : BReg) (sa : SReg) | brlk (sa sb sc : SReg) | brul (sa sb : SReg)
  | bldp (bd : BReg) (sa sb : SReg) (sgn sat : Bool) | bstp (ba : BReg) (sa sb : SReg) (sgn : Bool)
  | btov (vd : BitVec 5) (ba : BReg) (sk : SReg) (sgn : Bool) | vtob (bd : BReg) (va : BitVec 5) (sk : SReg) (sgn sat : Bool)
  | bnot (bd ba : BReg) | band (bd ba bb : BReg) | bor (bd ba bb : BReg) | bxor (bd ba bb : BReg) | bmaj (bd ba bb bc : BReg)
  | badd (bd ba bb : BReg) (sgn sat : Bool) | bsub (bd ba bb : BReg) (sgn sat : Bool)
  | bmulc (bd ba : BReg) (sc : SReg) (sgn : Bool) | bmac (bd ba bb : BReg) (sgn : Bool) | bmact (bd bt : BReg) (sx : SReg) (sgn : Bool)
  | bcmp (bd ba bb : BReg) (c : BCond) (sgn : Bool) | bsel (bd ba bb bc : BReg)
  | bshl (bd ba : BReg) (k : BitVec 5) (col : Bool) | bshr (bd ba : BReg) (k : BitVec 5) (col sgn : Bool)
  | bred (sd : SReg) (ba : BReg) | bseal (ba : BReg) | bnext (sa : SReg) | bwait (sd : SReg)
  -- copy members (R335)
  | cpy (k : BitVec 5) (sdst ssrc slen : SReg) (c : BitVec 3) (pk : PReg)
  | cpy2d (k : BitVec 5) (sdst ssrc slen : SReg) (c : BitVec 3) (srows sstr : SReg) (pk : PReg)
  | cpyd (k : BitVec 5) (sdst ssrc slen snonce sidx : SReg) (pk : PReg)
  | cpye (k : BitVec 5) (sdst ssrc slen : SReg) (c : BitVec 3) (srem : SReg) (pk : PReg)
  | ckey (k : BitVec 5) (ssrc sslot : SReg) | cwait (sd smask : SReg) | cstat (sd : SReg) (k : BitVec 5) (word : BitVec 2)
  -- steps of a hart and of the save engine: `h` names a context, `core` a global core id, `stk` a stack
  | convoyRetire | coreResetEnd (core : Nat) | asyncTrap | overrunFault (h : Nat) | vbranchResolve (h : Nat)
  | preemptRequest (h : Nat) (replace : Bool) | preemptAccept (h : Nat) | drainComplete (h : Nat) | saveComplete (h : Nat)
  | resume (h core slot : Nat) | thermalMigration (h core : Nat) | placement (stk w : Nat) | logSpaceFreed (h : Nat)
  -- memory system steps
  | pinDrop (core slot sector : Nat) | memoryReply (core sector : Nat) | homeOpResult (h : Nat)
  | mergeBeacon (stk : Nat) | mergeBeaconReceive (stk src f a : Nat) | mergeBeaconOverdue (stk src : Nat)
  | mergeApply (stk : Nat) | compaction (log : Nat) | mergeQueueResend (stk : Nat)
  -- copies
  | copyChunkStart (core : Nat) | copyChunkComplete (core : Nat) | ckeyApply (stk : Nat)
  -- launches
  | launchCut (stk idx : Nat) | launchDone (stk idx : Nat) | idleSplit (core : Nat) | splitRequest (stk src w : Nat)
  | splitReply (stk : Nat) | instanceRestore (stk n : Nat) | instanceSpent (stk w : Nat) | evwaitTimeout (h : Nat)
  | infieldTestDue (core : Nat) | infieldTestEnd (core : Nat) (failed : Word) | infieldTestDeadline (core : Nat)
  -- banks
  | bankMicroprogramStart (stk die : Nat) | bankCompletion (stk die : Nat) (e : BankEnd) | refreshSlot (stk die : Nat)
  | dramSensorRead (stk : Nat) | rowLockEffective (stk n : Nat) | rowRelease (stk n : Nat) | leaseExpiry (stk n : Nat)
  | bcpWatchdogReset (stk die : Nat) | bcpResetEnd (stk : Nat) | residencyCommand (stk : Nat) (v : Word) | residencyDone (stk : Nat)
  -- time and the photo-finish buffer
  | timeBeacon | timeBeaconReceive (stk : Nat) (t : Word) | timeBeaconOverdue (stk : Nat)
  | pfbFreeze (stk cause detail : Nat) | freezeMessage (stk cause detail : Nat)
  -- the service core's stack control space
  | serviceControlWrite (stk off : Nat) (v : Word) | capmaskWrite (stk c : Nat) (v : Word)
  | firmwareCapmaskWrite (stk c : Nat) (v : Word) | haltRelease (stk c : Nat) (v : Word) | stackPtinv (stk : Nat) (v : Word)
  | pfbClearFrozen (stk : Nat) | keyWrapKeyWrite (stk : Nat) (v : Word) | channelBindingWrite (stk n : Nat) (v : Word)
  | counterClear (stk off : Nat)
  -- host, peers and network
  | hostWrite (port dom pa : Nat) (ide : Bool) (bytes : List Byte) | hostRead (port dom pa n : Nat) (ide : Bool)
  | ptmRequest (port : Nat) | tdiLeaveRun (d : Nat) | doorbell (stk ch port : Nat) (v : BitVec 32)
  | downLaunchHead (stk ch : Nat) | downLaunchTail (stk ch : Nat) | downCounterAdvance (stk ch : Nat)
  | downNotify (stk ch : Nat) | downResync (stk ch : Nat) | upMessage (stk ch : Nat) | report (stk : Nat)
  | remoteWrite (stk entry off : Nat) (add : Bool) (bytes : List Byte)
  | ethernetFrame (peer seq : Nat) (ack : Nat) (bytes : List Byte) | frameResend (peer : Nat) | connectionFail (peer : Nat)
  -- link modules
  | flitReplay (stk edge m : Nat) (crc : Bool) | linkPause (stk edge m : Nat) | linkUnpause (stk edge m : Nat)
  | linkRetrain (stk edge m : Nat) | linkRetrainEnd (stk edge m : Nat) | linkClearRetry (stk edge m : Nat)
  | linkInjectArm (stk edge m : Nat) (v : Word) | linkInjectFire (stk edge m : Nat) | linkWindowEnd (stk edge m : Nat)
  -- power, temperature, resets, firmware and board management
  | powerSample (stk mw : Nat) | thermalAlert (stk die t : Nat) | thermalShutdown | coldReset | warmReset | perst (port : Nat) (low : Bool)
  | firmwareUpdate (image : List Byte) | raiseFusedMinimum (v : BitVec 64) | pldmFreeze | pldmColdReset | pldmWarmReset
  | readPhotoFinishEntries (stk first count : Nat) | readCounterBlock (stk off count : Nat) | clearFrozen (stk : Nat)
  | spdmKeyWrap (key : BitVec 256) | tick | mergeQueueDelivery (stk n : Nat) | spdmKeyExchange (both : Bool) | tdiEnterRun (d : Nat) (run : Bool)
  deriving DecidableEq, Repr

end Sys2Proof
end

