-- ==== Sys2Proof/WellFormed.lean ====
section
/-! DEFINITION. Which instructions have an encoding: the constraints between operand fields that the instruction tables
state beyond the width of each field. -/

namespace Sys2Proof

/-- Integer kinds of FCVT. -/
def CvtKind.isInt : CvtKind → Bool
  | .s | .d => false
  | _ => true

/-- FCVT's kinds differ and are not both integer kinds (R118). -/
def Instr.cvtKindsOk (k1 k2 : CvtKind) : Bool := !(k1.isInt && k2.isInt) && !(k1 == k2)

/-- The source formats of TSHAPE (R190). -/
def Tag.tileSource : Tag → Bool
  | .fp32 | .bf16 | .fp16 | .e4m3 | .e5m2 | .mxe4m3 | .mxe5m2 | .mxint8 | .e2m1 | .int4 | .tern | .mxe2m1 => true
  | _ => false

/-- .ck needs a governing predicate read in its true sense (R279). -/
def Gov.ckOk (g : Gov) (ck : Bool) : Bool := !ck || (g.pred != 0 && !g.sense)

/-- The operand fields of an instruction meet the constraints of its table. -/
def Instr.wellFormed : Instr → Bool
  | .fcvt k1 k2 _ _ _ => Instr.cvtKindsOk k1 k2
  | .acq k sa sb => k == .group || (sa == 0 && sb == 0)
  | .pubacq _ k sa sb => k == .group || (sa == 0 && sb == 0)
  | .vsetlG sd _ _ _ => sd != 2
  | .psetc g _ _ => !g.z
  | .vexpd g _ _ => !g.z
  | .vred g op ord _ r _ _ vb _ => !g.z && (op == .sum || (!ord && r == .dyn)) && (ord || vb == 0)
  | .vinss g _ _ _ => !g.z
  | .vld g _ _ _ _ _ ck => g.ckOk ck
  | .vlds g _ _ _ _ _ ck => g.ckOk ck
  | .vldx g _ _ _ _ _ ck => g.ckOk ck
  | .vst g _ _ _ _ => !g.z
  | .vsts g _ _ _ _ => !g.z
  | .vstx g _ _ _ _ => !g.z
  | .vssx g _ _ _ _ => !g.z
  | .vamo g _ _ _ _ _ _ => !g.z
  | .tshape _ _ _ _ f => f.tileSource
  | .mma g _ _ vb => !g.z && vb.extractLsb' 0 3 == 0
  | .mmas g _ _ vb => !g.z && vb.extractLsb' 0 3 == 0
  | .mxext _ _ _ _ _ int sat _ => int || !sat
  | .mxins g _ _ _ => !g.z
  | .bshr _ _ _ col sgn => !(col && sgn)
  | _ => true

end Sys2Proof
end

