-- ==== Sys2Proof/Decode.lean ====
section
/-! DEFINITION. Decoding of 32-bit words (R69 to R73, R89, R90), of members (R74 to R76, R92, R93) and of convoy
headers (R26), and the encoder written from the same tables. Both sides go through one split of a word into fields. -/

namespace Sys2Proof

/-- Why a word or member is not an instruction (R90, R93). -/
inductive DecodeError where
  | opcode        -- the opcode is not assigned
  | function      -- a function value or sub-field holds a value that is not defined
  | reserved      -- a field that must be zero is not
  | rounding      -- a rounding code outside 0 to 5
  | tag           -- a reserved tag code
  deriving DecidableEq, Repr

/-- Element tag codes (R45). -/
def Tag.code : Tag → BitVec 5
  | .int4 => 0x00#5 | .uint4 => 0x01#5 | .int8 => 0x02#5 | .uint8 => 0x03#5 | .int16 => 0x04#5 | .uint16 => 0x05#5
  | .int32 => 0x06#5 | .uint32 => 0x07#5 | .int64 => 0x08#5 | .uint64 => 0x09#5 | .tern => 0x0A#5 | .e2m1 => 0x0B#5
  | .e4m3 => 0x0C#5 | .e5m2 => 0x0D#5 | .fp16 => 0x0E#5 | .bf16 => 0x0F#5 | .fp32 => 0x10#5 | .fp64 => 0x11#5
  | .mxe2m1 => 0x12#5 | .mxe4m3 => 0x13#5 | .mxe5m2 => 0x14#5 | .mxint8 => 0x15#5

/-- The tag of a code, none for 0x16 to 0x1F (R45). -/
def Tag.ofCode (c : BitVec 5) : Option Tag :=
  match c.toNat with
  | 0x00 => some .int4 | 0x01 => some .uint4 | 0x02 => some .int8 | 0x03 => some .uint8 | 0x04 => some .int16
  | 0x05 => some .uint16 | 0x06 => some .int32 | 0x07 => some .uint32 | 0x08 => some .int64 | 0x09 => some .uint64
  | 0x0A => some .tern | 0x0B => some .e2m1 | 0x0C => some .e4m3 | 0x0D => some .e5m2 | 0x0E => some .fp16
  | 0x0F => some .bf16 | 0x10 => some .fp32 | 0x11 => some .fp64 | 0x12 => some .mxe2m1 | 0x13 => some .mxe4m3
  | 0x14 => some .mxe5m2 | 0x15 => some .mxint8 | _ => none

/-- Rounding codes (R53). -/
def Rnd.code : Rnd → BitVec 3
  | .dyn => 0#3 | .rne => 1#3 | .rtz => 2#3 | .rdn => 3#3 | .rup => 4#3 | .sr => 5#3

/-- The rounding of a code (R53). -/
def Rnd.ofCode (c : BitVec 3) : Option Rnd :=
  match c.toNat with
  | 0 => some .dyn | 1 => some .rne | 2 => some .rtz | 3 => some .rdn | 4 => some .rup | 5 => some .sr | _ => none

/-- Reduction codes (R75). -/
def RedOp.code : RedOp → BitVec 3
  | .sum => 0#3 | .min => 1#3 | .max => 2#3 | .and => 3#3 | .or => 4#3 | .xor => 5#3

/-- The reduction of a code (R75). -/
def RedOp.ofCode (c : BitVec 3) : Option RedOp :=
  match c.toNat with
  | 0 => some .sum | 1 => some .min | 2 => some .max | 3 => some .and | 4 => some .or | 5 => some .xor | _ => none

/-- Conditions of VCMP (R155). -/
def VCond.code : VCond → BitVec 3
  | .eq => 0#3 | .ne => 1#3 | .lt => 2#3 | .le => 3#3 | .gt => 4#3 | .ge => 5#3 | .un => 6#3

/-- The condition of a code (R155). -/
def VCond.ofCode (c : BitVec 3) : Option VCond :=
  match c.toNat with
  | 0 => some .eq | 1 => some .ne | 2 => some .lt | 3 => some .le | 4 => some .gt | 5 => some .ge | 6 => some .un
  | _ => none

/-- Conditions of FCMP (R117). -/
def FCond.code : FCond → BitVec 3
  | .eq => 0#3 | .lt => 1#3 | .le => 2#3 | .un => 3#3 | .ne => 4#3

/-- The condition of a code (R117). -/
def FCond.ofCode (c : BitVec 3) : Option FCond :=
  match c.toNat with
  | 0 => some .eq | 1 => some .lt | 2 => some .le | 3 => some .un | 4 => some .ne | _ => none

/-- Conversion kinds (R118). -/
def CvtKind.code : CvtKind → BitVec 3
  | .s => 0#3 | .d => 1#3 | .w => 2#3 | .wu => 3#3 | .l => 4#3 | .lu => 5#3

/-- The kind of a code (R118). -/
def CvtKind.ofCode (c : BitVec 3) : Option CvtKind :=
  match c.toNat with
  | 0 => some .s | 1 => some .d | 2 => some .w | 3 => some .wu | 4 => some .l | 5 => some .lu | _ => none

/-- AMO operation codes (R290). -/
def AmoOp.code : AmoOp → BitVec 4
  | .add => 0#4 | .and => 1#4 | .or => 2#4 | .xor => 3#4 | .min => 4#4 | .max => 5#4 | .minu => 6#4 | .maxu => 7#4
  | .swap => 8#4

/-- The AMO operation of a code (R290). -/
def AmoOp.ofCode (c : BitVec 4) : Option AmoOp :=
  match c.toNat with
  | 0 => some .add | 1 => some .and | 2 => some .or | 3 => some .xor | 4 => some .min | 5 => some .max
  | 6 => some .minu | 7 => some .maxu | 8 => some .swap | _ => none

/-- VAMO operation codes (R279). -/
def VAmoOp.code : VAmoOp → BitVec 3
  | .add => 0#3 | .min => 1#3 | .max => 2#3 | .and => 3#3 | .or => 4#3 | .xor => 5#3

/-- The VAMO operation of a code (R279). -/
def VAmoOp.ofCode (c : BitVec 3) : Option VAmoOp :=
  match c.toNat with
  | 0 => some .add | 1 => some .min | 2 => some .max | 3 => some .and | 4 => some .or | 5 => some .xor | _ => none

/-- Order codes (R279). -/
def Order.code : Order → BitVec 2
  | .rlx => 0#2 | .acq => 1#2 | .rel => 2#2 | .ar => 3#2

/-- The order of a code (R279). -/
def Order.ofCode (c : BitVec 2) : Order :=
  match c.toNat with
  | 0 => .rlx | 1 => .acq | 2 => .rel | _ => .ar

/-- Scope codes (R258). -/
def Scope.code : Scope → BitVec 3
  | .hart => 0#3 | .gang => 1#3 | .stack => 2#3 | .module => 3#3 | .system => 4#3

/-- The scope of a code (R258). -/
def Scope.ofCode (c : BitVec 3) : Option Scope :=
  match c.toNat with
  | 0 => some .hart | 1 => some .gang | 2 => some .stack | 3 => some .module | 4 => some .system | _ => none

/-- Log-set kinds (R295). -/
def LogSet.code : LogSet → BitVec 2
  | .group => 0#2 | .host => 1#2 | .gang => 2#2

/-- The log-set kind of a code (R295). -/
def LogSet.ofCode (c : BitVec 2) : Option LogSet :=
  match c.toNat with
  | 0 => some .group | 1 => some .host | 2 => some .gang | _ => none

/-- Cluster codes of VSETL (R128). -/
def Clus.code : Clus → BitVec 3
  | .keep => 0#3 | .c1 => 1#3 | .c2 => 2#3 | .c4 => 3#3 | .c8 => 4#3 | .c16 => 5#3

/-- The cluster operand of a code (R128). -/
def Clus.ofCode (c : BitVec 3) : Option Clus :=
  match c.toNat with
  | 0 => some .keep | 1 => some .c1 | 2 => some .c2 | 3 => some .c4 | 4 => some .c8 | 5 => some .c16 | _ => none

/-- BCMP conditions (R328). -/
def BCond.code : BCond → BitVec 2
  | .eq => 0#2 | .ne => 1#2 | .lt => 2#2 | .ge => 3#2

/-- The BCMP condition of a code (R328). -/
def BCond.ofCode (c : BitVec 2) : BCond :=
  match c.toNat with
  | 0 => .eq | 1 => .ne | 2 => .lt | _ => .ge

/-! ## The fields of a 32-bit word -/

/-- A 32-bit word cut as format S3 cuts it (R69); every other format joins neighbouring fields of it. -/
structure F32 where
  f : BitVec 10
  b : BitVec 5
  a : BitVec 5
  d : BitVec 5
  op : BitVec 7
  deriving DecidableEq, Repr

/-- The fields of a word (R69). -/
def F32.split (w : BitVec 32) : F32 :=
  { f := w.extractLsb' 22 10, b := w.extractLsb' 17 5, a := w.extractLsb' 12 5, d := w.extractLsb' 7 5,
    op := w.extractLsb' 0 7 }

/-- The word of its fields (R69). -/
def F32.join (x : F32) : BitVec 32 := x.f ++ x.b ++ x.a ++ x.d ++ x.op

/-- imm15 of formats SI and SC, [31:17]. -/
def F32.immI (x : F32) : BitVec 15 := x.f ++ x.b
/-- imm15 of format SB, [31:22] and [11:7]. -/
def F32.immB (x : F32) : BitVec 15 := x.f ++ x.d
/-- imm20 of formats SJ and SU, [31:12]. -/
def F32.imm20 (x : F32) : BitVec 20 := x.f ++ x.b ++ x.a

/-- Fields of format S3. -/
def F32.s3 (op : BitVec 7) (f : BitVec 10) (b a d : BitVec 5) : F32 := ⟨f, b, a, d, op⟩
/-- Fields of formats SI and SC. -/
def F32.si (op : BitVec 7) (imm : BitVec 15) (a d : BitVec 5) : F32 :=
  ⟨imm.extractLsb' 5 10, imm.extractLsb' 0 5, a, d, op⟩
/-- Fields of format SB. -/
def F32.sb (op : BitVec 7) (imm : BitVec 15) (b a : BitVec 5) : F32 :=
  ⟨imm.extractLsb' 5 10, b, a, imm.extractLsb' 0 5, op⟩
/-- Fields of formats SJ and SU. -/
def F32.sj (op : BitVec 7) (imm : BitVec 20) (d : BitVec 5) : F32 :=
  ⟨imm.extractLsb' 10 10, imm.extractLsb' 5 5, imm.extractLsb' 0 5, d, op⟩

/-- The function field of a form with a fourth register or a selector in [31:27] (R71). -/
def F32.hi5 (x : F32) : BitVec 5 := x.f.extractLsb' 5 5
/-- [26:22]. -/
def F32.lo5 (x : F32) : BitVec 5 := x.f.extractLsb' 0 5

/-- Go on when the condition holds, else reject with the reason. -/
def need {α : Type} (c : Bool) (e : DecodeError) (k : Except DecodeError α) : Except DecodeError α :=
  if c then k else .error e

/-- Go on with a sub-field's meaning, else reject with the reason. -/
def needSome {α β : Type} (o : Option β) (e : DecodeError) (k : β → Except DecodeError α) : Except DecodeError α :=
  match o with
  | some x => k x
  | none => .error e

/-- Opcode 0x01 (R105). -/
def decodeInt (x : F32) : Except DecodeError Instr :=
  match x.f.toNat with
  | 0 => .ok (.add x.d x.a x.b) | 1 => .ok (.sub x.d x.a x.b) | 2 => .ok (.and x.d x.a x.b)
  | 3 => .ok (.or x.d x.a x.b) | 4 => .ok (.xor x.d x.a x.b) | 5 => .ok (.sll x.d x.a x.b)
  | 6 => .ok (.srl x.d x.a x.b) | 7 => .ok (.sra x.d x.a x.b) | 8 => .ok (.slt x.d x.a x.b)
  | 9 => .ok (.sltu x.d x.a x.b) | 10 => .ok (.min x.d x.a x.b) | 11 => .ok (.max x.d x.a x.b)
  | 12 => .ok (.mul x.d x.a x.b) | 13 => .ok (.mulh x.d x.a x.b) | 14 => .ok (.mulhu x.d x.a x.b)
  | 15 => .ok (.div x.d x.a x.b) | 16 => .ok (.divu x.d x.a x.b) | 17 => .ok (.rem x.d x.a x.b)
  | 18 => .ok (.remu x.d x.a x.b)
  | 19 => need (x.b == 0) .reserved (.ok (.clz x.d x.a))
  | 20 => need (x.b == 0) .reserved (.ok (.ctz x.d x.a))
  | 21 => need (x.b == 0) .reserved (.ok (.popc x.d x.a))
  | _ => .error .function

/-- A shift word: imm15[14:6] must be zero (R70). -/
def decodeShift (x : F32) (mk : BitVec 6 → Instr) : Except DecodeError Instr :=
  need (x.immI.extractLsb' 6 9 == 0) .reserved (.ok (mk (x.immI.extractLsb' 0 6)))

/-- A scalar floating-point word that rounds (R115). -/
def decodeFRound (x : F32) (mk : Bool → Rnd → Instr) : Except DecodeError Instr :=
  need (x.f.extractLsb' 4 6 == 0) .reserved <|
  needSome (Rnd.ofCode (x.f.extractLsb' 0 3)) .rounding fun r => .ok (mk (x.f.getLsbD 3) r)

/-- A scalar floating-point word that does not round (R115). -/
def decodeFPlain (x : F32) (mk : Bool → Instr) : Except DecodeError Instr :=
  need (x.f.extractLsb' 4 6 == 0 && x.f.extractLsb' 0 3 == 0) .reserved (.ok (mk (x.f.getLsbD 3)))

/-- AMO, every operation but compare-and-swap (R290). -/
def decodeAmo (x : F32) : Except DecodeError Instr :=
  needSome (AmoOp.ofCode (x.f.extractLsb' 6 4)) .function fun op =>
  need (x.f.getLsbD 5) .function <|
  need (x.f.extractLsb' 0 2 == 0) .reserved
    (.ok (.amo op (x.f.getLsbD 4) (Order.ofCode (x.f.extractLsb' 2 2)) x.d x.a x.b))

/-- Ordering instructions, opcode 0x50 (R295). -/
def decodeOrder (x : F32) : Except DecodeError Instr :=
  let sc := x.f.extractLsb' 2 3
  let kd := x.f.extractLsb' 0 2
  let regs (k : LogSet) (i : Instr) : Except DecodeError Instr :=
    need (k == .group || (x.a == 0 && x.b == 0)) .reserved (.ok i)
  need (x.d == 0) .reserved <|
  match x.hi5.toNat with
  | 0 => need (kd == 0 && x.a == 0 && x.b == 0) .reserved <|
         needSome (Scope.ofCode sc) .function fun s => .ok (.pub s)
  | 1 => need (sc == 0) .reserved <| needSome (LogSet.ofCode kd) .function fun k => regs k (.acq k x.a x.b)
  | 2 => needSome (Scope.ofCode sc) .function fun s =>
         needSome (LogSet.ofCode kd) .function fun k => regs k (.pubacq s k x.a x.b)
  | 3 => need (x.lo5 == 0 && x.a == 0 && x.b == 0) .reserved (.ok .bar)
  | 4 => need (x.lo5 == 0 && x.a == 0 && x.b == 0) .reserved (.ok .fence)
  | _ => .error .function

/-- Launch instructions, opcode 0x51 (R377). -/
def decodeLaunch (x : F32) : Except DecodeError Instr :=
  let none3 := x.d == 0 && x.a == 0 && x.b == 0
  need (x.lo5 == 0) .reserved <|
  match x.hi5.toNat with
  | 0 => need (x.d == 0 && x.b == 0) .reserved (.ok (.launch x.a))
  | 1 => need (x.a == 0 && x.b == 0) .reserved (.ok (.wnext x.d))
  | 2 => need (x.a == 0 && x.b == 0) .reserved (.ok (.wsplit x.d))
  | 3 => need none3 .reserved (.ok .wdone)
  | 4 => .ok (.ctwait x.d x.a x.b)
  | 5 => .ok (.ctinc x.d x.a x.b)
  | 6 => need none3 .reserved (.ok .npbegin)
  | 7 => need none3 .reserved (.ok .npend)
  | 8 => need none3 .reserved (.ok .yield)
  | 9 => need none3 .reserved (.ok .exit)
  | _ => .error .function

/-- System instructions, opcode 0x56 (R216). -/
def decodeSystem (x : F32) : Except DecodeError Instr :=
  need (x.lo5 == 0) .reserved <|
  match x.hi5.toNat with
  | 0 => need (x.d == 0 && x.a == 0 && x.b == 0) .reserved (.ok .tret)
  | 1 => need (x.b == 0) .reserved (.ok (.evwait x.d x.a))
  | 2 => need (x.d == 0 && x.a == 0 && x.b == 0) .reserved (.ok .halt)
  | 3 => need (x.d == 0 && x.b == 0) .reserved (.ok (.ptinv x.a))
  | 4 => need (x.b == 0) .reserved (.ok (.capfence x.d x.a))
  | 5 => need (x.b == 0) .reserved (.ok (.captest x.d x.a))
  | 6 => need (x.d == 0) .reserved (.ok (.bbox x.a x.b))
  | 7 => need (x.a == 0 && x.b == 0) .reserved (.ok (.tstamp x.d))
  | _ => .error .function

/-- VSETL and its gang form, opcode 0x58 (R128). -/
def decodeVsetl (x : F32) : Except DecodeError Instr :=
  let i := x.immI
  need (i.extractLsb' 0 6 == 0) .reserved <|
  needSome (Tag.ofCode (i.extractLsb' 6 5)) .tag fun t =>
  needSome (Clus.ofCode (i.extractLsb' 11 3)) .function fun c =>
  if i.getLsbD 14 then need (x.d != 2) .function (.ok (.vsetlG x.d x.a t c)) else .ok (.vsetl x.d x.a t c)

/-- The instruction of the fields of a 32-bit word (R89, R90). -/
def decodeF32 (x : F32) : Except DecodeError Instr :=
  match x.op.toNat with
  | 0x01 => decodeInt x
  | 0x02 => need (x.lo5 == 0) .reserved (.ok (.sel x.d x.a x.b x.hi5))
  | 0x03 => .ok (.addi x.d x.a x.immI)
  | 0x04 => .ok (.andi x.d x.a x.immI)
  | 0x05 => .ok (.ori x.d x.a x.immI)
  | 0x06 => .ok (.xori x.d x.a x.immI)
  | 0x07 => .ok (.slti x.d x.a x.immI)
  | 0x08 => decodeShift x (.slli x.d x.a)
  | 0x09 => decodeShift x (.srli x.d x.a)
  | 0x0A => decodeShift x (.srai x.d x.a)
  | 0x0B => .ok (.lui x.d x.imm20)
  | 0x0C => .ok (.auipc x.d x.imm20)
  | 0x20 => .ok (.ldB x.d x.a x.immI)
  | 0x21 => .ok (.ldH x.d x.a x.immI)
  | 0x22 => .ok (.ldW x.d x.a x.immI)
  | 0x23 => .ok (.ldD x.d x.a x.immI)
  | 0x24 => .ok (.ldBU x.d x.a x.immI)
  | 0x25 => .ok (.ldHU x.d x.a x.immI)
  | 0x26 => .ok (.ldWU x.d x.a x.immI)
  | 0x27 => need (x.immI.extractLsb' 1 2 == 0) .reserved
              (.ok (.ldh x.d x.a (x.immI.extractLsb' 3 12) (x.immI.getLsbD 0)))
  | 0x28 => .ok (.stB x.b x.a x.immB)
  | 0x29 => .ok (.stH x.b x.a x.immB)
  | 0x2A => .ok (.stW x.b x.a x.immB)
  | 0x2B => .ok (.stD x.b x.a x.immB)
  | 0x2C => .ok (.ldsd x.d x.a x.immI)
  | 0x2D => .ok (.stsd x.b x.a x.immB)
  | 0x2E => decodeAmo x
  | 0x2F => need (x.f.extractLsb' 0 2 == 0) .reserved
              (.ok (.amoCas (x.f.getLsbD 4) (Order.ofCode (x.f.extractLsb' 2 2)) x.d x.a x.b x.hi5))
  | 0x30 => .ok (.beq x.a x.b x.immB)
  | 0x31 => .ok (.bne x.a x.b x.immB)
  | 0x32 => .ok (.blt x.a x.b x.immB)
  | 0x33 => .ok (.bge x.a x.b x.immB)
  | 0x34 => .ok (.bltu x.a x.b x.immB)
  | 0x35 => .ok (.bgeu x.a x.b x.immB)
  | 0x36 => .ok (.jal x.d x.imm20)
  | 0x37 => .ok (.jalr x.d x.a x.immI)
  | 0x38 => need (x.b == 0) .reserved (.ok (.vbany x.a x.immB))
  | 0x39 => need (x.b == 0) .reserved (.ok (.vbnone x.a x.immB))
  | 0x3A => need (x.b == 0) .reserved (.ok (.vbrf x.a x.immB))
  | 0x3B => need (x.f == 0 && x.b == 0 && x.a == 0 && x.d == 0) .reserved (.ok .frgpop)
  | 0x40 => decodeFRound x fun w r => .fadd w r x.d x.a x.b
  | 0x41 => decodeFRound x fun w r => .fsub w r x.d x.a x.b
  | 0x42 => decodeFRound x fun w r => .fmul w r x.d x.a x.b
  | 0x43 => decodeFRound x fun w r => .fdiv w r x.d x.a x.b
  | 0x44 => need (x.b == 0) .reserved (decodeFRound x fun w r => .fsqrt w r x.d x.a)
  | 0x45 => decodeFPlain x fun w => .fmin w x.d x.a x.b
  | 0x46 => decodeFPlain x fun w => .fmax w x.d x.a x.b
  | 0x47 => need (x.f.extractLsb' 7 3 == 0 && x.f.extractLsb' 0 3 == 0) .reserved <|
            needSome (FCond.ofCode (x.f.extractLsb' 4 3)) .function fun c => .ok (.fcmp c (x.f.getLsbD 3) x.d x.a x.b)
  | 0x48 => need (x.b == 0 && !x.f.getLsbD 3) .reserved <|
            needSome (CvtKind.ofCode (x.f.extractLsb' 7 3)) .function fun k1 =>
            needSome (CvtKind.ofCode (x.f.extractLsb' 4 3)) .function fun k2 =>
            needSome (Rnd.ofCode (x.f.extractLsb' 0 3)) .rounding fun r =>
            need (Instr.cvtKindsOk k1 k2) .function (.ok (.fcvt k1 k2 r x.d x.a))
  | 0x49 => need (!x.f.getLsbD 4) .reserved <|
            needSome (Rnd.ofCode (x.f.extractLsb' 0 3)) .rounding fun r =>
            .ok (.ffma (x.f.getLsbD 3) r x.d x.a x.b x.hi5)
  | 0x50 => decodeOrder x
  | 0x51 => decodeLaunch x
  | 0x52 => need (x.a == 0) .reserved (.ok (.csrr x.d x.immI))
  | 0x53 => .ok (.csrw x.d x.immI x.a)
  | 0x54 => .ok (.csrs x.d x.immI x.a)
  | 0x55 => .ok (.csrc x.d x.immI x.a)
  | 0x56 => decodeSystem x
  | 0x57 => need (x.immI.extractLsb' 8 7 == 0 && x.a == 0 && x.d == 0) .reserved
              (.ok (.trap (x.immI.extractLsb' 0 8)))
  | 0x58 => decodeVsetl x
  | 0x59 => need (x.lo5 == 0 && x.b == 0 && x.a == 0 && x.d == 0) .reserved <|
            match x.hi5.toNat with
            | 0 => .ok .mxon
            | 1 => .ok .mxoff
            | _ => .error .function
  | _ => .error .opcode

/-- The instruction of a 32-bit word (R89, R90). The words 0x0000_0000 and 0xFFFF_FFFF are rejected by their opcodes:
0x00 is not assigned, and 0x7F is the convoy header's, which is no scalar word. -/
def decodeWord (w : BitVec 32) : Except DecodeError Instr := decodeF32 (F32.split w)

/-! ## The fields of a member -/

/-- A member word cut at its common fields (R74). -/
structure F64 where
  cls : BitVec 18
  qual : BitVec 4
  z : Bool
  sense : Bool
  pred : BitVec 5
  vc : BitVec 6
  vb : BitVec 6
  va : BitVec 6
  vd : BitVec 6
  op : BitVec 8
  unit : BitVec 3
  deriving DecidableEq, Repr

/-- The fields of a member (R74). -/
def F64.split (w : BitVec 64) : F64 :=
  { cls := w.extractLsb' 46 18, qual := w.extractLsb' 42 4, z := w.getLsbD 41, sense := w.getLsbD 40,
    pred := w.extractLsb' 35 5, vc := w.extractLsb' 29 6, vb := w.extractLsb' 23 6, va := w.extractLsb' 17 6,
    vd := w.extractLsb' 11 6, op := w.extractLsb' 3 8, unit := w.extractLsb' 0 3 }

/-- The member of its fields (R74). -/
def F64.join (x : F64) : BitVec 64 :=
  x.cls ++ x.qual ++ bit x.z 1 ++ bit x.sense 1 ++ x.pred ++ x.vc ++ x.vb ++ x.va ++ x.vd ++ x.op ++ x.unit

/-- The governing fields of a member. -/
def F64.gov (x : F64) : Gov := ⟨x.pred, x.sense, x.z⟩
/-- Whether the member is ungoverned: pred, sense and z all zero. -/
def F64.ungov (x : F64) : Bool := x.pred == 0 && !x.sense && !x.z

/-- A register field that names an s-register, a predicate or a plane register: bit 5 must be zero (R74, R93). -/
def reg5 (r : BitVec 6) {α : Type} (k : BitVec 5 → Except DecodeError α) : Except DecodeError α :=
  need (!r.getLsbD 5) .reserved (k (r.extractLsb' 0 5))

/-- The same field written from a five-bit register. -/
def wide (r : BitVec 5) : BitVec 6 := r.setWidth 6

/-- A rounding code in qual [45:42] (R53, R76). -/
def qualRnd (q : BitVec 4) : Option Rnd := if q.getLsbD 3 then none else Rnd.ofCode (q.extractLsb' 0 3)

/-- The VA class field: tag, sat, ss, fn7 (R75). -/
structure ClsVA where
  tag : BitVec 5
  sat : Bool
  ss : BitVec 5
  fn : BitVec 7
  deriving DecidableEq, Repr

/-- The VA class field of [63:46]. -/
def ClsVA.split (c : BitVec 18) : ClsVA :=
  { tag := c.extractLsb' 13 5, sat := c.getLsbD 12, ss := c.extractLsb' 7 5, fn := c.extractLsb' 0 7 }
/-- [63:46] of a VA member. -/
def ClsVA.join (c : ClsVA) : BitVec 18 := c.tag ++ bit c.sat 1 ++ c.ss ++ c.fn

/-- The XL class field: ss, px, redop, ord, keep, fn3 (R75). -/
structure ClsXL where
  ss : BitVec 5
  px : BitVec 5
  redop : BitVec 3
  ord : Bool
  keep : Bool
  fn : BitVec 3
  deriving DecidableEq, Repr

/-- The XL class field of [63:46]. -/
def ClsXL.split (c : BitVec 18) : ClsXL :=
  { ss := c.extractLsb' 13 5, px := c.extractLsb' 8 5, redop := c.extractLsb' 5 3, ord := c.getLsbD 4,
    keep := c.getLsbD 3, fn := c.extractLsb' 0 3 }
/-- [63:46] of an XL member. -/
def ClsXL.join (c : ClsXL) : BitVec 18 := c.ss ++ c.px ++ c.redop ++ bit c.ord 1 ++ bit c.keep 1 ++ c.fn

/-- The VM class field: sbase, sstr, off8 (R75). -/
structure ClsVM where
  sbase : BitVec 5
  sstr : BitVec 5
  off : BitVec 8
  deriving DecidableEq, Repr

/-- The VM class field of [63:46]. -/
def ClsVM.split (c : BitVec 18) : ClsVM :=
  { sbase := c.extractLsb' 13 5, sstr := c.extractLsb' 8 5, off := c.extractLsb' 0 8 }
/-- [63:46] of a VM member. -/
def ClsVM.join (c : ClsVM) : BitVec 18 := c.sbase ++ c.sstr ++ c.off

/-- The MX class field: acc, tag, ss, fn6 (R75). -/
structure ClsMX where
  acc : BitVec 2
  tag : BitVec 5
  ss : BitVec 5
  fn : BitVec 6
  deriving DecidableEq, Repr

/-- The MX class field of [63:46]. -/
def ClsMX.split (c : BitVec 18) : ClsMX :=
  { acc := c.extractLsb' 16 2, tag := c.extractLsb' 11 5, ss := c.extractLsb' 6 5, fn := c.extractLsb' 0 6 }
/-- [63:46] of an MX member. -/
def ClsMX.join (c : ClsMX) : BitVec 18 := c.acc ++ c.tag ++ c.ss ++ c.fn

/-- The BK class field: ss, sgn, sat, imm11 (R75). -/
structure ClsBK where
  ss : BitVec 5
  sgn : Bool
  sat : Bool
  imm : BitVec 11
  deriving DecidableEq, Repr

/-- The BK class field of [63:46]. -/
def ClsBK.split (c : BitVec 18) : ClsBK :=
  { ss := c.extractLsb' 13 5, sgn := c.getLsbD 12, sat := c.getLsbD 11, imm := c.extractLsb' 0 11 }
/-- [63:46] of a BK member. -/
def ClsBK.join (c : ClsBK) : BitVec 18 := c.ss ++ bit c.sgn 1 ++ bit c.sat 1 ++ c.imm

/-- The CP class field: sdst, ssrc, slen, chunk (R75). -/
structure ClsCP where
  sdst : BitVec 5
  ssrc : BitVec 5
  slen : BitVec 5
  chunk : BitVec 3
  deriving DecidableEq, Repr

/-- The CP class field of [63:46]. -/
def ClsCP.split (c : BitVec 18) : ClsCP :=
  { sdst := c.extractLsb' 13 5, ssrc := c.extractLsb' 8 5, slen := c.extractLsb' 3 5, chunk := c.extractLsb' 0 3 }
/-- [63:46] of a CP member. -/
def ClsCP.join (c : ClsCP) : BitVec 18 := c.sdst ++ c.ssrc ++ c.slen ++ c.chunk

/-! ### Unit VA (R141, R145 to R162, R130 to R136) -/

/-- Marks of a VA row: whether it takes b, c, the vs form, sat, a rounding code, a tag, and its sub-function bits. -/
structure RowVA where
  b : Bool := false
  c : Bool := false
  vs : Bool := false
  sat : Bool := false
  rnd : Bool := false
  tag : Bool := false
  fn : Nat := 0          -- largest value of fn7[5:0]
  ss : Bool := false      -- ss used outside the vs form
  a : Bool := true
  deriving DecidableEq, Repr

/-- The row's checks on the fields of a member: every field it does not use is zero (R141). -/
def RowVA.ok (m : RowVA) (x : F64) (c : ClsVA) : Bool :=
  let vs := m.vs && c.fn.getLsbD 6
  (m.a || x.va == 0) && (if m.b then !vs || x.vb == 0 else x.vb == 0) && (m.c || x.vc == 0) &&
  (m.sat || !c.sat) && (m.rnd || x.qual == 0) && (m.tag || c.tag == 0) && (m.ss || vs || c.ss == 0) &&
  (m.vs || !c.fn.getLsbD 6) && decide ((c.fn.extractLsb' 0 6).toNat ≤ m.fn)

/-- Operand b: the s-register of the vs form or vb (R141). -/
def opB (x : F64) (c : ClsVA) : VB := if c.fn.getLsbD 6 then .s c.ss else .v x.vb

/-- A row of unit VA: its marks are checked, then it is built from its rounding code. -/
def rowVA (x : F64) (c : ClsVA) (m : RowVA) (k : Rnd → Except DecodeError Instr) : Except DecodeError Instr :=
  need (m.ok x c) .reserved <| needSome (qualRnd x.qual) .rounding k

/-- The members of unit VA (R92). -/
def decodeVA (x : F64) : Except DecodeError Instr :=
  let c := ClsVA.split x.cls
  let g := x.gov
  let b := opB x c
  let pd (k : BitVec 5 → Except DecodeError Instr) := reg5 x.vd k
  let pa (k : BitVec 5 → Except DecodeError Instr) := reg5 x.va k
  let pb (k : BitVec 5 → Except DecodeError Instr) := reg5 x.vb k
  let plog (mk : Gov → PReg → PReg → PReg → Instr) :=
    rowVA x c { b := true } fun _ => pd fun d => pa fun a => pb fun b => .ok (mk g d a b)
  let ungov (k : Except DecodeError Instr) := need x.ungov .reserved k
  match x.op.toNat with
  | 0x01 => rowVA x c { b := true, vs := true, sat := true, rnd := true } fun r => .ok (.vadd g x.vd x.va b c.sat r)
  | 0x02 => rowVA x c { b := true, vs := true, sat := true, rnd := true } fun r => .ok (.vsub g x.vd x.va b c.sat r)
  | 0x03 => rowVA x c { b := true, vs := true, sat := true, rnd := true } fun r => .ok (.vmul g x.vd x.va b c.sat r)
  | 0x04 => rowVA x c { b := true, vs := true } fun _ => .ok (.vmulh g x.vd x.va b)
  | 0x05 => rowVA x c { b := true, c := true, sat := true, rnd := true } fun r => .ok (.vfma g x.vd x.va x.vb x.vc c.sat r)
  | 0x06 => rowVA x c { b := true, c := true, sat := true, rnd := true } fun r => .ok (.vfms g x.vd x.va x.vb x.vc c.sat r)
  | 0x07 => rowVA x c { b := true, c := true, sat := true, rnd := true } fun r => .ok (.vnfma g x.vd x.va x.vb x.vc c.sat r)
  | 0x08 => rowVA x c { b := true, vs := true, sat := true, rnd := true } fun r => .ok (.vdiv g x.vd x.va b c.sat r)
  | 0x09 => rowVA x c { rnd := true } fun r => .ok (.vsqrt g x.vd x.va r)
  | 0x0A => rowVA x c { rnd := true } fun r => .ok (.vrcp g x.vd x.va r)
  | 0x0B => rowVA x c { rnd := true } fun r => .ok (.vrsq g x.vd x.va r)
  | 0x0C => rowVA x c { rnd := true } fun r => .ok (.vexp2 g x.vd x.va r)
  | 0x0D => rowVA x c { rnd := true } fun r => .ok (.vlog2 g x.vd x.va r)
  | 0x0E => rowVA x c { rnd := true } fun r => .ok (.vtanh g x.vd x.va r)
  | 0x0F => rowVA x c { b := true, vs := true } fun _ => .ok (.vmin g x.vd x.va b)
  | 0x10 => rowVA x c { b := true, vs := true } fun _ => .ok (.vmax g x.vd x.va b)
  | 0x11 => rowVA x c { sat := true } fun _ => .ok (.vabs g x.vd x.va c.sat)
  | 0x12 => rowVA x c { sat := true } fun _ => .ok (.vneg g x.vd x.va c.sat)
  | 0x13 => rowVA x c { b := true, vs := true } fun _ => .ok (.vand g x.vd x.va b)
  | 0x14 => rowVA x c { b := true, vs := true } fun _ => .ok (.vor g x.vd x.va b)
  | 0x15 => rowVA x c { b := true, vs := true } fun _ => .ok (.vxor g x.vd x.va b)
  | 0x16 => rowVA x c {} fun _ => .ok (.vnot g x.vd x.va)
  | 0x17 => rowVA x c { b := true, vs := true, sat := true } fun _ => .ok (.vshl g x.vd x.va b c.sat)
  | 0x18 => rowVA x c { b := true, vs := true } fun _ => .ok (.vshr g x.vd x.va b)
  | 0x19 => rowVA x c { b := true, vs := true, fn := 1 } fun _ => .ok (.vrot g x.vd x.va b (c.fn.getLsbD 0))
  | 0x1A => rowVA x c {} fun _ => .ok (.vclz g x.vd x.va)
  | 0x1B => rowVA x c {} fun _ => .ok (.vpopc g x.vd x.va)
  | 0x1C => rowVA x c { b := true, vs := true, fn := 1 } fun _ => .ok (.vclmul g x.vd x.va b (c.fn.getLsbD 0))
  | 0x1D => rowVA x c { b := true, vs := true, fn := 6 } fun _ =>
              needSome (VCond.ofCode (c.fn.extractLsb' 0 3)) .function fun k => pd fun d => .ok (.vcmp g d x.va b k)
  | 0x1E => rowVA x c { b := true, c := true } fun _ => reg5 x.vc fun p => .ok (.vsel g x.vd x.va x.vb p)
  | 0x1F => rowVA x c { sat := true, rnd := true, tag := true } fun r =>
              needSome (Tag.ofCode c.tag) .tag fun t => .ok (.vcvt g x.vd x.va t c.sat r)
  | 0x20 => rowVA x c { b := true, vs := true, rnd := true } fun r => .ok (.vscale g x.vd x.va b r)
  | 0x21 => rowVA x c { rnd := true, tag := true } fun r =>
              needSome (Tag.ofCode c.tag) .tag fun t => .ok (.vqnt g x.vd x.va t r)
  | 0x22 => rowVA x c {} fun _ => .ok (.vmov g x.vd x.va)
  | 0x23 => rowVA x c { a := false, ss := true, tag := true } fun _ =>
              needSome (Tag.ofCode c.tag) .tag fun t => .ok (.vsplat g x.vd c.ss t)
  | 0x24 => rowVA x c { a := false, ss := true, sat := true, tag := true } fun _ =>
              needSome (Tag.ofCode c.tag) .tag fun t => .ok (.viota g x.vd c.ss t c.sat)
  | 0x25 => rowVA x c { a := false, tag := true } fun _ => ungov <|
              needSome (Tag.ofCode c.tag) .tag fun t => .ok (.vtag x.vd t)
  | 0x26 => rowVA x c { ss := true } fun _ => ungov <| need (x.vd == 0) .reserved (.ok (.vtagq c.ss x.va))
  | 0x27 => rowVA x c { a := false, ss := true } fun _ => need (!x.z) .reserved <| pd fun d => .ok (.psetc g d c.ss)
  | 0x28 => plog .pand
  | 0x29 => plog .por
  | 0x2A => plog .pxor
  | 0x2B => rowVA x c {} fun _ => pd fun d => pa fun a => .ok (.pnot g d a)
  | 0x2C => plog .pandn
  | 0x2D => rowVA x c { tag := true, fn := 1 } fun _ => ungov <| need (c.tag == 0x09#5) .function <|
              pa fun a => need (a.extractLsb' 0 3 == 0) .function (.ok (.ppack x.vd (a.extractLsb' 3 2) (c.fn.getLsbD 0)))
  | 0x2E => rowVA x c { fn := 1 } fun _ => ungov <|
              pd fun d => need (d.extractLsb' 0 3 == 0) .function (.ok (.punpack (d.extractLsb' 3 2) x.va (c.fn.getLsbD 0)))
  | 0x2F => rowVA x c { b := true, ss := true } fun _ => ungov <| need (x.vd == 0) .reserved <|
              pa fun a => pb fun k => .ok (.pmovs c.ss a k)
  | _ => .error .opcode

/-! ### Unit XL (R168, R134) -/

/-- Marks of an XL row. -/
structure RowXL where
  d : Bool := true
  a : Bool := true
  b : Bool := false
  ss : Bool := false
  px : Bool := false
  red : Bool := false
  keep : Bool := false
  fn : Nat := 0
  z : Bool := true
  deriving DecidableEq, Repr

/-- The row's checks: every field it does not use is zero (R168). -/
def RowXL.ok (m : RowXL) (x : F64) (c : ClsXL) : Bool :=
  (m.d || x.vd == 0) && (m.a || x.va == 0) && (m.b || x.vb == 0) && x.vc == 0 && (m.ss || c.ss == 0) &&
  (m.px || c.px == 0) && (m.red || (c.redop == 0 && !c.ord && x.qual == 0)) && (m.keep || !c.keep) &&
  decide (c.fn.toNat ≤ m.fn) && (m.z || !x.z)

/-- The members of unit XL (R92). -/
def decodeXL (x : F64) : Except DecodeError Instr :=
  let c := ClsXL.split x.cls
  let g := x.gov
  let row (m : RowXL) (k : Except DecodeError Instr) := need (m.ok x c) .reserved k
  match x.op.toNat with
  | 0x01 => row { b := true, keep := true } (.ok (.vperm g x.vd x.va x.vb c.keep))
  | 0x02 => row { b := true, px := true } (.ok (.vput g x.vd x.va x.vb c.px))
  | 0x03 => row { ss := true, keep := true } (.ok (.vslu g x.vd x.va c.ss c.keep))
  | 0x04 => row { ss := true, keep := true } (.ok (.vsld g x.vd x.va c.ss c.keep))
  | 0x05 => row { ss := true } (.ok (.vcomp g x.vd x.va c.ss))
  | 0x06 => row { z := false } (.ok (.vexpd g x.vd x.va))
  | 0x07 => row { b := true, ss := true, red := true, fn := 1, z := false } <|
              needSome (RedOp.ofCode c.redop) .function fun op => needSome (qualRnd x.qual) .rounding fun r =>
              need (op == .sum || (!c.ord && r == .dyn)) .function <| need (c.ord || x.vb == 0) .reserved
                (.ok (.vred g op c.ord (c.fn.getLsbD 0) r x.vd x.va x.vb c.ss))
  | 0x08 => row { red := true, fn := 3 } <| need (!c.ord) .reserved <|
              needSome (RedOp.ofCode c.redop) .function fun op => needSome (qualRnd x.qual) .rounding fun r =>
              .ok (.vscan g op (c.fn.getLsbD 1) (c.fn.getLsbD 0) r x.vd x.va)
  | 0x09 => row { ss := true } <| reg5 x.vd fun d => .ok (.vconf g d x.va c.ss)
  | 0x0A => row { b := true, keep := true, fn := 1 } (.ok (.vzip g x.vd x.va x.vb (c.fn.getLsbD 0) c.keep))
  | 0x0B => row { b := true, keep := true, fn := 1 } (.ok (.vunzip g x.vd x.va x.vb (c.fn.getLsbD 0) c.keep))
  | 0x0C => row { ss := true, keep := true } (.ok (.vbcast g x.vd x.va c.ss c.keep))
  | 0x0D => row { d := false, b := true, ss := true, keep := true } <|
              reg5 x.vb fun k => .ok (.vexts g c.ss x.va k c.keep)
  | 0x0E => row { a := false, b := true, ss := true, z := false } <| reg5 x.vb fun k => .ok (.vinss g x.vd c.ss k)
  | 0x0F => row { d := false, ss := true } <| reg5 x.va fun a => .ok (.plead g c.ss a)
  | 0x10 => row { d := false, ss := true } <| reg5 x.va fun a => .ok (.pnum g c.ss a)
  | _ => .error .opcode

/-! ### Unit VM (R279) -/

/-- Marks of a VM row. -/
structure RowVM where
  d : Bool := false
  a : Bool := false
  b : Bool := false
  str : Bool := false
  ff : Bool := false
  z : Bool := false
  deriving DecidableEq, Repr

/-- The row's checks (R76, R279). -/
def RowVM.ok (m : RowVM) (x : F64) (c : ClsVM) : Bool :=
  (m.d || x.vd == 0) && (m.a || x.va == 0) && (m.b || x.vb == 0) && x.vc == 0 && (m.str || c.sstr == 0) &&
  x.qual.extractLsb' 0 2 == 0 && (m.ff || x.qual.extractLsb' 2 2 == 0) && (m.z || !x.z)

/-- The members of unit VM (R92). -/
def decodeVM (x : F64) : Except DecodeError Instr :=
  let c := ClsVM.split x.cls
  let g := x.gov
  let ff := x.qual.getLsbD 3
  let ck := x.qual.getLsbD 2
  let row (m : RowVM) (k : Except DecodeError Instr) := need (m.ok x c) .reserved k
  let load (m : RowVM) (i : Instr) := row m (need (!ck || (x.pred != 0 && !x.sense)) .function (.ok i))
  match x.op.toNat with
  | 0x01 => load { d := true, str := true, ff := true, z := true } (.vld g x.vd c.off c.sbase c.sstr ff ck)
  | 0x02 => load { d := true, str := true, ff := true, z := true } (.vlds g x.vd c.off c.sbase c.sstr ff ck)
  | 0x03 => load { d := true, b := true, ff := true, z := true } (.vldx g x.vd c.off c.sbase x.vb ff ck)
  | 0x04 => row { a := true, str := true } (.ok (.vst g x.va c.off c.sbase c.sstr))
  | 0x05 => row { a := true, str := true } (.ok (.vsts g x.va c.off c.sbase c.sstr))
  | 0x06 => row { a := true, b := true } (.ok (.vstx g x.va c.off c.sbase x.vb))
  | 0x07 => row { d := true, b := true, z := true } (.ok (.vlsx g x.vd c.off c.sbase x.vb))
  | 0x08 => row { a := true, b := true } (.ok (.vssx g x.va c.off c.sbase x.vb))
  | 0x09 => row { d := true, b := true, str := true, z := true } <|
              need (c.sstr.extractLsb' 2 3 == 0) .reserved <| need (!c.sstr.getLsbD 1) .function
                (.ok (.vldh g x.vd c.off c.sbase x.vb (c.sstr.getLsbD 0)))
  | 0x0A => row { str := true } <| need x.ungov .reserved (.ok (.vpf c.off c.sbase c.sstr))
  | 0x0B => row { a := true, b := true, str := true } <|
              needSome (VAmoOp.ofCode (c.sstr.extractLsb' 2 3)) .function fun op =>
              .ok (.vamo g op (Order.ofCode (c.sstr.extractLsb' 0 2)) x.va c.off c.sbase x.vb)
  | _ => .error .opcode

/-! ### Unit MX (R189) -/

/-- The members of unit MX (R92). -/
def decodeMX (x : F64) : Except DecodeError Instr :=
  let c := ClsMX.split x.cls
  let g := x.gov
  let plain := c.tag == 0 && c.ss == 0 && c.fn == 0 && x.qual == 0 && !x.z && x.vc == 0
  match x.op.toNat with
  | 0x01 => need (c.acc == 0 && c.fn == 0 && x.qual == 0 && x.ungov && x.vd == 0) .reserved <|
              needSome (Tag.ofCode c.tag) .tag fun t => need t.tileSource .function <|
              reg5 x.va fun m => reg5 x.vb fun n => reg5 x.vc fun k => .ok (.tshape c.ss m n k t)
  | 0x02 => need (plain && x.vd == 0) .reserved <| need (x.vb.extractLsb' 0 3 == 0) .function (.ok (.mma g c.acc x.va x.vb))
  | 0x03 => need (plain && x.vd == 0) .reserved <| need (x.vb.extractLsb' 0 3 == 0) .function (.ok (.mmas g c.acc x.va x.vb))
  | 0x04 => need (plain && x.ungov && x.vd == 0 && x.va == 0 && x.vb == 0) .reserved (.ok (.mxzero c.acc))
  | 0x05 => need (x.va == 0 && x.vb == 0 && x.vc == 0 && c.fn.extractLsb' 2 4 == 0) .reserved <|
              need (c.fn.getLsbD 0 || !c.fn.getLsbD 1) .function <|
              needSome (Tag.ofCode c.tag) .tag fun t => needSome (qualRnd x.qual) .rounding fun r =>
              .ok (.mxext g x.vd c.acc c.ss t (c.fn.getLsbD 0) (c.fn.getLsbD 1) r)
  | 0x06 => need (c.tag == 0 && c.fn == 0 && x.qual == 0 && !x.z && x.vc == 0 && x.vb == 0 && x.vd == 0) .reserved
              (.ok (.mxins g c.acc x.va c.ss))
  | 0x07 => need (c.acc == 0 && c.tag == 0 && c.fn == 0 && x.qual == 0 && x.ungov && x.vc == 0 && x.vb == 0 &&
                  x.va == 0 && x.vd == 0) .reserved (.ok (.mxpert c.ss))
  | _ => .error .opcode

/-! ### Unit BK (R317) -/

/-- Marks of a BK row. -/
structure RowBK where
  d : Bool := false
  a : Bool := false
  b : Bool := false
  c : Bool := false
  ss : Bool := false
  sgn : Bool := false
  sat : Bool := false
  imm : Bool := false
  deriving DecidableEq, Repr

/-- The row's checks: BK members are ungoverned, and every field a row leaves blank is zero (R317). -/
def RowBK.ok (m : RowBK) (x : F64) (c : ClsBK) : Bool :=
  x.ungov && x.qual == 0 && (m.d || x.vd == 0) && (m.a || x.va == 0) && (m.b || x.vb == 0) && (m.c || x.vc == 0) &&
  (m.ss || c.ss == 0) && (m.sgn || !c.sgn) && (m.sat || !c.sat) && (m.imm || c.imm == 0)

/-- The members of unit BK (R92). -/
def decodeBK (x : F64) : Except DecodeError Instr :=
  let c := ClsBK.split x.cls
  let row (m : RowBK) (k : Except DecodeError Instr) := need (m.ok x c) .reserved k
  let d (k : BitVec 5 → Except DecodeError Instr) := reg5 x.vd k
  let a (k : BitVec 5 → Except DecodeError Instr) := reg5 x.va k
  let b (k : BitVec 5 → Except DecodeError Instr) := reg5 x.vb k
  let e (k : BitVec 5 → Except DecodeError Instr) := reg5 x.vc k
  let dab (m : RowBK) (mk : BitVec 5 → BitVec 5 → BitVec 5 → Instr) :=
    row m <| d fun d => a fun a => b fun b => .ok (mk d a b)
  let shift (sgn : Bool) (mk : BitVec 5 → BitVec 5 → BitVec 5 → Bool → Bool → Instr) :=
    row { d := true, a := true, imm := true, sgn := sgn } <| need (c.imm.extractLsb' 5 5 == 0) .reserved <|
      need (!c.sgn || !c.imm.getLsbD 10) .reserved <|
      d fun d => a fun a => .ok (mk d a (c.imm.extractLsb' 0 5) (c.imm.getLsbD 10) c.sgn)
  match x.op.toNat with
  | 0x01 => row { a := true, ss := true } <| a fun a => .ok (.bsetl c.ss a)
  | 0x02 => row { a := true, b := true } <| a fun a => b fun b => .ok (.balloc a b)
  | 0x03 => row { d := true, a := true } <| d fun d => a fun a => .ok (.bplane d a)
  | 0x04 => row { a := true, b := true, c := true } <| a fun a => b fun b => e fun e => .ok (.brlk a b e)
  | 0x05 => row { a := true, b := true } <| a fun a => b fun b => .ok (.brul a b)
  | 0x06 => dab { d := true, a := true, b := true, sgn := true, sat := true } fun d a b => .bldp d a b c.sgn c.sat
  | 0x07 => row { a := true, b := true, c := true, sgn := true } <| a fun p => b fun sa => e fun sb => .ok (.bstp p sa sb c.sgn)
  | 0x08 => row { d := true, a := true, b := true, sgn := true } <| a fun p => b fun k => d fun v => .ok (.btov v p k c.sgn)
  | 0x09 => row { d := true, a := true, b := true, sgn := true, sat := true } <|
              d fun p => b fun k => a fun v => .ok (.vtob p v k c.sgn c.sat)
  | 0x0A => row { d := true, a := true } <| d fun d => a fun a => .ok (.bnot d a)
  | 0x0B => dab { d := true, a := true, b := true } .band
  | 0x0C => dab { d := true, a := true, b := true } .bor
  | 0x0D => dab { d := true, a := true, b := true } .bxor
  | 0x0E => row { d := true, a := true, b := true, c := true } <| d fun d => a fun a => b fun b => e fun e => .ok (.bmaj d a b e)
  | 0x0F => dab { d := true, a := true, b := true, sgn := true, sat := true } fun d a b => .badd d a b c.sgn c.sat
  | 0x10 => dab { d := true, a := true, b := true, sgn := true, sat := true } fun d a b => .bsub d a b c.sgn c.sat
  | 0x11 => row { d := true, a := true, ss := true, sgn := true } <| d fun d => a fun a => .ok (.bmulc d a c.ss c.sgn)
  | 0x12 => dab { d := true, a := true, b := true, sgn := true } fun d a b => .bmac d a b c.sgn
  | 0x13 => row { d := true, a := true, ss := true, sgn := true } <| d fun d => a fun a => .ok (.bmact d a c.ss c.sgn)
  | 0x14 => row { d := true, a := true, b := true, sgn := true, imm := true } <| need (c.imm.extractLsb' 2 9 == 0) .reserved <|
              d fun d => a fun a => b fun b => .ok (.bcmp d a b (BCond.ofCode (c.imm.extractLsb' 0 2)) c.sgn)
  | 0x15 => row { d := true, a := true, b := true, c := true } <| d fun d => a fun a => b fun b => e fun e => .ok (.bsel d a b e)
  | 0x16 => shift false fun d a k col _ => .bshl d a k col
  | 0x17 => shift true fun d a k col s => .bshr d a k col s
  | 0x18 => row { a := true, ss := true } <| a fun a => .ok (.bred c.ss a)
  | 0x19 => row { a := true } <| a fun a => .ok (.bseal a)
  | 0x1A => row { a := true } <| a fun a => .ok (.bnext a)
  | 0x1B => row { ss := true } <| .ok (.bwait c.ss)
  | _ => .error .opcode

/-! ### Unit CP (R335) -/

/-- The members of unit CP (R92). -/
def decodeCP (x : F64) : Except DecodeError Instr :=
  let c := ClsCP.split x.cls
  let d (k : BitVec 5 → Except DecodeError Instr) := reg5 x.vd k
  let a (k : BitVec 5 → Except DecodeError Instr) := reg5 x.va k
  let b (k : BitVec 5 → Except DecodeError Instr) := reg5 x.vb k
  let e (k : BitVec 5 → Except DecodeError Instr) := reg5 x.vc k
  need (x.ungov && x.qual == 0) .reserved <|
  match x.op.toNat with
  | 0x01 => need (x.va == 0 && x.vb == 0) .reserved <| d fun p => e fun k => .ok (.cpy k c.sdst c.ssrc c.slen c.chunk p)
  | 0x02 => d fun p => a fun r => b fun s => e fun k => .ok (.cpy2d k c.sdst c.ssrc c.slen c.chunk r s p)
  | 0x03 => need (c.chunk == 3) .function <|
              d fun p => a fun n => b fun i => e fun k => .ok (.cpyd k c.sdst c.ssrc c.slen n i p)
  | 0x04 => need (x.vb == 0) .reserved <| d fun p => a fun r => e fun k => .ok (.cpye k c.sdst c.ssrc c.slen c.chunk r p)
  | 0x05 => need (x.vd == 0 && x.vb == 0 && c.sdst == 0 && c.slen == 0 && c.chunk == 0) .reserved <|
              a fun s => e fun k => .ok (.ckey k c.ssrc s)
  | 0x06 => need (x.vd == 0 && x.vc == 0 && x.cls == 0) .reserved <| a fun s => b fun m => .ok (.cwait s m)
  | 0x07 => need (x.vd == 0 && x.cls == 0 && x.vb.extractLsb' 2 4 == 0) .reserved <|
              a fun s => e fun k => .ok (.cstat s k (x.vb.extractLsb' 0 2))
  | _ => .error .opcode

/-- The instruction of the fields of a member (R92, R93). -/
def decodeF64 (x : F64) : Except DecodeError Instr :=
  match x.unit.toNat with
  | 0 => decodeVA x
  | 1 => decodeXL x
  | 2 => decodeVM x
  | 3 => decodeMX x
  | 4 => decodeBK x
  | 5 => decodeCP x
  | _ => .error .opcode

/-- The instruction of a 64-bit member (R92, R93). -/
def decodeMember (w : BitVec 64) : Except DecodeError Instr := decodeF64 (F64.split w)

/-! ## The convoy header (R26) -/

/-- A convoy header's fields. -/
structure Header where
  reserved : BitVec 7
  matrix : Bool
  chain : BitVec 3        -- [23:21], chain 3 in bit 2
  units : BitVec 12       -- [20:9], unit 3 high
  count : BitVec 2
  deriving DecidableEq, Repr

/-- The header of a word whose opcode is 0x7F (R26). -/
def Header.split (w : BitVec 32) : Option Header :=
  if w.extractLsb' 0 7 == 0x7F#7 then
    some { reserved := w.extractLsb' 25 7, matrix := w.getLsbD 24, chain := w.extractLsb' 21 3,
           units := w.extractLsb' 9 12, count := w.extractLsb' 7 2 }
  else none

/-- The word of a header. -/
def Header.join (h : Header) : BitVec 32 := h.reserved ++ bit h.matrix 1 ++ h.chain ++ h.units ++ h.count ++ 0x7F#7

/-- The unit code of slot k. -/
def Header.unit (h : Header) (k : Nat) : BitVec 3 := h.units.extractLsb' (3 * k) 3
/-- The number of members. -/
def Header.members (h : Header) : Nat := h.count.toNat + 1
/-- Chain bit k; there is none for member 0. -/
def Header.chained (h : Header) (k : Nat) : Bool := match k with | 0 => false | k + 1 => h.chain.getLsbD k

/-- What a fetched 32-bit word is. -/
inductive Fetched where
  | word (i : Instr)
  | convoy (h : Header)
  | bad (e : DecodeError)
  deriving DecidableEq, Repr

/-- The fate of a fetched word by its own bits (R73, R89). 0xFFFF_FFFF is not an instruction (R72). -/
def fetched (w : BitVec 32) : Fetched :=
  if w == 0xFFFFFFFF#32 then .bad .opcode
  else match Header.split w with
    | some h => .convoy h
    | none => match decodeWord w with
      | .ok i => .word i
      | .error e => .bad e

/-! ## The encoder -/

/-- Function field of an instruction selected by [31:27] with [26:22] = 0. -/
def sel10 (k : BitVec 5) : BitVec 10 := k ++ 0#5

/-- Function field of a scalar floating-point word (R115). -/
def fl10 (dbl : Bool) (r : Rnd) : BitVec 10 := 0#6 ++ bit dbl 1 ++ r.code

/-- The fields of a scalar word, none for an instruction that has no 32-bit encoding (R89). -/
def encodeF32 (i : Instr) : Option F32 :=
  match i with
  | .add d a b => some (.s3 0x01#7 0#10 b a d) | .sub d a b => some (.s3 0x01#7 1#10 b a d)
  | .and d a b => some (.s3 0x01#7 2#10 b a d) | .or d a b => some (.s3 0x01#7 3#10 b a d)
  | .xor d a b => some (.s3 0x01#7 4#10 b a d) | .sll d a b => some (.s3 0x01#7 5#10 b a d)
  | .srl d a b => some (.s3 0x01#7 6#10 b a d) | .sra d a b => some (.s3 0x01#7 7#10 b a d)
  | .slt d a b => some (.s3 0x01#7 8#10 b a d) | .sltu d a b => some (.s3 0x01#7 9#10 b a d)
  | .min d a b => some (.s3 0x01#7 10#10 b a d) | .max d a b => some (.s3 0x01#7 11#10 b a d)
  | .mul d a b => some (.s3 0x01#7 12#10 b a d) | .mulh d a b => some (.s3 0x01#7 13#10 b a d)
  | .mulhu d a b => some (.s3 0x01#7 14#10 b a d) | .div d a b => some (.s3 0x01#7 15#10 b a d)
  | .divu d a b => some (.s3 0x01#7 16#10 b a d) | .rem d a b => some (.s3 0x01#7 17#10 b a d)
  | .remu d a b => some (.s3 0x01#7 18#10 b a d) | .clz d a => some (.s3 0x01#7 19#10 0 a d)
  | .ctz d a => some (.s3 0x01#7 20#10 0 a d) | .popc d a => some (.s3 0x01#7 21#10 0 a d)
  | .sel d a b c => some (.s3 0x02#7 (sel10 c) b a d)
  | .addi d a m => some (.si 0x03#7 m a d) | .andi d a m => some (.si 0x04#7 m a d)
  | .ori d a m => some (.si 0x05#7 m a d) | .xori d a m => some (.si 0x06#7 m a d)
  | .slti d a m => some (.si 0x07#7 m a d)
  | .slli d a k => some (.si 0x08#7 (0#9 ++ k) a d) | .srli d a k => some (.si 0x09#7 (0#9 ++ k) a d)
  | .srai d a k => some (.si 0x0A#7 (0#9 ++ k) a d)
  | .lui d m => some (.sj 0x0B#7 m d) | .auipc d m => some (.sj 0x0C#7 m d)
  | .ldB d a m => some (.si 0x20#7 m a d) | .ldH d a m => some (.si 0x21#7 m a d)
  | .ldW d a m => some (.si 0x22#7 m a d) | .ldD d a m => some (.si 0x23#7 m a d)
  | .ldBU d a m => some (.si 0x24#7 m a d) | .ldHU d a m => some (.si 0x25#7 m a d)
  | .ldWU d a m => some (.si 0x26#7 m a d)
  | .ldh d a off q => some (.si 0x27#7 (off ++ 0#2 ++ bit q 1) a d)
  | .stB b a m => some (.sb 0x28#7 m b a) | .stH b a m => some (.sb 0x29#7 m b a)
  | .stW b a m => some (.sb 0x2A#7 m b a) | .stD b a m => some (.sb 0x2B#7 m b a)
  | .ldsd d a m => some (.si 0x2C#7 m a d) | .stsd b a m => some (.sb 0x2D#7 m b a)
  | .amo op w o d a b => some (.s3 0x2E#7 (op.code ++ 1#1 ++ bit w 1 ++ o.code ++ 0#2) b a d)
  | .amoCas w o d a b c => some (.s3 0x2F#7 (c ++ bit w 1 ++ o.code ++ 0#2) b a d)
  | .beq a b m => some (.sb 0x30#7 m b a) | .bne a b m => some (.sb 0x31#7 m b a)
  | .blt a b m => some (.sb 0x32#7 m b a) | .bge a b m => some (.sb 0x33#7 m b a)
  | .bltu a b m => some (.sb 0x34#7 m b a) | .bgeu a b m => some (.sb 0x35#7 m b a)
  | .jal d m => some (.sj 0x36#7 m d) | .jalr d a m => some (.si 0x37#7 m a d)
  | .vbany p m => some (.sb 0x38#7 m 0 p) | .vbnone p m => some (.sb 0x39#7 m 0 p)
  | .vbrf p m => some (.sb 0x3A#7 m 0 p) | .frgpop => some (.s3 0x3B#7 0 0 0 0)
  | .fadd w r d a b => some (.s3 0x40#7 (fl10 w r) b a d) | .fsub w r d a b => some (.s3 0x41#7 (fl10 w r) b a d)
  | .fmul w r d a b => some (.s3 0x42#7 (fl10 w r) b a d) | .fdiv w r d a b => some (.s3 0x43#7 (fl10 w r) b a d)
  | .fsqrt w r d a => some (.s3 0x44#7 (fl10 w r) 0 a d)
  | .fmin w d a b => some (.s3 0x45#7 (fl10 w .dyn) b a d) | .fmax w d a b => some (.s3 0x46#7 (fl10 w .dyn) b a d)
  | .fcmp c w d a b => some (.s3 0x47#7 (0#3 ++ c.code ++ bit w 1 ++ 0#3) b a d)
  | .fcvt k1 k2 r d a => some (.s3 0x48#7 (k1.code ++ k2.code ++ 0#1 ++ r.code) 0 a d)
  | .ffma w r d a b c => some (.s3 0x49#7 (c ++ 0#1 ++ bit w 1 ++ r.code) b a d)
  | .pub s => some (.s3 0x50#7 (0#5 ++ s.code ++ 0#2) 0 0 0)
  | .acq k a b => some (.s3 0x50#7 (1#5 ++ 0#3 ++ k.code) b a 0)
  | .pubacq s k a b => some (.s3 0x50#7 (2#5 ++ s.code ++ k.code) b a 0)
  | .bar => some (.s3 0x50#7 (sel10 3#5) 0 0 0) | .fence => some (.s3 0x50#7 (sel10 4#5) 0 0 0)
  | .launch a => some (.s3 0x51#7 (sel10 0#5) 0 a 0) | .wnext d => some (.s3 0x51#7 (sel10 1#5) 0 0 d)
  | .wsplit d => some (.s3 0x51#7 (sel10 2#5) 0 0 d) | .wdone => some (.s3 0x51#7 (sel10 3#5) 0 0 0)
  | .ctwait d a b => some (.s3 0x51#7 (sel10 4#5) b a d) | .ctinc d a b => some (.s3 0x51#7 (sel10 5#5) b a d)
  | .npbegin => some (.s3 0x51#7 (sel10 6#5) 0 0 0) | .npend => some (.s3 0x51#7 (sel10 7#5) 0 0 0)
  | .yield => some (.s3 0x51#7 (sel10 8#5) 0 0 0) | .exit => some (.s3 0x51#7 (sel10 9#5) 0 0 0)
  | .csrr d c => some (.si 0x52#7 c 0 d) | .csrw d c a => some (.si 0x53#7 c a d)
  | .csrs d c a => some (.si 0x54#7 c a d) | .csrc d c a => some (.si 0x55#7 c a d)
  | .tret => some (.s3 0x56#7 (sel10 0#5) 0 0 0) | .evwait d a => some (.s3 0x56#7 (sel10 1#5) 0 a d)
  | .halt => some (.s3 0x56#7 (sel10 2#5) 0 0 0) | .ptinv a => some (.s3 0x56#7 (sel10 3#5) 0 a 0)
  | .capfence d a => some (.s3 0x56#7 (sel10 4#5) 0 a d) | .captest d a => some (.s3 0x56#7 (sel10 5#5) 0 a d)
  | .bbox a b => some (.s3 0x56#7 (sel10 6#5) b a 0) | .tstamp d => some (.s3 0x56#7 (sel10 7#5) 0 0 d)
  | .trap m => some (.si 0x57#7 (0#7 ++ m) 0 0)
  | .vsetl d a t c => some (.si 0x58#7 (0#1 ++ c.code ++ t.code ++ 0#6) a d)
  | .vsetlG d a t c => some (.si 0x58#7 (1#1 ++ c.code ++ t.code ++ 0#6) a d)
  | .mxon => some (.s3 0x59#7 (sel10 0#5) 0 0 0) | .mxoff => some (.s3 0x59#7 (sel10 1#5) 0 0 0)
  | _ => none

/-- A governed member's fields. -/
def mk64 (unit : BitVec 3) (op : BitVec 8) (cls : BitVec 18) (qual : BitVec 4) (g : Gov) (vc vb va vd : BitVec 6) : F64 :=
  ⟨cls, qual, g.z, g.sense, g.pred, vc, vb, va, vd, op, unit⟩

/-- The governing fields of an ungoverned member. -/
def Gov.none : Gov := ⟨0, false, false⟩

/-- qual of a rounding code. -/
def Rnd.qual (r : Rnd) : BitVec 4 := 0#1 ++ r.code

/-- vb of operand b. -/
def VB.vb : VB → BitVec 6 | .v r => r | .s _ => 0
/-- ss of operand b. -/
def VB.ss : VB → BitVec 5 | .v _ => 0 | .s r => r
/-- fn7[6] of operand b. -/
def VB.vs : VB → Bool | .v _ => false | .s _ => true

/-- [63:46] of a VA member. -/
def clsVA (tag : BitVec 5) (sat : Bool) (ss : BitVec 5) (fn : BitVec 7) : BitVec 18 := ClsVA.join ⟨tag, sat, ss, fn⟩

/-- A VA member with operand b and a sub-function. -/
def vaB (op : BitVec 8) (g : Gov) (d a : BitVec 6) (b : VB) (sat : Bool) (r : Rnd) (fn : BitVec 6) : F64 :=
  mk64 0 op (clsVA 0 sat b.ss (bit b.vs 1 ++ fn)) r.qual g 0 b.vb a d

/-- A VA member with up to three vector sources and no vs form. -/
def vaV (op : BitVec 8) (g : Gov) (d a b c : BitVec 6) (sat : Bool) (r : Rnd) (tag : BitVec 5) : F64 :=
  mk64 0 op (clsVA tag sat 0 0) r.qual g c b a d

/-- A VA member whose operands are given field by field. -/
def vaS (op : BitVec 8) (g : Gov) (d a b : BitVec 6) (sat : Bool) (tag ss : BitVec 5) (fn : BitVec 7) : F64 :=
  mk64 0 op (clsVA tag sat ss fn) 0 g 0 b a d

/-- An XL member. -/
def xl (op : BitVec 8) (g : Gov) (d a b : BitVec 6) (ss px : BitVec 5) (keep : Bool) (fn : BitVec 3) : F64 :=
  mk64 1 op (ClsXL.join ⟨ss, px, 0, false, keep, fn⟩) 0 g 0 b a d

/-- A VM member. -/
def vm (op : BitVec 8) (g : Gov) (d a b : BitVec 6) (off : BitVec 8) (sb st : BitVec 5) (q : BitVec 2) : F64 :=
  mk64 2 op (ClsVM.join ⟨sb, st, off⟩) (q ++ 0#2) g 0 b a d

/-- An MX member. -/
def mx (op : BitVec 8) (g : Gov) (d a b c : BitVec 6) (acc : BitVec 2) (tag ss : BitVec 5) (fn : BitVec 6) (q : BitVec 4) : F64 :=
  mk64 3 op (ClsMX.join ⟨acc, tag, ss, fn⟩) q g c b a d

/-- A BK member. -/
def bk (op : BitVec 8) (d a b c : BitVec 6) (ss : BitVec 5) (sgn sat : Bool) (imm : BitVec 11) : F64 :=
  mk64 4 op (ClsBK.join ⟨ss, sgn, sat, imm⟩) 0 Gov.none c b a d

/-- A CP member. -/
def cp (op : BitVec 8) (d a b c : BitVec 6) (dst src len : BitVec 5) (ch : BitVec 3) : F64 :=
  mk64 5 op (ClsCP.join ⟨dst, src, len, ch⟩) 0 Gov.none c b a d

/-- The fields of a member, none for an instruction that has no 64-bit encoding (R92). -/
def encodeF64 (i : Instr) : Option F64 :=
  match i with
  | .vadd g d a b s r => some (vaB 0x01#8 g d a b s r 0) | .vsub g d a b s r => some (vaB 0x02#8 g d a b s r 0)
  | .vmul g d a b s r => some (vaB 0x03#8 g d a b s r 0) | .vmulh g d a b => some (vaB 0x04#8 g d a b false .dyn 0)
  | .vfma g d a b c s r => some (vaV 0x05#8 g d a b c s r 0) | .vfms g d a b c s r => some (vaV 0x06#8 g d a b c s r 0)
  | .vnfma g d a b c s r => some (vaV 0x07#8 g d a b c s r 0) | .vdiv g d a b s r => some (vaB 0x08#8 g d a b s r 0)
  | .vsqrt g d a r => some (vaV 0x09#8 g d a 0 0 false r 0) | .vrcp g d a r => some (vaV 0x0A#8 g d a 0 0 false r 0)
  | .vrsq g d a r => some (vaV 0x0B#8 g d a 0 0 false r 0) | .vexp2 g d a r => some (vaV 0x0C#8 g d a 0 0 false r 0)
  | .vlog2 g d a r => some (vaV 0x0D#8 g d a 0 0 false r 0) | .vtanh g d a r => some (vaV 0x0E#8 g d a 0 0 false r 0)
  | .vmin g d a b => some (vaB 0x0F#8 g d a b false .dyn 0) | .vmax g d a b => some (vaB 0x10#8 g d a b false .dyn 0)
  | .vabs g d a s => some (vaV 0x11#8 g d a 0 0 s .dyn 0) | .vneg g d a s => some (vaV 0x12#8 g d a 0 0 s .dyn 0)
  | .vand g d a b => some (vaB 0x13#8 g d a b false .dyn 0) | .vor g d a b => some (vaB 0x14#8 g d a b false .dyn 0)
  | .vxor g d a b => some (vaB 0x15#8 g d a b false .dyn 0) | .vnot g d a => some (vaV 0x16#8 g d a 0 0 false .dyn 0)
  | .vshl g d a b s => some (vaB 0x17#8 g d a b s .dyn 0) | .vshr g d a b => some (vaB 0x18#8 g d a b false .dyn 0)
  | .vrot g d a b rt => some (vaB 0x19#8 g d a b false .dyn (bit rt 6))
  | .vclz g d a => some (vaV 0x1A#8 g d a 0 0 false .dyn 0) | .vpopc g d a => some (vaV 0x1B#8 g d a 0 0 false .dyn 0)
  | .vclmul g d a b h => some (vaB 0x1C#8 g d a b false .dyn (bit h 6))
  | .vcmp g d a b c => some (vaB 0x1D#8 g (wide d) a b false .dyn (0#3 ++ c.code))
  | .vsel g d a b p => some (vaV 0x1E#8 g d a b (wide p) false .dyn 0)
  | .vcvt g d a t s r => some (vaV 0x1F#8 g d a 0 0 s r t.code)
  | .vscale g d a b r => some (vaB 0x20#8 g d a b false r 0)
  | .vqnt g d a t r => some (vaV 0x21#8 g d a 0 0 false r t.code)
  | .vmov g d a => some (vaV 0x22#8 g d a 0 0 false .dyn 0)
  | .vsplat g d ss t => some (vaS 0x23#8 g d 0 0 false t.code ss 0)
  | .viota g d ss t s => some (vaS 0x24#8 g d 0 0 s t.code ss 0)
  | .vtag d t => some (vaS 0x25#8 Gov.none d 0 0 false t.code 0 0)
  | .vtagq sd a => some (vaS 0x26#8 Gov.none 0 a 0 false 0 sd 0)
  | .psetc g p ss => some (vaS 0x27#8 g (wide p) 0 0 false 0 ss 0)
  | .pand g d a b => some (vaS 0x28#8 g (wide d) (wide a) (wide b) false 0 0 0)
  | .por g d a b => some (vaS 0x29#8 g (wide d) (wide a) (wide b) false 0 0 0)
  | .pxor g d a b => some (vaS 0x2A#8 g (wide d) (wide a) (wide b) false 0 0 0)
  | .pnot g d a => some (vaS 0x2B#8 g (wide d) (wide a) 0 false 0 0 0)
  | .pandn g d a b => some (vaS 0x2C#8 g (wide d) (wide a) (wide b) false 0 0 0)
  | .ppack d a h => some (vaS 0x2D#8 Gov.none d (wide (a ++ 0#3)) 0 false 0x09#5 0 (bit h 7))
  | .punpack d a h => some (vaS 0x2E#8 Gov.none (wide (d ++ 0#3)) a 0 false 0 0 (bit h 7))
  | .pmovs sd a k => some (vaS 0x2F#8 Gov.none 0 (wide a) (wide k) false 0 sd 0)
  | .vperm g d a b k => some (xl 0x01#8 g d a b 0 0 k 0) | .vput g d a b px => some (xl 0x02#8 g d a b 0 px false 0)
  | .vslu g d a s k => some (xl 0x03#8 g d a 0 s 0 k 0) | .vsld g d a s k => some (xl 0x04#8 g d a 0 s 0 k 0)
  | .vcomp g d a s => some (xl 0x05#8 g d a 0 s 0 false 0) | .vexpd g d a => some (xl 0x06#8 g d a 0 0 0 false 0)
  | .vred g op o s r d a b sd =>
    some (mk64 1 0x07#8 (ClsXL.join ⟨sd, 0, op.code, o, false, bit s 3⟩) r.qual g 0 b a d)
  | .vscan g op ex s r d a =>
    some (mk64 1 0x08#8 (ClsXL.join ⟨0, 0, op.code, false, false, 0#1 ++ bit ex 1 ++ bit s 1⟩) r.qual g 0 0 a d)
  | .vconf g p a s => some (xl 0x09#8 g (wide p) a 0 s 0 false 0)
  | .vzip g d a b h k => some (xl 0x0A#8 g d a b 0 0 k (bit h 3)) | .vunzip g d a b o k => some (xl 0x0B#8 g d a b 0 0 k (bit o 3))
  | .vbcast g d a s k => some (xl 0x0C#8 g d a 0 s 0 k 0)
  | .vexts g sd a sk k => some (xl 0x0D#8 g 0 a (wide sk) sd 0 k 0)
  | .vinss g d ss sk => some (xl 0x0E#8 g d 0 (wide sk) ss 0 false 0)
  | .plead g sd p => some (xl 0x0F#8 g 0 (wide p) 0 sd 0 false 0) | .pnum g sd p => some (xl 0x10#8 g 0 (wide p) 0 sd 0 false 0)
  | .vld g d off sb st f k => some (vm 0x01#8 g d 0 0 off sb st (bit f 1 ++ bit k 1))
  | .vlds g d off sb st f k => some (vm 0x02#8 g d 0 0 off sb st (bit f 1 ++ bit k 1))
  | .vldx g d off sb vi f k => some (vm 0x03#8 g d 0 vi off sb 0 (bit f 1 ++ bit k 1))
  | .vst g a off sb st => some (vm 0x04#8 g 0 a 0 off sb st 0) | .vsts g a off sb st => some (vm 0x05#8 g 0 a 0 off sb st 0)
  | .vstx g a off sb vi => some (vm 0x06#8 g 0 a vi off sb 0 0) | .vlsx g d off sb vi => some (vm 0x07#8 g d 0 vi off sb 0 0)
  | .vssx g a off sb vi => some (vm 0x08#8 g 0 a vi off sb 0 0)
  | .vldh g d off sb vi q => some (vm 0x09#8 g d 0 vi off sb (0#4 ++ bit q 1) 0)
  | .vpf off sb sn => some (vm 0x0A#8 Gov.none 0 0 0 off sb sn 0)
  | .vamo g op o a off sb vi => some (vm 0x0B#8 g 0 a vi off sb (op.code ++ o.code) 0)
  | .tshape sd m n k t => some (mx 0x01#8 Gov.none 0 (wide m) (wide n) (wide k) 0 t.code sd 0 0)
  | .mma g acc a b => some (mx 0x02#8 g 0 a b 0 acc 0 0 0 0) | .mmas g acc a b => some (mx 0x03#8 g 0 a b 0 acc 0 0 0 0)
  | .mxzero acc => some (mx 0x04#8 Gov.none 0 0 0 0 acc 0 0 0 0)
  | .mxext g d acc sr t i s r => some (mx 0x05#8 g d 0 0 0 acc t.code sr (0#4 ++ bit s 1 ++ bit i 1) r.qual)
  | .mxins g acc a sr => some (mx 0x06#8 g 0 a 0 0 acc 0 sr 0 0) | .mxpert sa => some (mx 0x07#8 Gov.none 0 0 0 0 0 0 sa 0 0)
  | .bsetl sd a => some (bk 0x01#8 0 (wide a) 0 0 sd false false 0) | .balloc a b => some (bk 0x02#8 0 (wide a) (wide b) 0 0 false false 0)
  | .bplane d a => some (bk 0x03#8 (wide d) (wide a) 0 0 0 false false 0)
  | .brlk a b c => some (bk 0x04#8 0 (wide a) (wide b) (wide c) 0 false false 0)
  | .brul a b => some (bk 0x05#8 0 (wide a) (wide b) 0 0 false false 0)
  | .bldp d a b s t => some (bk 0x06#8 (wide d) (wide a) (wide b) 0 0 s t 0)
  | .bstp p a b s => some (bk 0x07#8 0 (wide p) (wide a) (wide b) 0 s false 0)
  | .btov d p k s => some (bk 0x08#8 (wide d) (wide p) (wide k) 0 0 s false 0)
  | .vtob p a k s t => some (bk 0x09#8 (wide p) (wide a) (wide k) 0 0 s t 0)
  | .bnot d a => some (bk 0x0A#8 (wide d) (wide a) 0 0 0 false false 0)
  | .band d a b => some (bk 0x0B#8 (wide d) (wide a) (wide b) 0 0 false false 0)
  | .bor d a b => some (bk 0x0C#8 (wide d) (wide a) (wide b) 0 0 false false 0)
  | .bxor d a b => some (bk 0x0D#8 (wide d) (wide a) (wide b) 0 0 false false 0)
  | .bmaj d a b c => some (bk 0x0E#8 (wide d) (wide a) (wide b) (wide c) 0 false false 0)
  | .badd d a b s t => some (bk 0x0F#8 (wide d) (wide a) (wide b) 0 0 s t 0)
  | .bsub d a b s t => some (bk 0x10#8 (wide d) (wide a) (wide b) 0 0 s t 0)
  | .bmulc d a c s => some (bk 0x11#8 (wide d) (wide a) 0 0 c s false 0)
  | .bmac d a b s => some (bk 0x12#8 (wide d) (wide a) (wide b) 0 0 s false 0)
  | .bmact d a x s => some (bk 0x13#8 (wide d) (wide a) 0 0 x s false 0)
  | .bcmp d a b c s => some (bk 0x14#8 (wide d) (wide a) (wide b) 0 0 s false (0#9 ++ c.code))
  | .bsel d a b c => some (bk 0x15#8 (wide d) (wide a) (wide b) (wide c) 0 false false 0)
  | .bshl d a k c => some (bk 0x16#8 (wide d) (wide a) 0 0 0 false false (bit c 1 ++ 0#5 ++ k))
  | .bshr d a k c s => some (bk 0x17#8 (wide d) (wide a) 0 0 0 s false (bit c 1 ++ 0#5 ++ k))
  | .bred sd a => some (bk 0x18#8 0 (wide a) 0 0 sd false false 0) | .bseal a => some (bk 0x19#8 0 (wide a) 0 0 0 false false 0)
  | .bnext a => some (bk 0x1A#8 0 (wide a) 0 0 0 false false 0) | .bwait sd => some (bk 0x1B#8 0 0 0 0 sd false false 0)
  | .cpy k d s l c p => some (cp 0x01#8 (wide p) 0 0 (wide k) d s l c)
  | .cpy2d k d s l c r t p => some (cp 0x02#8 (wide p) (wide r) (wide t) (wide k) d s l c)
  | .cpyd k d s l n i p => some (cp 0x03#8 (wide p) (wide n) (wide i) (wide k) d s l 3)
  | .cpye k d s l c r p => some (cp 0x04#8 (wide p) (wide r) 0 (wide k) d s l c)
  | .ckey k s t => some (cp 0x05#8 0 (wide t) 0 (wide k) 0 s 0 0)
  | .cwait sd m => some (cp 0x06#8 0 (wide sd) (wide m) 0 0 0 0 0)
  | .cstat sd k w => some (cp 0x07#8 0 (wide sd) (0#4 ++ w) (wide k) 0 0 0 0)
  | _ => none

/-- The bits of an instruction, with their number: 32 for a scalar word, 64 for a member, none for the rest. -/
def encode (i : Instr) : Option (Nat × Nat) :=
  match encodeF32 i with
  | some x => some (32, x.join.toNat)
  | none => match encodeF64 i with
    | some x => some (64, x.join.toNat)
    | none => none

/-- The word of a scalar instruction, as TVAL holds it; 0 for what has no word. -/
def wordOf (i : Instr) : Word :=
  match encodeF32 i with
  | some x => x.join.setWidth 64
  | none => 0

/-- The instruction the decoder reads from the bits of a table row: a 32-bit word, or a 64-bit member. -/
def decodeTableWord (nbits w : Nat) : Option Instr :=
  if nbits ≤ 32 then (decodeWord (BitVec.ofNat 32 w)).toOption
  else (decodeMember (BitVec.ofNat 64 w)).toOption

end Sys2Proof
end

