-- ==== Sys2Proof/Config.lean ====
section
/-! DEFINITION. What the part fixes: sizes, identifiers and reset patterns. -/

namespace Sys2Proof.Config

/-- Stacks of the module, in a grid of four rows and six columns (R6). -/
def stackCount : Nat := 24
/-- Compute cores of a stack (R7). -/
def coresPerStack : Nat := 48
/-- Hart slots of a core (R9). -/
def slotsPerCore : Nat := 4
/-- Bytes of a stack slot of the physical map (R229). -/
def stackSlot : Nat := 0x4000000000
/-- Bytes of home memory of a stack, 186 GiB (R230). -/
def homeBytes : Nat := 0x2E80000000
/-- Slot offset of the frame owner table (R230). -/
def ownerTableOff : Nat := 0x2E73D00000
/-- Slot offset of the save area (R230). -/
def saveAreaOff : Nat := 0x2E74000000
/-- First virtual address of the private window (R228). -/
def window : Nat := 0x3FFFFFFF000000
/-- First address past the virtual space (R227). -/
def vaTop : Nat := 0x40000000000000
/-- First address of the spread alias (R229). -/
def spread : Nat := 0x100000000000
/-- First address past the spread alias (R229). -/
def spreadTop : Nat := 0x160000000000
/-- The placement and replacement seed of RNGS (R54). -/
def rngSeed : Word := 0x9E3779B97F4A7C15#64
/-- Every class and format bit of R95. -/
def allCaps : Word := 0x01FFFFFF003FFFFF#64
/-- Ticks of the non-preemptible bound (R39). -/
def npBound : Nat := 24000
/-- The longest lease of a row lock (R323). -/
def maxLease : Nat := 1200000
/-- Ticks of an in-field test (R370, R221). -/
def testTicks : Nat := 120000

/-- A value the manual does not state, the `n`-th one a run meets: nothing can be proved of it. -/
opaque freeWord : Nat → BitVec 64

/-- The physical address of a core's run history, which the manual does not state (R371, R373). -/
opaque historyBase : Nat → BitVec 64

/-- The Ethernet port, modulo 12, of the link to a far module; the manual gives no routing (R16, R411). -/
opaque etherPort : Nat → Nat

/-- The host port, modulo 2, that carries the notification of an up message to an address; the manual gives no routing (R16, R408;
notes/assumptions/127.md). -/
opaque notifyPort : BitVec 64 → Nat

/-- The report channel that the service core of a stack names, if any; the manual gives no register for it (R408). -/
opaque reportChannel : Nat → Option Nat

/-- The handler base that firmware gives a stack's service core at bring-up; the manual gives no value (R203, R454). -/
opaque serviceTvec : Nat → BitVec 64

/-- The domain that the service core sets for a peer port; the manual gives no register for it (R404). -/
opaque peerDomain : Nat → BitVec 6

end Sys2Proof.Config
end

