-- ==== Sys2Proof/Machine/State.lean ====
section
/-! DEFINITION. The state of the module as plain data: home memory, contexts, cores, gangs, logs, stacks and the module
itself. Tables list only what has been written; what is not listed has the default of its structure, which is its
value at reset or at placement. -/

namespace Sys2Proof.Machine

/-- A 78-bit key: TIME in [77:14], the source in [13:0] (R254). -/
abbrev Key := BitVec 78

/-- Home memory: (canonical physical address, byte) pairs, addresses strictly rising, no entry equal to what an
unlisted address reads as. -/
abbrev Memory := List Host.Cell

/-! ## Registers of a context -/

/-- One vector register (R120): bits of lane l at 1,024 l, scale bytes of lane l at 64 l. -/
structure VRegS where
  bits : BitVec 65536 := 0
  tag : Tag := .fp32
  segs : Nat := 0                -- the valid-length tag
  dirty : Bool := false
  scale : BitVec 4096 := BitVec.ofNat 4096 ((2 ^ 4096 - 1) / 255 * 127)
  deriving DecidableEq, Repr

/-- The binding of a predicate to the chunks of a copy (R126): `copy` numbers the copy, `keys` holds the key of each
chunk whose bit is set. -/
structure Binding where
  base : Word
  code : BitVec 3
  copy : Nat
  keys : Tbl Key := []
  deriving DecidableEq, Repr

/-- One predicate register (R125): bit e is the bit of element position e. -/
structure PRegS where
  bits : BitVec 16384 := 0
  dirty : Bool := false
  bind : Option Binding := none
  deriving DecidableEq, Repr

/-- A parked fragment (R33). -/
structure Fragment where
  resume : Word
  pred : PReg
  mask : BitVec 16384
  deriving DecidableEq, Repr

/-- The registers that a trapping convoy puts back (R30). A service core, to which R211 gives no FPCTL, FPSTAT and RNGS, has
them as they are at reset, and its scalar floats use them (R57, R91; notes/assumptions/126.md). -/
structure Regs where
  s : Tbl Word := []
  v : Tbl VRegS := []
  p : Tbl PRegS := []
  acc : Tbl (BitVec 1048576) := []     -- element (i, j) of a tile at 32 (1,024 i + j)
  bp : Tbl (BitVec 128) := []
  mode : Bool := false                 -- true in matrix mode (R32)
  vlen : Nat := 0
  savedVlen : Nat := 0                 -- VLEN saved by MXON (R183)
  ftrim : BitVec 16 := 0xFFFF
  grant : BitVec 16 := 0               -- LGRANT's cluster map (R127)
  fpctl : BitVec 5 := 0
  fpstat : BitVec 6 := 0
  rngs : Word := Config.rngSeed
  splim : BitVec 17 := 0
  sdmDirty : BitVec 32 := 0
  tshm : Nat := 0
  tshn : Nat := 0
  tshk : Nat := 0
  mxpcmd : Word := 0
  bstride : BitVec 8 := 1
  sdm : Memory := []                   -- scalar data memory, by offset (R113)
  bad : List VReg := []                -- registers that two lanes of a cluster lost: an input (R123)
  badAcc : List (BitVec 2 × Nat × Nat) := [] -- uncorrectable row slices, by tile, row and lane of the grant: an input (R185)
  scratch : Memory := []               -- scratchpad slices: at 16,384 (4 c + i) for lane i of physical cluster c (R288)
  deriving DecidableEq, Repr

/-- A bank of trap registers (R203). -/
structure TrapBank where
  epc : Word := 0
  cause : BitVec 7 := 0
  val : Word := 0
  stat : BitVec 5 := 0
  scr : Word := 0
  deriving DecidableEq, Repr

/-- A bank instruction as the BCP queue holds it (R350): the member, its s-register values and its plane descriptors
as they stood at the commit point, and the data that travel with it. -/
structure BankCmd where
  instr : Instr
  stk : Nat
  gang : Nat
  log : Nat
  sprint : Bool := false
  domain : Nat := 0
  seq : Nat := 0
  x : Word := 0
  y : Word := 0
  z : Word := 0
  d : BitVec 128 := 0
  a : BitVec 128 := 0
  b : BitVec 128 := 0
  c : BitVec 128 := 0
  elems : List Word := []              -- VTOB: the elements; BLDP, BSTP: the canonical address of each page
  vlen : Nat := 0                      -- BTOV: VLEN
  sat : Bool := false                  -- VTOB: an element was clamped
  a0 : Nat := 0                        -- A0 and the grant at the commit point
  grant : Nat := 0
  kept : Bool := false                 -- it takes one of the entries kept for sprint gangs
  key : Key := 0                       -- BRUL: Ku
  lock : Nat := 0                      -- BRLK, BRUL: the entry of the row-lock table
  deriving DecidableEq, Repr

/-- The operations of a home operation (R289 to R293). -/
inductive HomeFn where
  | read | add | and | or | xor | min | max | minu | maxu | swap | cas | fadd | fmin | fmax
  deriving DecidableEq, Repr

/-- One location of a home operation: its number in the instruction, address, size in bytes, operands, and the id of the hart that
issued it. -/
structure HomeEl where
  idx : Nat
  addr : Nat
  size : Nat
  fn : HomeFn
  y : Word := 0
  z : Word := 0
  hart : Nat := 0
  deriving DecidableEq, Repr

/-- A chunk of a copy in flight (R338): its key once all of its records are delivered, the sectors that it writes, and
whether the far module has still to answer (R341). -/
structure Flight where
  chunk : Nat
  key : Option Key := none
  sectors : List Nat := []
  remote : Bool := false
  data : List Byte := []               -- bytes of a get received so far
  deriving DecidableEq, Repr

/-- An entry of a core copy queue (R334). -/
structure CopyCmd where
  instr : Instr
  serial : Nat                         -- numbers the copy
  log : Nat
  slot : Nat
  domain : Nat
  sprint : Bool := false
  stk : Nat
  dst : Word := 0
  src : Word := 0
  len : Word := 0
  x : Word := 0                        -- rows, nonce base, remote descriptor, or slot and domain
  y : Word := 0                        -- strides, or index and key slot
  entry : List Word := []              -- of CPYE: the remote table entry as the copy found it (R214)
  gen : BitVec 16 := 0
  order : Nat := 0                     -- its place in the order of commit
  started : Bool := false
  next : Nat := 0                      -- the chunk started next
  got : Tbl (BitVec 512) := []         -- sectors of it that were held at locked rows, as their homes answered (R353)
  resolved : Nat := 0                  -- chunks completed or failed
  fly : List Flight := []
  ended : Bool := false                -- an error stopped the copy; chunks in flight end
  deriving DecidableEq, Repr

/-- A sector that VPF fetches (R287): the slot, gang and domain that it is fetched for, its TLB bank and its address. -/
structure Ahead where
  slot : Nat
  gang : Nat
  dom : Nat
  bank : Nat
  va : Word
  deriving DecidableEq, Repr

/-- What a member does outside its registers, held until its convoy retires (R208). -/
inductive Effect where
  | scalar (sd : SReg) (x : Word) (late : Bool)      -- a scalar result (R102); late: the late check of R104
  | store (addr : Nat) (b : Byte)                    -- a byte of a store, by canonical address (R286)
  | touch (clusters : BitVec 16)                     -- clusters whose slices VSSX wrote (R41)
  | raise (k : Key)                                  -- a floor raised (R273)
  | acquire (k : Key)                                -- the end of .acq: S reaches k, refresh, floor (R272)
  | fetch (sectors : List Ahead)                     -- VPF
  | home (els : List HomeEl) (acq rel : Bool) (wait : Bool)
  | bank (c : BankCmd) (wait : Bool)
  | copy (c : CopyCmd)
  deriving DecidableEq, Repr

/-- The convoy a hart is executing (R26 to R30). -/
structure Convoy where
  active : Bool := false
  idx : Nat := 0                       -- the member executed next
  count : Nat := 0
  chain : BitVec 3 := 0
  flags : BitVec 6 := 0                -- pending flags (R58)
  effects : List Effect := []          -- latest first
  sent : Bool := false                 -- the commit point is passed: an effect has left the hart (R208)
  deriving DecidableEq, Repr

/-- What a member of a convoy did before the convoy's requests left: its place, the registers and FTRIM that it wrote and its
effects, latest first. -/
structure Ran where
  idx : Nat
  v : Tbl VRegS
  p : Tbl PRegS
  bp : Tbl (BitVec 128)
  ftrim : BitVec 16
  effects : List Effect
  deriving DecidableEq, Repr

/-- A fault of the datapath of a working lane, an input to the checking lane (R165, R166): members of the class computed in
the lane give results with these bits turned over and raise these flags besides, on the first computation, and on
re-execution too when it stays. `reported`: the datapath itself reports an uncorrectable error. A lane from 64 on is the
checking lane of a cluster. -/
structure Defect where
  cls : Nat
  lane : Nat
  flip : BitVec 64
  stays : Bool
  flags : BitVec 6 := 0
  reported : Bool := false
  deriving DecidableEq, Repr

/-- What the instruction under way has done that it does not do again when it is entered again (R100, R208): whether it has
issued, the members that ran before its requests left, the addresses that it translated, the place of a home operation whose
publication has left (R294), the members whose perturbation a check took back (R198), the faults of lanes that met a member
and stand (R167), and the sectors whose hits and misses are counted, those of fetches with 1 added (R393). -/
structure Attempt where
  issued : Bool := false
  ran : List Ran := []
  walked : List (Word × Nat × Bool) := []
  place : Option Nat := none
  perturbed : List Nat := []
  stood : List (Nat × Defect) := []
  counted : List Nat := []
  deriving DecidableEq, Repr

/-- What the instruction at the program counter is waiting for; entered again, it goes on from here (R20). -/
inductive Phase where
  | run
  | retry                              -- room in its log (R271); or it is tried again now
  | ordering                           -- steps 1 to 3 of its publication, its key (R257, R301), or room in a queue or a table
  | published (k : Key)                -- the publication of key k is published (R257 step 5)
  | acquiring                          -- the publication or the rendezvous is over; the acquire remains
  | arrived (grant : Bool)             -- in the rendezvous of BAR, or of VSETL.G
  | released (n : Nat)                 -- the rendezvous completed; n clusters for VSETL.G
  | requested (k : Key)                -- an operation with key k left the hart
  | returned (k : Key) (xs : List Word)
  | event (deadline : Option Nat)      -- EVWAIT
  | counter                            -- CTWAIT
  | bankWait | copyWait
  | testing (until_ : Nat) (bits : Word) -- CAPTEST of these bits
  | testWait                           -- CAPTEST behind a test that runs
  | halted
  | deferredRead (sector : Nat)        -- a read of a locked row (R311)
  | readError (sector : Nat)           -- that read was answered with an error (R314)
  | branch (at_ : Nat) (pc : Word)     -- a branch on a predicate that resolves at a TIME (R34)
  deriving DecidableEq, Repr

/-- Where a context is between placement and EXIT (R20); `saved` is a context that no slot holds, `ended`
one that has exited or is lost. -/
inductive SlotState where
  | ready | waiting | sleeping | draining | saving | saved | ended
  deriving DecidableEq, Repr

/-- A context: the state of R19 with its place. A service core is a context too (R8). -/
structure Hart where
  key : Nat := 0                       -- the log id, which names the context
  service : Bool := false
  loc : Nat := 0                       -- hart id of the slot that holds it (R9)
  slot : SlotState := .ready
  pc : Word := 0
  regs : Regs := {}
  saved : Regs := {}                   -- the registers before the convoy in progress
  cv : Convoy := {}
  phase : Phase := .run
  inst : List Word := []               -- the word that it executes, or the header and members, as they were fetched
  tried : Bool := false                -- a waiting context that was entered again on this tick
  frags : List Fragment := []          -- newest first
  tlevel : Nat := 0
  trap1 : TrapBank := {}
  trap2 : TrapBank := {}
  cseq : BitVec 32 := 0
  event : Bool := false
  async30 : Option Word := none        -- pending overrun with its TVAL
  async31 : Option Word := none        -- pending deferred memory error with its TVAL
  npSince : Option Nat := none         -- TIME at NPBEGIN
  rendezvous : Bool := false
  passed : Option Nat := none          -- the rendezvous ended while a handler ran: the clusters of VSETL.G, 0 for BAR
  usemask : Word := 0
  domain : BitVec 6 := 0
  cap : Nat := 64                      -- register cap
  gangRank : BitVec 6 := 0
  gangSize : BitVec 7 := 1
  gangIdx : BitVec 10 := 0
  logsz : BitVec 5 := 20
  staging : List (Nat × BitVec 64 × BitVec 512) := []  -- open records, oldest first: sector, mask, data (R252)
  sprint : Bool := false
  prio : Nat := 0                      -- launch priority
  readyTicks : Nat := 0                -- ticks Ready since it last issued
  skip : Bool := false                 -- YIELD keeps it from the next tick
  home : Nat := 0                      -- home stack of its launch
  launch : Nat := 0                    -- index in the home launch table
  launchId : BitVec 16 := 0
  instStack : Nat := 0
  serial : BitVec 16 := 0
  tile : Option Nat := none
  held : BitVec 16 := 0                -- clusters held for a saved context
  heldCore : Nat := 0                  -- the core that holds them
  preempt : Bool := false
  replace : Bool := false
  migrate : Option Nat := none         -- the core a thermal migration moves it to
  att : Attempt := {}
  results : Tbl Word := []             -- results of the operation that left the hart
  awaiting : Nat := 0                  -- parts of it that have not returned
  chunks : List (Nat × Nat × Key) := [] -- completed chunks not yet set in predicates: copy, chunk, key
  deriving DecidableEq, Repr

/-! ## Cores -/

/-- An entry of the lane allocation table (R368). -/
structure Lat where
  owner : Nat := 0
  assigned : Bool := false
  held : Bool := false
  tiles : Bool := false
  written : Bool := false
  slot : Nat := 0
  deriving DecidableEq, Repr

/-- A TLB entry (R235, R237): bank 0 fetch, 1 scalar, 2 + l lane l. -/
structure TlbEntry where
  bank : Nat
  dom : Nat
  page : Nat                           -- first virtual address of the page
  level : Nat
  entry : Word
  deriving DecidableEq, Repr

/-- What translations do to a core's TLB and to the stack caches: the TLB after them, and the sectors that walks read (R235,
R241). -/
structure Walks where
  tlb : List TlbEntry
  reads : List Nat := []
  deriving DecidableEq, Repr

/-- A valid sector of a view cache (R239, R264, R266). -/
structure Sector where
  addr : Nat
  pin : Option Nat := none             -- the slot it is pinned to
  key : Key := 0                       -- its fill point, or its pin key
  data : BitVec 512
  deriving DecidableEq, Repr

/-- A line of a stack cache (R241): its number, and the valid and dirty bits of its sectors. The data are home memory's. -/
structure CLine where
  line : Nat
  valid : BitVec 8
  dirty : BitVec 8 := 0
  deriving DecidableEq, Repr

/-- A core. -/
structure CoreS where
  capmask : Word := 0
  fwCapmask : Word := 0
  chkmisc : BitVec 32 := 0
  tvec : Word := 0
  lat : Tbl Lat := []
  tlb : List TlbEntry := []            -- oldest first
  view : List Sector := []             -- oldest first
  copies : List CopyCmd := []          -- the core copy queue, and behind ended copies their chunks still in flight
  ahead : List Ahead := []             -- sectors of VPF whose walk or whose home has to be waited for (R287, R402)
  copyRr : Nat := 0                    -- the distance copy that the engine served last
  copyRrSprint : Nat := 0              -- the sprint copy that it served last
  srcKeys : Tbl Key := []              -- the last keys of its sources, by sub (R254)
  rr : Nat := 3                        -- the slot that issued last
  issued : Bool := false               -- whether a hart of it issued on this tick
  resetEnd : Option Nat := none
  resetWait : Option Nat := none       -- until when the other contexts may be saved (R209)
  resetCause : Nat := 0                -- cause and address of the trap that resets the core
  resetEpc : Word := 0
  stretch : Nat := 0                   -- eighths of the clock taken away
  testDue : Nat := 6000000000
  testRun : Option (Nat × Word) := none -- idle ticks still needed, bits
  testBlock : Bool := false
  lastPass : Tbl Word := []
  histBase : Option Word := none       -- where its run history stands in home memory (R371)
  histIdx : Nat := 0                   -- entries written so far
  images : Tbl Nat := []               -- by slot: the context last saved there
  defects : List Defect := []
  splitting : Bool := false
  deriving DecidableEq, Repr

/-! ## Gangs and logs -/

/-- A gang, or the one hart of no gang, as far as the bank rules treat it as a gang (R24, R305, R306, R391). -/
structure Gang where
  stk : Nat := 0
  size : Nat := 1
  members : List Nat := []             -- contexts by rank
  gone : Nat := 0                      -- harts exited or lost
  epoch : BitVec 32 := 0
  arrivals : Nat := 0
  wants : Tbl Nat := []                -- VSETL.G: cluster counts asked, by context
  a0 : Nat := 0
  an : Nat := 0
  grant : Nat := 0
  torn : Bool := false
  sprint : Bool := false
  deriving DecidableEq, Repr

/-- A record of a relay log (R251). -/
inductive RecBody where
  | store (sector : Nat) (mask : BitVec 64) (data : BitVec 512)
  | publish (scope : Nat) (floor : Key) (pairs : List (Nat × Nat))
  deriving DecidableEq, Repr

/-- A record with its sequence number; `key` once it is published, `applied` once it is applied at home. -/
structure Rec where
  seq : Nat
  key : Option Key := none
  applied : Bool := false
  body : RecBody
  deriving DecidableEq, Repr

/-- A copy slot's status block (R333). -/
structure CopyStatus where
  state : Nat := 0
  chunks : Nat := 0
  flags : BitVec 6 := 0                -- [5] REMOTE, KEYFAIL, DOMAINERR, MEMERR, FAULT, [0] TAGFAIL
  erraddr : Word := 0
  tagfails : Nat := 0
  firstFail : Nat := 0
  endTime : Word := 0
  keys : List Key := []                -- keys of the completed chunks (R347)
  owner : Nat := 0                     -- the number of the copy that the block reports
  deriving DecidableEq, Repr

/-- The rows that a BRUL released (R267): the sequence number and key of its publication, the stack, the groups and the rows. -/
structure Release where
  seq : Nat
  key : Key
  stk : Nat
  a0 : Nat
  an : Nat
  row : Nat
  rows : Nat
  deriving DecidableEq, Repr

/-- What acquires may still have to know of a log beyond its records: the store records that compaction has reclaimed
(sequence number, key, sector), the rows that its BRULs released, and the publications of a log that was freed. -/
structure Past where
  recs : List (Nat × Key × Nat) := []
  releases : List Release := []
  pubs : List (Nat × Key × Key × List (Nat × Nat)) := []
  deriving DecidableEq, Repr

/-- The directory entry of a log id with the log itself, its owner's coverage, and the items kept by log id: the bank
record and the copy status blocks (R249, R256, R259, R306, R333). -/
structure Log where
  stk : Nat := 0
  base : Nat := 0
  size : Nat := 0x100000
  recs : List Rec := []                -- not reclaimed, oldest first
  wt : Nat := 0
  pt : Nat := 0
  ptKey : Key := 0
  fpc : BitVec 32 := 0
  reclaim : Nat := 0
  acquired : Tbl Nat := []
  floor : Key := 0
  replayed : Key := 0
  owed : Tbl Key := []                 -- sectors whose replay its owner has put off, with the largest key to be applied (R266, R311)
  lastKey : Key := 0                   -- the last key its owner's source gave
  pubs : List (Nat × Key × Key × List (Nat × Nat)) := [] -- publications, latest first: tail, key, floor, pairs
  used : Bool := false                 -- the log id is in use
  alive : Bool := true                 -- its context is
  bankOut : Nat := 0
  status : BitVec 6 := 0
  copies : Tbl CopyStatus := []
  deriving DecidableEq, Repr

/-! ## Stacks -/

/-- Who reads home memory from outside: a host or peer port, or a far module for a chunk of a copy. -/
inductive Reader where
  | port (p : Nat)
  | far (path serial chunk : Nat)
  deriving DecidableEq, Repr

/-- A read from outside that is not complete: its bytes, and the sectors that have been read, with whether each gave no good datum. -/
structure Gather where
  reader : Reader
  pa : Nat
  n : Nat
  got : List (Nat × BitVec 512 × Bool) := []
  deriving DecidableEq, Repr

/-- What a merge queue entry carries (R351); `get` is a request on its way for a sector of a read from outside, which enters no
queue (R398). -/
inductive MBody where
  | record (sector : Nat) (mask : BitVec 64) (data : BitVec 512)
  | op (req : Nat) (els : List HomeEl)
  | release (lock : Nat)
  | get (id sector : Nat)
  deriving DecidableEq, Repr

/-- Origins of merge queue entries (R351). -/
inductive Origin where
  | publication (log seq : Nat)
  | homeOp (ctx : Nat)
  | chunk (serial j : Nat)
  | port (source : Nat)
  | release (log seq : Nat)
  deriving DecidableEq, Repr

/-- A merge queue entry (R351). -/
structure MEntry where
  key : Key
  sub : Nat := 0                       -- order within the item
  body : MBody
  origin : Origin
  deriving DecidableEq, Repr

/-- A deferred request (R353): a merge queue entry, or a read of a sector with its key: for a read from outside, by a hart, a
prefetch of VPF, or by a copy engine for a chunk of a copy. -/
inductive DEntry where
  | entry (e : MEntry)
  | read (id sector : Nat) (key : Key)
  | load (core ctx sector : Nat) (key : Key)
  | prefetch (core sector : Nat) (key : Key)
  | copyRead (core serial chunk sector : Nat) (key : Key)
  deriving DecidableEq, Repr

/-- Marks of a row (R306). -/
inductive RowMark where
  | whole | unsealed | torn
  deriving DecidableEq, Repr

/-- Marks of a subarray group (R306, R313). -/
structure GroupMark where
  mismatches : Nat := 0
  last : Nat := 0                      -- instruction count at the last mismatch
  count : Nat := 0
  retired : Bool := false
  deriving DecidableEq, Repr

/-- A row-lock entry (R374). -/
structure RowLock where
  effective : Bool := false
  gang : Nat
  log : Nat
  die : Nat
  a0 : Nat
  an : Nat
  row : Nat
  rows : Nat
  kl : Key
  lease : Nat                          -- length in ticks until the lock takes effect, then its end
  written : List Nat := []             -- frames that bank computation wrote during the lock
  releasing : Option Key := none       -- the key of a release that has started
  ending : Bool := false               -- the gang ended; the release waits for its bank instructions (R316)
  tear : Bool := false                 -- the release tears the rows
  expired : Bool := false              -- its lease is over and its rows are torn; the release waits for its key
  launchAt : Option (Nat × Nat) := none -- the launch whose completion waits for the release
  deriving DecidableEq, Repr

/-- A broadcast channel (R309, R310): the microprogram that it runs, the row operations left of it, the TIME at which the next one
begins, and the TIME since which a channel that hangs, which is an input, has made no progress. -/
structure Channel where
  run : Option BankCmd := none
  left : Nat := 0
  clock : Nat := 0
  hung : Option Nat := none
  deriving DecidableEq, Repr

/-- A key slot of the crypto channel (R343). -/
structure KeySlot where
  valid : Bool := false
  domain : Nat := 0
  gen : BitVec 16 := 0
  key : BitVec 256 := 0
  deriving DecidableEq, Repr

/-- States of a launch table entry (R359). -/
inductive LaunchState where
  | free | waiting | running | draining | done | failed | member
  deriving DecidableEq, Repr

/-- A launch table entry (R355, R359): the record as sixteen doublewords. -/
structure Launch where
  state : LaunchState := .free
  words : List Word := []
  arrival : Key := 0
  domain : BitVec 6 := 0
  home : Nat := 0
  homeIdx : Nat := 0                   -- of a member entry: the entry at its home
  live : Nat := 0
  ctxs : Nat := 0
  pubKey : Key := 0
  nextLog : Nat := 0
  nextSerial : Nat := 0
  holds : Nat := 0                     -- of a member entry: splits on their way that hold it (R367)
  pieces : List (Nat × Nat × Nat) := []  -- pieces of a cut that wait for entries: stack, first, end
  deriving DecidableEq, Repr

/-- States of a walker entry (R362). -/
inductive WalkState where
  | free | active | spent
  | held                               -- kept for a split on its way
  deriving DecidableEq, Repr

/-- A walker entry (R362). -/
structure Walker where
  state : WalkState := .free
  home : Nat := 0
  launch : Nat := 0
  launchId : BitVec 16 := 0
  serial : BitVec 16 := 0
  next : Nat := 0
  stop : Nat := 0
  out : Nat := 0
  bound : List Nat := []               -- contexts bound to it
  deriving DecidableEq, Repr

/-- A sprint reservation (R375). -/
structure Sprint where
  valid : Bool := false
  cores : BitVec 48 := 0
  slots : Nat := 0
  dies : BitVec 12 := 0
  deriving DecidableEq, Repr

/-- A completion counter (R389). -/
structure Counter where
  value : Word := 0
  key : Key := 0
  deriving DecidableEq, Repr

/-- The photo-finish buffer (R394): entry n is four doublewords. -/
structure Pfb where
  entries : Tbl (List Word) := []
  idx : BitVec 12 := 0
  seq : BitVec 32 := 0
  frozen : Bool := false
  freezeTime : Word := 0
  freezeCause : Nat := 0
  deriving DecidableEq, Repr

/-- A host channel binding with what its engine holds (R406 to R408). -/
structure Chan where
  binding : Word := 0
  doorbells : List (Nat × Key × Nat) := []  -- doorbells not yet used up, oldest first: value, key, port
  head : Option (List Byte) := none    -- a held 0x01 message
  up : List (List Byte) := []          -- up messages waiting, the one on its way first
  upKey : Option Key := none           -- the key of the up message on its way home
  consumed : Option Nat := none        -- down consumed and up produced as the engine has set them
  sent : Option Nat := none
  deriving DecidableEq, Repr

/-- A link module (R401 to R403). -/
structure Link where
  state : Nat := 1
  spares : Nat := 0
  threshold : Bool := false
  crc : BitVec 32 := 0
  retries : BitVec 32 := 0
  window : Nat := 0                    -- retries in the current window
  map : Word := 0
  target : Nat := 0
  current : Nat := 0
  pause : Bool := false
  retrain : Bool := false
  inject : Word := 0
  flits : Nat := 0                     -- flits counted by an armed injector
  done : Nat := 0                      -- TIME at which a retraining ends
  deriving DecidableEq, Repr

/-- What has arrived at a stack and waits: a write or a far module's put for a key of its source (R254), an answer of a far module
for a table entry in a locked row or a way (R402), a result of a home operation or a sector of a read from outside for a way to its
requester. -/
inductive Arrival where
  | write (port : Nat) (bytes : List (Nat × Byte))
  | put (path serial chunk : Nat) (add : Bool) (bytes : List (Nat × Byte))
  | answer (serial chunk : Nat) (flag : Option (BitVec 6)) (bytes : List Byte)  -- with the flag that it ends the copy with
  | reply (ctx idx : Nat) (x : Word)
  | sector (id sec : Nat) (data : BitVec 512) (bad : Bool)
  deriving DecidableEq, Repr

/-- A stack. -/
structure Stack where
  timeBeacon : Nat := 0                -- TIME of the last time beacon received
  timeLate : Bool := false
  adjust : Int := 0                    -- correction of TIME due on the next tick
  heldTick : Bool := false             -- its copy of TIME was held on this tick
  roots : Tbl Word := []               -- domain root table (R232)
  residency : Tbl Word := []
  resCmd : Option Word := none
  resFailed : Bool := false
  inbound : List MEntry := []          -- entries on their way to the merge queue
  mq : List MEntry := []               -- the merge queue, lowest key first
  refused : List (Nat × MEntry) := []  -- refused entries with the TIME of their resending
  beacons : Tbl (Key × Key) := []      -- f and a received from each stack
  beaconAt : Tbl Nat := []
  beaconLate : List Nat := []
  beaconSent : Option Nat := none
  timeSent : Option Nat := none
  deferred : List DEntry := []
  deferStall : Bool := false
  backlog : List DEntry := []          -- reads that back up behind a full deferred-request queue (R354)
  cache : List CLine := []             -- the stack cache, oldest line first
  arrivals : List Arrival := []        -- oldest first
  slots : Tbl Nat := []                -- compute slots: gang + 1 of the holder, 0 free
  rows : Tbl RowMark := []             -- by frame
  groups : Tbl GroupMark := []
  locks : Tbl RowLock := []
  released : List (Key × List Nat) := [] -- row releases that a record can still precede: key, frames that bank computation wrote
  bcpq : List BankCmd := []
  bankSeq : Nat := 0
  bankKey : Key := 0                   -- the last key of the bank command processor
  srcKeys : Tbl Key := []              -- the last keys of the ports and the network receiver, by agent and sub
  channels : Tbl Channel := []
  bcpReset : Option Nat := none
  refreshed : Tbl Nat := []            -- by die: TIME of the last refresh slot
  sensed : Option Nat := none
  hot : List Nat := []                 -- dies in doubled refresh
  temps : Tbl Nat := []                -- degrees: 0 base die, 1 SRAM die, 2 + d DRAM die d
  keySlots : Tbl KeySlot := []
  kwk : Option (BitVec 256) := none
  kwkParts : Tbl Word := []
  launches : Tbl Launch := []
  walkers : Tbl Walker := []
  frozen : Tbl Walker := []            -- the walker save area, by place
  sprints : Tbl Sprint := []
  halts : List Nat := []               -- hart ids that HALT has reported to the service core, oldest first (R218)
  saveBase : Option Word := none
  poolBase : Option Word := none
  poolSize : Option Word := none
  ccs : Tbl Counter := []
  block : Tbl Word := []               -- the stack counter block, by offset
  pfb : Pfb := {}
  chans : Tbl Chan := []
  report : Option Nat := none          -- the report channel
  reports : List (List Byte) := []     -- reports not yet on it (R373)
  remote : Tbl Word := []              -- word w of entry i at 4 i + w
  links : Tbl Link := []               -- module m of edge e at 8 e + m
  lkctl : Word := 0
  replies : List (Nat × Option Walker) := [] -- answers to split requests, with the held entry (R367)
  power : List (Nat × Nat) := []       -- the last hundred samples with their TIMEs, newest first
  bonds : List (Nat × Nat × Nat) := [] -- open bonds: channel, signal, bond (R452)
  spared : List (Nat × Nat) := []      -- signals that a spare pair replaces: channel, signal
  deriving DecidableEq, Repr

/-! ## The module -/

/-- States of a TDI (R404, R405). -/
inductive TdiState where
  | unlocked | locked | run | error
  deriving DecidableEq, Repr

/-- An Ethernet connection (R411). -/
structure Conn where
  sent : Nat := 0
  acked : Nat := 0
  received : Nat := 0
  unacked : List (Nat × Nat × List Byte) := []  -- sequence number, TIME of sending, bytes
  lastAck : Nat := 0
  failed : Bool := false
  deriving DecidableEq, Repr

/-- A put of a far module whose records are not yet applied (R341), with the path it came on. -/
structure FarPut where
  path : Nat
  serial : Nat
  chunk : Nat
  stk : Nat
  keys : List Key
  homes : List Nat := []               -- the homes of its bytes
  deriving DecidableEq, Repr

/-- A put of a far module of which pieces have arrived. -/
structure FarPart where
  path : Nat
  serial : Nat
  chunk : Nat
  bytes : List Byte
  deriving DecidableEq, Repr

/-- What the module sends to the outside. -/
inductive Out where
  | completion (port : Nat) (bytes : List Byte) (poison : Bool)
  | unsupported (port : Nat)
  | retry (port : Nat)
  | config (port : Nat)
  | ptm (port : Nat) (ns : Word)
  | notify (port : Nat) (addr : Word) (v : Nat)
  | frame (port peer seq ack : Nat) (bytes : List Byte)
  | peer (port : Nat) (bytes : List Byte)
  | pldm (code : Nat) (bytes : List Byte)
  | signal (name : String) (level : Bool)
  deriving DecidableEq, Repr

/-- A message on the mesh's control class, not yet received (R398). -/
inductive Msg where
  | freeze (src stk cause detail : Nat)
  | beacon (stk src f a : Nat)
  | split (stk src w : Nat)
  | splitReply (src stk : Nat)
  | time (stk : Nat) (t at_ : Word)    -- a time beacon of stack 0: TIME carried, reference period of its arrival
  deriving DecidableEq, Repr

/-- What comes from outside the module, or from its physical layer, and has no name in the opcode table. -/
inductive Inp where
  | singleBit (stk : Nat)              -- an error that SECDED corrects (R242, R393)
  | viewError (core sector : Nat)      -- an uncorrectable error in a view cache (R242)
  | cacheError (stk sector : Nat)      -- an uncorrectable error in a stack cache (R242)
  | groupRetired (stk group : Nat)     -- firmware retires a group at bring-up (R306)
  | modrst (low : Bool)                -- MODRST_N (R440)
  | powerOk (high : Bool)              -- PWR_OK (R440, R441)
  | sensor (number : Nat) (high : Bool) -- a sensor other than a die's passes its warning level (R440, R450)
  | configRequest (port : Nat)         -- a configuration request at a host port (R445)
  | peerPacket (port : Nat) (bytes : List Byte) -- a transaction of a far module at a peer port (R411)
  | channelHang (stk die : Nat)        -- a broadcast channel makes no more progress (R315)
  | bondOpen (stk channel signal bond : Nat) -- a bond of a vertical signal opens (R452)
  | imageDamage (stk : Nat)            -- the image that a service core received is damaged (R445)
  | stepFailure                        -- the bring-up step in progress fails (R445)
  deriving DecidableEq, Repr

/-- What the agenda holds: a named step or input, another input, a message to be received, or the issue of a context's next
instruction. -/
inductive Sched where
  | event (i : Instr)
  | input (i : Inp)
  | msg (m : Msg)
  | issue (ctx : Nat)
  deriving DecidableEq, Repr

/-- The module. `hart` is the context whose instruction is executing and `others` are all other contexts. -/
structure State where
  agenda : List Sched := []
  stalled : List Msg := []             -- messages on their way, or at an edge that carries nothing (R402)
  fresh : Nat := 0                     -- counts the free values used
  serial : Nat := 0                    -- numbers copies
  ticks : Word := 0                    -- periods of the reference clock since the cold reset
  skew : Tbl Word := []                -- by stack: TIME minus ticks
  hart : Hart := { key := 65408, service := true, loc := 4608, slot := .sleeping, phase := .halted, usemask := 0 }
  others : Tbl Hart := []
  cores : Tbl CoreS := []              -- by global core id; service cores at 1,152 + s
  gangs : Tbl Gang := []
  logs : Tbl Log := []
  past : Tbl Past := []                -- by log id
  stackTab : Tbl Stack := []
  mem : Memory := []
  poison : List Nat := []              -- poisoned sectors (R242)
  tdis : Tbl TdiState := []
  portDomain : Tbl Nat := []           -- peer ports: the domain the service core sets
  perst : List Nat := []               -- host ports held in fundamental reset
  spdm : Bool := false                 -- a session with mutual authentication
  conns : Tbl Conn := []
  out : List Out := []                 -- latest first
  flash : Tbl (List Byte) := []        -- image slots 0 and 1
  active : Nat := 0
  newImage : Bool := false             -- the inactive slot holds a verified update
  image : List Byte := []              -- the accepted image
  fusedMin : BitVec 64 := 0
  keyHash : BitVec 256 := 0
  bringUp : Nat := 0                   -- the last bring-up step that ended; 6 is ready
  upSince : Word := 0                  -- the reference period in which bring-up began
  warm : Bool := false                 -- the last reset was a warm reset
  failed : Bool := false               -- bring-up stopped
  farPuts : List FarPut := []
  farParts : List FarPart := []
  gathers : Tbl Gather := []           -- reads from outside that are not complete
  badCopies : List Nat := []           -- stacks whose service core received a damaged image
  modrst : Bool := false               -- MODRST_N is low
  powerLow : Bool := false             -- PWR_OK is not asserted
  sensors : List Nat := []             -- sensors above their warning level, but for those of the dies
  engaged : Bool := false              -- the power governor stretches clocks (R442)
  stopped : Bool := false              -- clocks stopped by a thermal shutdown
  thermtrip : Bool := false
  alert : Bool := false
  deriving DecidableEq, Repr

/-- Why the machine stops. -/
inductive Fault where
  /-- Raised by a step or an input that names a stack, core, die, port or other unit the module does not have: the
  manual has no such event. Safe: the module cannot take it. -/
  | noSuchUnit
  deriving DecidableEq, Repr

/-- Why the model gives an instruction no meaning. -/
inductive Refusal where
  /-- Raised by an arm of the dispatch whose instruction has no meaning in the model. Safe. -/
  | notModelled (mnemonic : String)
  deriving DecidableEq, Repr

/-- The module when the cold reset is released: TIME 0, nothing placed, every table empty, bring-up not begun, service
cores before their boot (R444, R445). -/
def State.reset : State := {}

end Sys2Proof.Machine
end

