-- ==== Sys2Proof/Machine/Base.lean ====
section
/-! DEFINITION. Memory as cells, keys, the tables of the state through accessors, registers of a context, counters and
photo-finish events. -/

namespace Sys2Proof.Machine

/-! ## Cells -/

/-- What an unlisted address of home memory reads as: the owner byte of each frame in the frame owner table, 0xFF for
the frames of the two fixed areas and 0xFE for every other frame (R232); zero elsewhere, as bring-up leaves it (R445). -/
def blank (a : Nat) : Byte :=
  let o := a % Config.stackSlot
  let i := o - Config.ownerTableOff
  if o < Config.ownerTableOff ∨ 3047424 ≤ i then 0
  else if Config.ownerTableOff / 65536 ≤ i then 0xFF#8 else 0xFE#8

/-- The byte at `a`, or `z` where none is listed. -/
def cellRead (z : Byte) (m : Memory) (a : Nat) : Byte :=
  match m with
  | [] => z
  | (a', b) :: r => if a' = a then b else cellRead z r a

/-- The cells without `a`. -/
def cellErase (m : Memory) (a : Nat) : Memory :=
  match m with
  | [] => []
  | (a', b) :: r => if a' = a then cellErase r a else (a', b) :: cellErase r a

/-- The cells with `b` at `a`. -/
def cellPut (m : Memory) (a : Nat) (b : Byte) : Memory :=
  match m with
  | [] => [(a, b)]
  | (a', b') :: r => if a' = a then (a, b) :: r else if a < a' then (a, b) :: (a', b') :: r else (a', b') :: cellPut r a b

/-- The cells after a write of `b`, where an unlisted `a` reads as `z`. -/
def cellWrite (z : Byte) (m : Memory) (a : Nat) (b : Byte) : Memory :=
  if b = z then cellErase m a else cellPut m a b

/-- The canonical form: addresses strictly rising from `lo`, no cell equal to what an unlisted address reads as. -/
def cellsWf (z : Nat → Byte) (lo : Nat) (m : Memory) : Bool :=
  match m with
  | [] => true
  | (a, b) :: r => decide (lo ≤ a) && !(b == z a) && cellsWf z (a + 1) r

/-- Home memory is in canonical form. -/
def Memory.wf (m : Memory) : Bool := cellsWf blank 0 m

/-- The byte of home memory at a canonical physical address. -/
def Memory.read (m : Memory) (a : Nat) : Byte := cellRead (blank a) m a

/-- Home memory with a byte written. -/
def Memory.write (m : Memory) (a : Nat) (b : Byte) : Memory := cellWrite (blank a) m a b

/-- The `n` bytes from `a`, little-endian (R1). -/
def Memory.readN (m : Memory) (a : Nat) : Nat → Nat
  | 0 => 0
  | n + 1 => (m.read a).toNat + 256 * Memory.readN m (a + 1) n

/-- The low `n` bytes of `x` written from `a`, little-endian (R1). -/
def Memory.writeN (m : Memory) (a : Nat) : Nat → Nat → Memory
  | 0, _ => m
  | n + 1, x => Memory.writeN (m.write a (BitVec.ofNat 8 x)) (a + 1) n (x / 256)

/-- The bytes of a list written from `a`. -/
def Memory.writeList (m : Memory) (a : Nat) : List Byte → Memory
  | [] => m
  | b :: bs => Memory.writeList (m.write a b) (a + 1) bs

/-- The `n` bytes from `a` as a list. -/
def Memory.readList (m : Memory) (a : Nat) : Nat → List Byte
  | 0 => []
  | n + 1 => m.read a :: Memory.readList m (a + 1) n

/-- The bytes of `x` selected by a mask, written in a 64-byte sector (R260). -/
def Memory.writeMasked (m : Memory) (sector : Nat) (mask : BitVec 64) (x : BitVec 512) : Nat → Memory
  | 0 => m
  | i + 1 =>
    let m' := Memory.writeMasked m sector mask x i
    if mask.getLsbD i then m'.write (sector + i) (x.extractLsb' (8 * i) 8) else m'

/-- A private memory's bytes: unlisted bytes read as zero (R113, R288). -/
def privRead (m : Memory) (a : Nat) : Nat → Nat
  | 0 => 0
  | n + 1 => (cellRead 0 m a).toNat + 256 * privRead m (a + 1) n

/-- A private memory with the low `n` bytes of `x` written. -/
def privWrite (m : Memory) (a : Nat) : Nat → Nat → Memory
  | 0, _ => m
  | n + 1, x => privWrite (cellWrite 0 m a (BitVec.ofNat 8 x)) (a + 1) n (x / 256)

/-! ## Small arithmetic -/

/-- The number of ones of a numeral's low `n` bits. -/
def onesOf (x : Nat) : Nat → Nat
  | 0 => 0
  | n + 1 => x % 2 + onesOf (x / 2) n

/-- The number of ones. -/
def popc {w : Nat} (x : BitVec w) : Nat := onesOf x.toNat w

/-- ceil (a / b). -/
def ceilDiv (a b : Nat) : Nat := (a + b - 1) / b

/-- The numbers of the ones of a word, lowest first. -/
def onesList {w : Nat} (x : BitVec w) : List Nat := (List.range w).filter fun i => x.getLsbD i

/-- The largest power of two not above `n`, for `n` from 1 to 31. -/
def pow2Floor (n : Nat) : Nat := if 16 ≤ n then 16 else if 8 ≤ n then 8 else if 4 ≤ n then 4 else if 2 ≤ n then 2 else n

/-- The little-endian bytes of a number. -/
def bytesOf (x : Nat) : Nat → List Byte
  | 0 => []
  | n + 1 => BitVec.ofNat 8 x :: bytesOf (x / 256) n

/-- The number of little-endian bytes. -/
def ofBytes : List Byte → Nat
  | [] => 0
  | b :: bs => b.toNat + 256 * ofBytes bs

/-- `n` bytes of a list from `o`, as a number. -/
def bytesAt (bs : List Byte) (o n : Nat) : Nat := ofBytes ((bs.drop o).take n)

/-- The bytes of a list of doublewords. -/
def bytesOfWords (ws : List Word) : List Byte := ws.flatMap fun w => bytesOf w.toNat 8

/-- Sixty-four-bit two's complement of an integer. -/
def wordOfInt (x : Int) : Word := BitVec.ofInt 64 x

/-! ## Keys (R254) -/

/-- The key of a TIME and a source. -/
def Key.mk (t src : Nat) : Key := BitVec.ofNat 78 (t * 16384 + src)
/-- The TIME of a key. -/
def Key.time (k : Key) : Nat := k.toNat / 16384
/-- The source of a key. -/
def Key.source (k : Key) : Nat := k.toNat % 16384
/-- The stack of a key's source. -/
def Key.stack (k : Key) : Nat := k.toNat % 16384 / 512
/-- Unsigned order. -/
def Key.lt (a b : Key) : Bool := decide (a.toNat < b.toNat)
/-- Unsigned order. -/
def Key.le (a b : Key) : Bool := decide (a.toNat ≤ b.toNat)
/-- The larger key. -/
def Key.max (a b : Key) : Key := if a.toNat ≤ b.toNat then b else a
/-- The smaller key. -/
def Key.min (a b : Key) : Key := if a.toNat ≤ b.toNat then a else b
/-- The source of an agent of a stack. -/
def sourceOf (stk agent sub : Nat) : Nat := stk * 512 + agent * 8 + sub

/-! ## Tables of the state -/


namespace State

/-- A core. -/
def core (s : State) (g : Nat) : CoreS := s.cores.look g {}
/-- The state with a core changed. -/
def modCore (s : State) (g : Nat) (f : CoreS → CoreS) : State := { s with cores := s.cores.put g (f (s.core g)) }
/-- A stack. -/
def stack (s : State) (k : Nat) : Stack := s.stackTab.look k {}
/-- The state with a stack changed. -/
def modStack (s : State) (k : Nat) (f : Stack → Stack) : State := { s with stackTab := s.stackTab.put k (f (s.stack k)) }
/-- A log directory entry. -/
def log (s : State) (l : Nat) : Log := s.logs.look l {}
/-- The state with a log changed. -/
def modLog (s : State) (l : Nat) (f : Log → Log) : State := { s with logs := s.logs.put l (f (s.log l)) }
/-- A gang. -/
def gang (s : State) (g : Nat) : Gang := s.gangs.look g {}
/-- The state with a gang changed. -/
def modGang (s : State) (g : Nat) (f : Gang → Gang) : State := { s with gangs := s.gangs.put g (f (s.gang g)) }
/-- The contexts, the selected one first. -/
def harts (s : State) : List Hart :=
  (if s.hart.slot = .ended then [] else [s.hart]) ++ s.others.map Prod.snd
/-- A context by its key. -/
def ctx (s : State) (k : Nat) : Option Hart := s.harts.find? fun h => h.key == k
/-- The state with the selected context changed. -/
def modHart (s : State) (f : Hart → Hart) : State := { s with hart := f s.hart }
/-- The state with a context changed, wherever it is. -/
def modCtx (s : State) (k : Nat) (f : Hart → Hart) : State :=
  if s.hart.key = k then s.modHart f
  else { s with others := s.others.map fun e => if e.1 = k then (e.1, f e.2) else e }
/-- The state with every context changed. -/
def mapCtx (s : State) (f : Hart → Hart) : State :=
  { s with hart := f s.hart, others := s.others.map fun e => (e.1, f e.2) }
/-- The state with the registers of the selected context changed. -/
def modRegs (s : State) (f : Regs → Regs) : State := { s with hart := { s.hart with regs := f s.hart.regs } }
/-- The state with context `k` selected. -/
def select (s : State) (k : Nat) : State :=
  if s.hart.key = k then s
  else match s.others.find? fun e => e.1 == k with
    | none => s
    | some e =>
      let rest := Tbl.drop s.others k
      { s with hart := e.2, others := if s.hart.slot = .ended then rest else rest.put s.hart.key s.hart }
/-- A stack's copy of TIME (R387). -/
def time (s : State) (k : Nat) : Word := s.ticks + s.skew.look k 0
/-- The state with a message sent to the outside. -/
def send (s : State) (o : Out) : State := { s with out := o :: s.out }
/-- The state with messages on their way. -/
def post (s : State) (ms : List Msg) : State := { s with agenda := s.agenda ++ ms.map Sched.msg }
/-- A free value and the state after its use. -/
def free (s : State) : Word × State := (Config.freeWord s.fresh, { s with fresh := s.fresh + 1 })

end State

/-! ## The place of a context -/

/-- The stack of a context (R8, R9). -/
def Hart.stk (h : Hart) : Nat := if h.service then h.loc - 4608 else h.loc / 192
/-- The global core id; the service core of stack s is kept at 1,152 + s. -/
def Hart.core (h : Hart) : Nat := if h.service then 1152 + (h.loc - 4608) else h.loc / 4
/-- The slot; a service core has none, and its events name slot 0 (R9, R395). -/
def Hart.slotNo (h : Hart) : Nat := if h.service then 0 else h.loc % 4
/-- The core's number in its stack. -/
def Hart.coreNo (h : Hart) : Nat := h.loc / 4 % 48
/-- The source of its keys (R254). -/
def Hart.source (h : Hart) : Nat :=
  if h.service then sourceOf h.stk 63 0 else sourceOf h.stk h.coreNo h.slotNo
/-- HARTID (R10). -/
def Hart.hartid (h : Hart) : Word := BitVec.ofNat 64 h.loc
/-- The stack of a core, a service core's among them. -/
def coreStack (g : Nat) : Nat := if g < 1152 then g / 48 else g - 1152
/-- The agent that a core is in events (R395). -/
def coreAgent (g : Nat) : Nat := if g < 1152 then g % 48 else 63
/-- The number of a core in its stack as events and reports name it; a service core's is 0. -/
def coreNumber (g : Nat) : Nat := if g < 1152 then g % 48 else 0
/-- Whether a slot holds it. -/
def Hart.resident (h : Hart) : Bool := !(h.slot == .saved)
/-- The gang whose bank state and barrier it uses: its gang, or one of its own (R305). -/
def Hart.gangKey (h : Hart) : Nat :=
  if 2 ≤ h.gangSize.toNat then h.stk * 1024 + h.gangIdx.toNat else 0x8000 + h.key
/-- Whether it belongs to a gang. -/
def Hart.inGang (h : Hart) : Bool := decide (2 ≤ h.gangSize.toNat)
/-- The log its stores go to: a service core's is the service log of its stack (R275). -/
def Hart.logId (h : Hart) : Nat := h.key

/-- The number of lanes of a grant (R21). -/
def Regs.lanes (r : Regs) : Nat := 4 * popc r.grant
/-- The number of lanes of the context. -/
def Hart.lanes (h : Hart) : Nat := h.regs.lanes
/-- The physical lane of lane `l` of a grant (R21). -/
def Regs.physLane (r : Regs) (l : Nat) : Nat := 4 * (onesList r.grant).getD (l / 4) 0 + l % 4

/-- The selected context's stack. -/
def State.stk (s : State) : Nat := s.hart.stk
/-- TIME in the selected context's stack. -/
def State.now (s : State) : Word := s.time s.stk

/-! ## Scalar, vector, predicate and plane registers -/

/-- An s-register; s0 reads as zero (R101). -/
def Regs.rs (r : Regs) (n : SReg) : Word := if n = 0 then 0 else r.s.look n.toNat 0
/-- The registers after a write of an s-register; writes of s0 are discarded (R101). -/
def Regs.ws (r : Regs) (n : SReg) (x : Word) : Regs := if n = 0 then r else { r with s := r.s.put n.toNat x }
/-- A v-register (R120). -/
def Regs.rv (r : Regs) (n : VReg) : VRegS := r.v.look n.toNat {}
/-- The registers after a write of a v-register, which also rebuilds its parity (R210). -/
def Regs.wv (r : Regs) (n : VReg) (x : VRegS) : Regs :=
  { r with v := r.v.put n.toNat x, bad := r.bad.filter fun m => !(m == n) }
/-- A predicate; p0 reads as all true (R125). -/
def Regs.rp (r : Regs) (n : PReg) : PRegS := if n = 0 then { bits := BitVec.allOnes 16384 } else r.p.look n.toNat {}
/-- The registers after a write of a predicate's bits, which ends its binding; writes of p0 are discarded (R125, R126). -/
def Regs.wp (r : Regs) (n : PReg) (x : BitVec 16384) : Regs :=
  if n = 0 then r else { r with p := r.p.put n.toNat { bits := x, dirty := true, bind := none } }
/-- A plane register (R307). -/
def Regs.rb (r : Regs) (n : BReg) : BitVec 128 := r.bp.look n.toNat 0
/-- The registers after a write of a plane register. -/
def Regs.wb (r : Regs) (n : BReg) (x : BitVec 128) : Regs := { r with bp := r.bp.put n.toNat x }

/-- An s-register of the selected context. -/
def State.rs (s : State) (n : SReg) : Word := s.hart.regs.rs n
/-- The state after a write of an s-register of the selected context. -/
def State.ws (s : State) (n : SReg) (x : Word) : State := s.modRegs fun r => r.ws n x

/-- The registers after a change of grant (R22): vectors zero with their tags kept, predicates false, slices of lanes
not in both grants zero. -/
def Regs.regrant (r : Regs) (g : BitVec 16) : Regs :=
  if g = r.grant then r else
  { r with
    grant := g
    v := r.v.map fun e => (e.1, { tag := e.2.tag, dirty := e.2.dirty })
    p := r.p.map fun e => (e.1, { dirty := e.2.dirty })
    scratch := r.scratch.filter fun c => (g &&& r.grant).getLsbD (c.1 / 65536) }

/-! ## Counters and events -/

/-- The stack counter block with `n` added at an offset (R393). -/
def State.count (s : State) (k off n : Nat) : State :=
  s.modStack k fun t => { t with block := t.block.put off (t.block.look off 0 + BitVec.ofNat 64 n) }

/-- A performance counter of a compute core (R393); a service core has none. -/
def State.countCore (s : State) (g i : Nat) : State :=
  if g < 1152 then s.count (g / 48) (0x400 + 0x40 * (g % 48) + 8 * i) 1 else s

/-- A photo-finish event (R394 to R397): type, agent, slot, log id, hart id, payloads. -/
def State.pfb (s : State) (k ty agent slot lg hart : Nat) (a b : Word) : State :=
  let p := (s.stack k).pfb
  if p.frozen then s.count k 0x60 1
  else
    let w1 := BitVec.ofNat 64 (p.seq.toNat * 0x100000000 + lg % 65536 * 65536 + slot * 16384 + agent * 256 + ty)
    let w2 := BitVec.ofNat 64 (hart * 0x1000000000000 + a.toNat % 0x1000000000000)
    s.modStack k fun t => { t with pfb := { p with
      entries := p.entries.put p.idx.toNat [s.time k, w1, w2, b], idx := p.idx + 1, seq := p.seq + 1 } }

/-- A photo-finish event of a context. -/
def State.pfbHart (s : State) (h : Hart) (ty : Nat) (a b : Word) : State :=
  if h.service then s.pfb h.stk ty 63 0 0 h.loc a b
  else s.pfb h.stk ty h.coreNo h.slotNo h.key h.loc a b

/-- hart.event set in every context that meets a condition (R217). -/
def State.signal (s : State) (c : Hart → Bool) : State := s.mapCtx fun h => if c h then { h with event := true } else h

/-- A freeze of a stack's buffer (R397): a freeze event as its last entry, the freeze record, and with `tell` a freeze
message to every other stack. -/
def State.freeze (s : State) (k cause detail : Nat) (tell : Bool) : State :=
  if (s.stack k).pfb.frozen then s else
  let s := s.pfb k 0x12 63 0 0 0 (BitVec.ofNat 64 (cause + 256 * detail)) 0
  let s := s.modStack k fun t =>
    { t with pfb := { t.pfb with frozen := true, freezeTime := s.time k, freezeCause := cause } }
  if tell then
    s.post (((List.range Config.stackCount).filter fun j => j != k).map fun j => Msg.freeze k j cause detail)
  else s

/-- A freeze asked for at a stack: its buffer freezes unless it is frozen, and the message goes to the others (R397, R450). -/
def State.freezeAll (s : State) (k cause detail : Nat) : State :=
  (s.freeze k cause detail false).post
    (((List.range Config.stackCount).filter fun j => j != k).map fun j => Msg.freeze k j cause detail)

/-! ## Outcomes of the parts of a meaning -/

/-- The outcome of a check or of a part of an instruction. -/
inductive Res (α : Type) where
  | ok (a : α)
  | trap (cause : Nat) (val : Word)               -- nothing takes effect (R30)
  | fault (s : State) (cause : Nat) (val : Word)  -- of what it did only `s` stands: the effects of walks (R238)
  | late (a : α) (x : Word)                       -- the late stack-limit check failed (R104)
  | wait (a : α) (p : Phase)                      -- the hart waits; the instruction is entered again
  deriving DecidableEq, Repr

/-- Go on after a success; a part that does not succeed ends the instruction, and `hold` says what stands of it. -/
def Res.andThen {α β : Type} (r : Res α) (hold : α → β) (f : α → Res β) : Res β :=
  match r with
  | .ok a => f a
  | .trap c v => .trap c v
  | .fault s c v => .fault s c v
  | .late a x => .late (hold a) x
  | .wait a p => .wait (hold a) p

/-- Go on with the state after a success. -/
def Res.then {α : Type} (r : Res α) (f : α → Res α) : Res α := r.andThen id f

/-- Go on when the condition holds, else trap. -/
def check {α : Type} (c : Bool) (cause : Nat) (val : Word) (k : Res α) : Res α := if c then k else .trap cause val

end Sys2Proof.Machine
end

