-- ==== Sys2Proof/Machine/Memory.lean ====
section
/-! DEFINITION. The physical map, translation with its TLB banks, row locks as accesses meet them, and the views of
shared memory (chapters "Memories I" and "Memories II"). -/

namespace Sys2Proof.Machine

/-! ## The physical map (R229 to R231) -/

/-- The home stack of a canonical address. -/
def homeOf (p : Nat) : Nat := p / Config.stackSlot
/-- The offset in its stack's slot. -/
def slotOff (p : Nat) : Nat := p % Config.stackSlot
/-- The frame number in its stack. -/
def frameOf (p : Nat) : Nat := slotOff p / 65536
/-- The 64-byte sector. -/
def sectorOf (p : Nat) : Nat := p / 64 * 64

/-- The canonical address of a physical address, none in a hole. -/
def canonical (p : Nat) : Option Nat :=
  if p < Config.stackCount * Config.stackSlot then (if slotOff p < Config.homeBytes then some p else none)
  else if Config.spread ≤ p ∧ p < Config.spreadTop then
    let x := p - Config.spread
    let g := x / 4096
    let off := g / 24 * 4096 + x % 4096
    if off < Config.homeBytes then some (g % 24 * Config.stackSlot + off) else none
  else none

/-- The first address in each granule of 4,096 bytes that a byte range meets: the pieces of a page that lie together wherever
the page is (R231). -/
def granuleStarts (a n : Nat) : List Nat :=
  if n = 0 then [] else
    (List.range ((a + n - 1) / 4096 - a / 4096 + 1)).map fun i => if i = 0 then a else (a / 4096 + i) * 4096

/-- The owner byte of the frame of a canonical address (R232, R234). -/
def State.owner (s : State) (p : Nat) : Nat :=
  (s.mem.read (homeOf p * Config.stackSlot + Config.ownerTableOff + frameOf p)).toNat

/-- The sector of the frame owner table that holds that byte. -/
def ownerSector (p : Nat) : Nat := sectorOf (homeOf p * Config.stackSlot + Config.ownerTableOff + frameOf p)

/-! ## Paths over the mesh (R398, R402) -/

/-- An edge of a stack has an active module. -/
def Stack.edgeUp (t : Stack) (edge : Nat) : Bool := t.links.any fun l => l.1 / 8 == edge && l.2.state == 2

/-- The next edge on the way from a stack to another, with the stack beyond it: along the row, then along the column. -/
def hop (a b : Nat) : Nat × Nat :=
  if a % 6 < b % 6 then (0, a + 1) else if b % 6 < a % 6 then (1, a - 1) else if a < b then (2, a + 6) else (3, a - 6)

/-- Every edge on the way from a stack to another carries traffic; a way has at most eight hops. -/
def State.carries (s : State) (a b : Nat) : (fuel : Nat) → Bool
  | 0 => true
  | n + 1 => a == b || ((s.stack a).edgeUp (hop a b).1 && State.carries s (hop a b).2 b n)

/-- Messages of one stack reach another. -/
def State.reaches (s : State) (a b : Nat) : Bool := s.carries a b 8

/-- A request of one stack reaches another, and its reply comes back. -/
def State.connected (s : State) (a b : Nat) : Bool := a == b || (s.reaches a b && s.reaches b a)

/-! ## Rows and locks (R304, R311, R374) -/

/-- The group and row of a frame. -/
def groupOf (f : Nat) : Nat := f / 992
/-- The row of a frame. -/
def rowOf (f : Nat) : Nat := f % 992

/-- A lock covers a frame. -/
def RowLock.covers (l : RowLock) (f : Nat) : Bool :=
  decide (l.a0 ≤ groupOf f) && decide (groupOf f < l.a0 + l.an) &&
  decide (l.row ≤ rowOf f) && decide (rowOf f < l.row + l.rows)

/-- The lock on a frame of a stack: the one in effect, else one that is pending, since what it holds back begins with its key
(R264, R274). -/
def Stack.lockOn (t : Stack) (f : Nat) : Option (Nat × RowLock) :=
  (t.locks.find? fun e => e.2.effective && e.2.covers f).or (t.locks.find? fun e => e.2.covers f)

/-- A frame lies in rows that a gang has locked. -/
def Stack.ownRow (t : Stack) (gang f : Nat) : Bool :=
  t.locks.any fun e => e.2.effective && e.2.covers f && e.2.gang == gang

/-- The frame is resident (R243). -/
def Stack.isResident (t : Stack) (p : Nat) : Bool :=
  t.residency.any fun e => e.2.getLsbD 0 && (e.2.extractLsb' 16 32).toNat == p / 65536 % 0x100000000

/-- A sector at home that gives no good datum: it is poisoned, or its row is torn (R242, R314). -/
def State.badSector (s : State) (sec : Nat) : Bool :=
  s.poison.contains sec || (s.stack (homeOf sec)).rows.look (frameOf sec) .whole == .torn

/-! ## The stack cache (R241) -/

/-- The set of a line. -/
def cacheSet (line : Nat) : Nat := line % 8192

/-- A sector read or written through the stack cache: a full set loses its oldest line, which is written back. A resident
frame's sectors are not held. -/
def Stack.cacheTouch (t : Stack) (sec : Nat) (write : Bool) : Stack :=
  if t.isResident sec then t
  else
    let line := sec / 512
    let b := 1#8 <<< (sec / 64 % 8)
    let d : BitVec 8 := if write then b else 0
    if t.cache.any fun c => c.line == line then
      { t with cache := t.cache.map fun c => if c.line = line then { c with valid := c.valid ||| b, dirty := c.dirty ||| d } else c }
    else
      let full := decide (16 ≤ (t.cache.filter fun c => cacheSet c.line == cacheSet line).length)
      let kept := if full then t.cache.eraseP fun c => cacheSet c.line == cacheSet line else t.cache
      { t with cache := kept ++ [{ line := line, valid := b, dirty := d }] }

/-- The sectors of frames that meet a condition written back and dropped. -/
def Stack.cacheDrop (t : Stack) (fs : Nat → Bool) : Stack :=
  { t with cache := t.cache.filter fun c => !(fs (frameOf (c.line * 512))) }

/-- The dirty sectors of frames that meet a condition written back. -/
def Stack.cacheWriteBack (t : Stack) (fs : Nat → Bool) : Stack :=
  { t with cache := t.cache.map fun c => if fs (frameOf (c.line * 512)) then { c with dirty := 0 } else c }

/-- A sector read through its home stack's cache. -/
def State.cacheRead (s : State) (sec : Nat) : State := s.modStack (homeOf sec) fun t => t.cacheTouch sec false

/-- The sectors that a byte range lies in. -/
def sectorsIn (a n : Nat) : List Nat :=
  if n = 0 then [] else (List.range ((a + n - 1) / 64 - a / 64 + 1)).map fun i => (a / 64 + i) * 64

/-- Sectors that an engine of the module reads at home: through their stack caches, and one that gives no good datum is counted where
it is homed (R241, R393). -/
def State.readHome (s : State) (secs : List Nat) : State :=
  secs.foldl (fun s x => if s.badSector x then s.count (homeOf x) 0x08 1 else s.cacheRead x) s

/-- A sector written through its home stack's cache. -/
def State.cacheWrite (s : State) (sec : Nat) : State := s.modStack (homeOf sec) fun t => t.cacheTouch sec true

/-- Sectors of a byte range written through their home stacks' caches. -/
def State.cacheWritten (s : State) (a n : Nat) : State :=
  (sectorsIn a n).foldl State.cacheWrite s

/-- Bytes written in home memory by an agent that writes it directly (R246). -/
def State.putHome (s : State) (a : Nat) (bs : List Byte) : State :=
  if bs.isEmpty then s else { s with mem := s.mem.writeList a bs }.cacheWritten a bs.length

/-! ## Translation (R227 to R238) -/

/-- Kinds of access. -/
inductive Access where
  | fetch | read | write | rw
  deriving DecidableEq, Repr

/-- Faults of a translation. -/
inductive MemFault where
  | translation | permission | domain | access
  | poison (sector : Nat)
  | held (sector : Nat)                -- no fault: the walk waits for a table entry in a locked row, or out of reach (R311, R402)
  deriving DecidableEq, Repr

/-- Stands for the code of a walk that waits for a locked row. -/
def heldCode : Nat := 0x100

/-- The trap code of a fault: for a fetch, codes 0x08, 0x09 and 0x0A become 0x01, 0x02 and 0x03, and the data-access
fault becomes 0x02 (R235). -/
def MemFault.code (k : Access) : MemFault → Nat
  | .translation => if k = .fetch then 0x01 else 0x08
  | .permission => if k = .fetch then 0x02 else 0x09
  | .domain => if k = .fetch then 0x03 else 0x0A
  | .access => if k = .fetch then 0x02 else 0x0C
  | .poison _ => 0x0E
  | .held _ => heldCode

/-- TVAL of a fault on address `a` (R204). -/
def MemFault.val (a : Word) : MemFault → Word
  | .poison sec | .held sec => BitVec.ofNat 64 sec
  | _ => a

/-- Bits of a page table entry (R234). -/
def pteV (e : Word) : Bool := e.getLsbD 0
/-- LEAF. -/
def pteLeaf (e : Word) : Bool := e.getLsbD 1
/-- DOM. -/
def pteDom (e : Word) : Nat := (e.extractLsb' 58 6).toNat
/-- ADDR × 2^16. -/
def pteAddr (e : Word) : Nat := (e.extractLsb' 16 32).toNat * 65536
/-- RES. -/
def pteRes (e : Word) : Bool := e.getLsbD 5
/-- The reserved bits are zero. -/
def pteReservedOk (e : Word) : Bool := e.extractLsb' 48 10 == 0 && e.extractLsb' 6 10 == 0

/-- The number of offset bits of a leaf at a level (R227). -/
def offsetBits (level : Nat) : Nat := if level = 1 then 42 else if level = 2 then 29 else 16
/-- The index of an address at a level (R227). -/
def levelIndex (level a : Nat) : Nat := a / 2 ^ offsetBits level % (if level = 1 then 4096 else 8192)
/-- The alignment of R234. -/
def leafAligned (level : Nat) (e : Word) : Bool := pteAddr e % 2 ^ offsetBits level == 0

/-- Whether an access has the permission it needs (R234, R235). -/
def permits (k : Access) (e : Word) : Bool :=
  match k with
  | .fetch => e.getLsbD 4
  | .read => e.getLsbD 2
  | .write => e.getLsbD 3
  | .rw => e.getLsbD 2 && e.getLsbD 3

/-- A domain owns the frame of a canonical address, for a bank member or a port (R319, R405): a byte of the owner table that gives no
good datum names no domain. -/
def State.owns (s : State) (d p : Nat) : Bool := s.owner p == d && !s.badSector (ownerSector p)

/-- What keeps a walk or a check from a sector that it reads at home: no path leads there or its row is locked, and it waits
(R311, R402); or the sector gives no good datum (R242). -/
def State.cutOff (s : State) (stk sec : Nat) : Option MemFault :=
  if !s.connected stk (homeOf sec) || ((s.stack (homeOf sec)).lockOn (frameOf sec)).isSome then some (.held sec)
  else if s.badSector sec then some (.poison sec)
  else none

/-- Whether an address lies in the private window (R228). -/
def inWindow (a : Nat) : Bool := decide (Config.window ≤ a) && decide (a < Config.vaTop)

/-- The walk from the table at `t`: the leaf with its level, or the fault (R235, R236), and the sectors that it read. -/
def walk (s : State) (stk a : Nat) : (fuel level t : Nat) → Except MemFault (Word × Nat) × List Nat
  | 0, _, _ => (.error .translation, [])
  | fuel + 1, level, t =>
    match canonical (t + 8 * levelIndex level a) with
    | none => (.error .translation, [])
    | some ea =>
      let own := ownerSector ea
      let sec := sectorOf ea
      match s.cutOff stk own with
      | some f => (.error f, [own])
      | none =>
        if s.owner ea ≠ 0xFF then (.error .translation, [own])
        else match s.cutOff stk sec with
        | some f => (.error f, [own, sec])
        | none =>
          let e : Word := BitVec.ofNat 64 (s.mem.readN ea 8)
          if !pteV e || !pteReservedOk e || (pteLeaf e && !leafAligned level e) then (.error .translation, [own, sec])
          else if pteLeaf e then (.ok (e, level), [own, sec])
          else if level = 3 || !(e.extractLsb' 2 4 == 0) || pteDom e ≠ 0 then (.error .translation, [own, sec])
          else
            let r := walk s stk a fuel (level + 1) (pteAddr e)
            (r.1, own :: sec :: r.2)

/-- The capacity of a TLB bank (R237). -/
def tlbCap (bank : Nat) : Nat := if bank ≤ 1 then 64 else 32

/-- A TLB entry maps an address of a domain. -/
def TlbEntry.hits (e : TlbEntry) (bank dom a : Nat) : Bool :=
  e.bank == bank && e.dom == dom && a / 2 ^ offsetBits e.level == e.page / 2 ^ offsetBits e.level

/-- A bank filled; a full bank loses its oldest entry. -/
def tlbFill (t : List TlbEntry) (e : TlbEntry) : List TlbEntry :=
  if (t.filter fun x => x.bank == e.bank).length < tlbCap e.bank then t ++ [e]
  else (match t.findIdx? fun x => x.bank == e.bank with
    | some i => t.eraseIdx i
    | none => t) ++ [e]

/-- The checks on a leaf (R235): the owner byte is read at the home of the frame, from the merged state. -/
def leafCheck (s : State) (stk dom : Nat) (k : Access) (e : Word) (p : Nat) : Except MemFault (Nat × Bool) :=
  if pteDom e ≠ dom then .error .domain
  else if !permits k e then .error .permission
  else match s.cutOff stk (ownerSector p) with
    | some f => .error f
    | none => if s.owner p ≠ dom then .error .domain else .ok (p, pteRes e)

/-- The sector that the checks on a leaf read. -/
def leafReads (dom : Nat) (k : Access) (e : Word) (p : Nat) : List Nat :=
  if pteDom e = dom ∧ permits k e = true then [ownerSector p] else []

/-- A translation in a TLB (R235): the canonical address and the RES hint, or the fault, with what its walk did. -/
def translate (s : State) (stk : Nat) (w : Walks) (bank dom : Nat) (k : Access) (a : Word) :
    Except MemFault (Nat × Bool) × Walks :=
  let va := a.toNat
  if Config.vaTop ≤ va then (.error .translation, w)
  else if inWindow va then (.error .access, w)
  else match w.tlb.find? fun e => e.hits bank dom va with
    | some e =>
      match canonical (pteAddr e.entry + va % 2 ^ offsetBits e.level) with
      | none => (.error .access, w)
      | some p => (leafCheck s stk dom k e.entry p, { w with reads := w.reads ++ leafReads dom k e.entry p })
    | none =>
      let root := (s.stack stk).roots.look dom 0
      if !root.getLsbD 0 then (.error .translation, w)
      else
        let r := walk s stk va 3 1 (pteAddr root)
        let w := { w with reads := w.reads ++ r.2 }
        match r.1 with
        | .error f => (.error f, w)
        | .ok (e, level) =>
          match canonical (pteAddr e + va % 2 ^ offsetBits level) with
          | none => (.error .access, w)
          | some p =>
            (leafCheck s stk dom k e p, { w with
              reads := w.reads ++ leafReads dom k e p
              tlb := tlbFill w.tlb { bank := bank, dom := dom, page := va / 2 ^ offsetBits level * 2 ^ offsetBits level,
                                     level := level, entry := e } })

/-- Translations of a core begin from its TLB. -/
def CoreS.walks (c : CoreS) : Walks := { tlb := c.tlb }

/-- Translations of the selected context begin from its core's TLB. -/
def State.walks (s : State) : Walks := (s.core s.hart.core).walks

/-- What translations of a core did: its TLB, and the tables that walks read through their stack caches (R241). -/
def State.setWalks (s : State) (g : Nat) (w : Walks) : State :=
  w.reads.foldl State.cacheRead (s.modCore g fun c => { c with tlb := w.tlb })

/-- What translations of the selected context did. -/
def State.setTlb (s : State) (w : Walks) : State := s.setWalks s.hart.core w

/-- A trap after a part that leaves a state keeps that state (R238). -/
def Res.keepWalks {α : Type} (s : State) : Res α → Res α
  | .trap c v => .fault s c v
  | r => r

/-- Addresses translated in order by the selected context; the first that fails decides (R238). Each comes with its
bank. -/
def translateAll (s : State) (k : Access) : List (Nat × Word) → Walks → Res (List (Nat × Bool) × Walks)
  | [], t => .ok ([], t)
  | (bank, a) :: r, t =>
    match translate s s.stk t bank s.hart.domain.toNat k a with
    | (.error (.held sec), t') => .wait ([], t') (.deferredRead sec)
    | (.error f, t') => .fault (s.setTlb t') (f.code k) (f.val a)
    | (.ok p, t') =>
      (translateAll s k r t').andThen id fun x => .ok (p :: x.1, x.2)

/-- Entries that PTINV of an address removes; none of address: all (R219). -/
def ptinvTlb (t : List TlbEntry) (a : Option Word) : List TlbEntry :=
  match a with
  | none => []
  | some v => t.filter fun e => !(v.toNat / 2 ^ offsetBits e.level == e.page / 2 ^ offsetBits e.level)

/-! ## Merge state (R259) -/

/-- The horizon H of a stack. -/
def Stack.horizon (t : Stack) : Key :=
  ((List.range Config.stackCount).map fun j => (t.beacons.look j (0, 0)).1).foldl Key.min (BitVec.allOnes 78)
/-- The settled point S of a stack. -/
def Stack.settled (t : Stack) : Key :=
  ((List.range Config.stackCount).map fun j => (t.beacons.look j (0, 0)).2).foldl Key.min (BitVec.allOnes 78)
/-- The key below a key. -/
def Key.pred (k : Key) : Key := if k = 0 then 0 else k - 1
/-- The applied point a of a stack: no record at or below it that is homed in the stack is unapplied. -/
def Stack.applied (t : Stack) : Key :=
  ((t.mq.map fun e => e.key) ++ (t.inbound.map fun e => e.key) ++ (t.refused.map fun e => e.2.key) ++
    (t.locks.filterMap fun e => e.2.releasing)).foldl Key.min t.horizon
    |>.pred
/-- The merge floor f of a stack: the least key of the outstanding items of its sources, or (TIME, 0). -/
def State.mergeFloor (s : State) (k : Nat) : Key :=
  ((s.stackTab.flatMap fun e => (e.2.inbound ++ e.2.refused.map Prod.snd).map fun m => m.key).filter fun x => x.stack == k).foldl
    Key.min (Key.mk (s.time k).toNat 0)

/-- The settled point at the selected context's stack. -/
def State.settled (s : State) : Key := (s.stack s.stk).settled

/-! ## Views (R239, R240, R264 to R267) -/

/-- The bytes of a sector of home memory. -/
def State.homeSector (s : State) (sec : Nat) : BitVec 512 := BitVec.ofNat 512 (s.mem.readN sec 64)

/-- The sector that a slot reads in a view: its pinned copy, else a shared one. -/
def viewFind (v : List Sector) (slot sec : Nat) : Option Sector :=
  match v.find? fun x => x.addr == sec && x.pin == some slot with
  | some x => some x
  | none => v.find? fun x => x.addr == sec && x.pin == none

/-- The set of a sector's line. -/
def setOf (sec : Nat) : Nat := sec / 512 % 64

/-- Way tags in use in a set, oldest first: lines with their pin. -/
def ways (v : List Sector) (set : Nat) : List (Nat × Option Nat) :=
  ((v.filter fun x => setOf x.addr == set).map fun x => (x.addr / 512, x.pin)).eraseDups

/-- A view with a shared sector filled. A full set loses its oldest shared line; a set full of pinned lines takes none
(R240). -/
def viewFill (v : List Sector) (x : Sector) : List Sector :=
  let w := ways v (setOf x.addr)
  if w.contains (x.addr / 512, x.pin) || decide (w.length < 8) then v ++ [x]
  else match w.find? fun t => t.2 == none with
    | none => v
    | some t => (v.filter fun y => !(y.addr / 512 == t.1 && y.pin == none)) ++ [x]

/-- A refresh to a key of the sectors that meet a condition: shared sectors with a lower fill point are dropped (R264). -/
def viewRefresh (v : List Sector) (c : Nat → Bool) (k : Key) : List Sector :=
  v.filter fun x => !(x.pin == none && c x.addr && x.key.lt k)

/-- A refresh of all sectors of a core. -/
def State.refreshAll (s : State) (g : Nat) (k : Key) : State :=
  s.modCore g fun c => { c with view := viewRefresh c.view (fun _ => true) k }

/-- The own-store value of a byte of the selected context: the latest of its open records and its log's records that
no compaction has reclaimed (R114, R253). -/
def ownByte (staging : List (Nat × BitVec 64 × BitVec 512)) (recs : List Rec) (p : Nat) : Option Byte :=
  let sec := sectorOf p
  let i := p % 64
  match staging.reverse.find? fun r => r.1 == sec && r.2.1.getLsbD i with
  | some r => some (r.2.2.extractLsb' (8 * i) 8)
  | none =>
    (recs.reverse.findSome? fun r =>
      match r.body with
      | .store sc m d => if sc == sec && m.getLsbD i then some (d.extractLsb' (8 * i) 8) else none
      | .publish .. => none)

/-- The byte that the selected context reads at a canonical address: its own store (R114, R253), else home's where its gang
locks the row (R311), else its view's (R267). A service core reads home memory (R275). -/
def State.viewByte (s : State) (p : Nat) : Byte :=
  if s.hart.service then s.mem.read p
  else match ownByte s.hart.staging (s.log s.hart.key).recs p with
    | some b => b
    | none =>
      if (s.stack (homeOf p)).ownRow s.hart.gangKey (frameOf p) then s.mem.read p
      else
        match viewFind (s.core s.hart.core).view s.hart.slotNo (sectorOf p) with
        | some x => x.data.extractLsb' (8 * (p % 64)) 8
        | none => s.mem.read p

/-- The `n` bytes that the selected context reads from a canonical address. -/
def State.viewN (s : State) (p : Nat) : Nat → Nat
  | 0 => 0
  | n + 1 => (s.viewByte p).toNat + 256 * State.viewN s (p + 1) n

/-- How home answers a read of a sector by the selected context; `ownBad`: a row that its gang locks gives no good datum. -/
inductive Served where
  | yes | poisoned | wait | ownWait | inPlace | ownBad | cut
  deriving DecidableEq, Repr

/-- Bank work of a gang is queued or runs. -/
def Stack.bankBusy (t : Stack) (g : Nat) : Bool :=
  t.bcpq.any (fun c => c.gang == g) || t.channels.any fun c => (c.2.run.map fun r => r.gang) == some g

/-- A read of a sector at home from a stack for a hart of a gang (R242, R311, R312, R314): one that no path reaches waits (R402); a poisoned
sector and a torn row give an error; a row that another gang locks waits for the release; a row that the reader's gang locks is
read in place, past every cache, when the gang's bank work, a pending BRLK too, is done, an unsealed one unchecked, and a torn or
poisoned one gives the error whatever the view cache holds. -/
def State.servedTo (s : State) (stk gang sec : Nat) : Served :=
  let t := s.stack (homeOf sec)
  let f := frameOf sec
  if !s.connected stk (homeOf sec) then .cut
  else match t.lockOn f with
  | some (_, l) =>
    if l.gang = gang then
      (if t.bankBusy l.gang then .ownWait else if s.badSector sec then .ownBad else .inPlace)
    else .wait
  | none => if s.badSector sec then .poisoned else .yes

/-- A read of a sector at home by the selected context. -/
def State.served (s : State) (sec : Nat) : Served := s.servedTo s.stk s.hart.gangKey sec

/-- The first byte of a read from outside that lies in a locked row. -/
def State.lockedAt (s : State) (as : List Nat) : Option Nat :=
  as.find? fun p => ((s.stack (homeOf p)).lockOn (frameOf p)).isSome

/-! ## Requests held at locked rows (R274, R353, R354) -/

/-- Depth of the deferred-request queue (R353). -/
def deferDepth : Nat := 1024

/-- A stack's deferred-request queue is full: the event, once per episode (R354). -/
def State.deferFull (s : State) (stk : Nat) : State :=
  if (s.stack stk).deferStall then s
  else (s.modStack stk fun t => { t with deferStall := true }).pfb stk 0x0F 60 0 0 0 (BitVec.ofNat 64 (s.stack stk).deferred.length) 0

/-- Two requests are one read, whenever it was made. -/
def DEntry.sameRead (a b : DEntry) : Bool :=
  match a, b with
  | .load g c x _, .load h d y _ => g == h && c == d && x == y
  | .prefetch g x _, .prefetch h y _ => g == h && x == y
  | .copyRead g c j x _, .copyRead h d i y _ => g == h && c == d && j == i && x == y
  | .read i x _, .read j y _ => i == j && x == y
  | _, _ => false

/-- A stack holds a read already. -/
def Stack.holds (t : Stack) (d : DEntry) : Bool := t.deferred.any d.sameRead || t.backlog.any d.sameRead

/-- A read held at its home stack: in the deferred-request queue, or behind it when it is full. -/
def State.hold (s : State) (stk : Nat) (d : DEntry) : State :=
  let t := s.stack stk
  if t.holds d then s
  else if deferDepth ≤ t.deferred.length then (s.deferFull stk).modStack stk fun t => { t with backlog := t.backlog ++ [d] }
  else (s.modStack stk fun t => { t with deferred := t.deferred ++ [d] }).count stk 0x118 1

/-- The key that a read takes its place in the deferred-request queue with: TIME at its home and the reader. -/
def State.readKey (s : State) (stk source : Nat) : Key := Key.mk (s.time stk).toNat source

/-- A read of a sector by the selected context held at its home, where another gang's lock covers it. -/
def State.holdLoad (s : State) (sec : Nat) : State :=
  if s.served sec = .wait then
    s.hold (homeOf sec) (.load s.hart.core s.hart.key sec (s.readKey (homeOf sec) s.hart.source))
  else s

/-- A hit or a miss in the view cache, counted once for an instruction (R393). -/
def State.countView (s : State) (key : Nat) (hit : Bool) : State :=
  if s.hart.att.counted.contains key then s
  else (s.countCore s.hart.core (if hit then 2 else 3)).modHart fun h =>
    { h with att := { h.att with counted := key :: h.att.counted } }

/-- A shared sector of a core filled from home (R239); a resident frame's sector is not held under a RES
hint (R243). -/
def State.fill (s : State) (g sec : Nat) (res : Bool) : State :=
  if res && (s.stack (homeOf sec)).isResident sec then s
  else (s.cacheRead sec).modCore g fun c =>
    { c with view := viewFill c.view { addr := sec, key := (s.stack (coreStack g)).settled, data := s.homeSector sec } }

/-- Home has applied the records of a sector whose replay the selected context put off (R266, R311). -/
def State.paid (s : State) (sec : Nat) : Bool :=
  (s.log s.hart.key).owed.all fun e => !(e.1 == sec) || e.2.le (s.stack (homeOf sec)).applied

/-- The selected context put off a replay of a sector. -/
def State.owes (s : State) (sec : Nat) : Bool := (s.log s.hart.key).owed.any fun e => e.1 == sec

/-- A sector whose replay was put off is filled again: no copy that the slot can read stays. -/
def State.repay (s : State) (sec : Nat) : State :=
  if s.owes sec then
    (s.modCore s.hart.core fun c => { c with
      view := c.view.filter fun x => !(x.addr == sec && (x.pin == some s.hart.slotNo || x.pin == none)) }).modLog s.hart.key fun l =>
        { l with owed := Tbl.drop l.owed sec }
  else s

/-- The view of the selected context's slot made to hold a sector for reading; `res` keeps a resident frame out of the
view cache (R243). -/
def State.ensure (s : State) (sec : Nat) (res : Bool) : Res State :=
  if s.hart.service then
    match s.served sec with
    | .poisoned | .ownBad => .fault s 0x0E (BitVec.ofNat 64 sec)
    | .wait | .ownWait | .cut => .wait s (.deferredRead sec)
    | .yes => .ok (s.cacheRead sec)
    | .inPlace => .ok s
  else match s.served sec with
    | .inPlace => .ok s
    | .ownBad => .fault s 0x0E (BitVec.ofNat 64 sec)
    | .ownWait => .wait s (.deferredRead sec)
    | sv =>
      match if s.owes sec then none else viewFind (s.core s.hart.core).view s.hart.slotNo sec with
      | some _ => .ok (s.countView sec true)
      | none =>
        if !s.paid sec then .wait (s.countView sec false) (.deferredRead sec)
        else
        match sv with
        | .poisoned => .fault (s.countView sec false) 0x0E (BitVec.ofNat 64 sec)
        | .wait | .cut => .wait (s.countView sec false) (.deferredRead sec)
        | _ => .ok (((s.countView sec false).repay sec).fill s.hart.core sec res)

/-- Every sector of a list made readable, in order. -/
def State.ensureAll (s : State) : List (Nat × Bool) → Res State
  | [] => .ok s
  | (sec, res) :: r => (s.ensure sec res).then fun s' => State.ensureAll s' r

/-- A sector fetched ahead for a core (R287): a page that fails is skipped, a sector that the core holds for the slot stays; it is
filled when home serves it at once, held at home while another gang's lock covers its row (R274), and kept for later while its
walk is held or no path reaches it (R402). -/
def State.fetchAhead (s : State) (g : Nat) (a : Ahead) : State :=
  let stk := coreStack g
  match translate s stk (s.core g).walks a.bank a.dom .read a.va with
  | (.error (.held _), w) => (s.setWalks g w).modCore g fun c => { c with ahead := c.ahead ++ [a] }
  | (.error _, w) => s.setWalks g w
  | (.ok (p, res), w) =>
    let s := s.setWalks g w
    let sec := sectorOf p
    if (viewFind (s.core g).view a.slot sec).isSome then s
    else match s.servedTo stk a.gang sec with
      | .yes => s.fill g sec res
      | .wait => s.hold (homeOf sec) (.prefetch g sec (s.readKey (homeOf sec) (sourceOf stk (g % 48) a.slot)))
      | .cut => s.modCore g fun c => { c with ahead := c.ahead ++ [a] }
      | .ownWait | .inPlace | .ownBad | .poisoned => s

/-- Sectors of a core that could not be fetched ahead yet are asked for again. -/
def State.fetchLater (s : State) (g : Nat) : State :=
  (s.core g).ahead.foldl (fun s a => s.fetchAhead g a) (s.modCore g fun c => { c with ahead := [] })

/-- A read of `n` bytes at a canonical address needs home or a view: the selected context has not stored each byte itself (R285). -/
def State.reads (s : State) (p n : Nat) : Bool :=
  s.hart.service || (List.range n).any fun j => (ownByte s.hart.staging (s.log s.hart.key).recs (p + j)).isNone

/-- The floor of the selected context raised to a key. -/
def State.raiseFloor (s : State) (k : Key) : State :=
  s.modLog s.hart.key fun l => { l with floor := l.floor.max k }

end Sys2Proof.Machine
end

