-- ==== Sys2Proof/Machine/Frames.lean ====
section
/-! DEFINITION. Ports and their stacks (R16), and the packets between modules with the connection that carries them (R410,
R411). -/

namespace Sys2Proof.Machine

/-- The stack of a port: host ports 0 and 1, then the eight peer ports (R16). -/
def portStack (p : Nat) : Nat := [2, 21, 6, 6, 11, 11, 12, 12, 17, 17].getD p 2

/-- The stack of an Ethernet port (R16). -/
def etherStack (p : Nat) : Nat := if p < 6 then p else p + 12

/-- The Ethernet port that reaches a far module. -/
def etherPort (peer : Nat) : Nat := Config.etherPort peer % 12

/-- The stack where the packets of a path leave and arrive: a peer port's, or that of the Ethernet port of a far module. -/
def pathStack (path : Nat) : Nat := if path < 8 then portStack (path + 2) else etherStack (etherPort path)

/-- The stack where a reader's requests enter. -/
def Reader.stk : Reader → Nat
  | .port p => portStack p
  | .far path _ _ => pathStack path

/-- What a packet asks or answers: a put, a put of a multiple of 8 bytes, a get, and the answers done, data, refused and poisoned. -/
inductive PacketKind where
  | put | putWords | get | done | data | refused | poisoned
  deriving DecidableEq, Repr

/-- A packet: the copy and chunk it belongs to, the far entry, the offset in its window, a length and bytes. -/
structure Packet where
  kind : PacketKind
  serial : Nat
  chunk : Nat
  entry : Nat := 0
  off : Nat := 0
  len : Nat := 0
  bytes : List Byte := []
  deriving DecidableEq, Repr

/-- The code of a kind. -/
def PacketKind.code : PacketKind → Nat
  | .put => 1 | .putWords => 2 | .get => 3 | .done => 4 | .data => 5 | .refused => 6 | .poisoned => 7

/-- The kind of a code. -/
def packetKind : Nat → Option PacketKind
  | 1 => some .put | 2 => some .putWords | 3 => some .get | 4 => some .done | 5 => some .data | 6 => some .refused | 7 => some .poisoned | _ => none

/-- The bytes of a packet. -/
def Packet.encode (p : Packet) : List Byte :=
  BitVec.ofNat 8 p.kind.code :: (bytesOf p.serial 8 ++ bytesOf p.chunk 4 ++ bytesOf p.entry 2 ++ bytesOf p.off 8 ++
    bytesOf p.len 4 ++ p.bytes)

/-- The packet of a list of bytes. -/
def packetOf (bs : List Byte) : Option Packet :=
  (packetKind (bytesAt bs 0 1)).map fun k =>
    { kind := k, serial := bytesAt bs 1 8, chunk := bytesAt bs 9 4, entry := bytesAt bs 13 2, off := bytesAt bs 15 8,
      len := bytesAt bs 23 4, bytes := bs.drop 27 }

/-- A connection. -/
def State.conn (s : State) (peer : Nat) : Conn := s.conns.look peer {}

/-- A connection changed. -/
def State.modConn (s : State) (peer : Nat) (f : Conn → Conn) : State := { s with conns := s.conns.put peer (f (s.conn peer)) }

/-- A frame sent for the next sequence number and kept until it is acknowledged; the wait for an acknowledgement counts
from the first frame outstanding. -/
def State.sendFrame (s : State) (peer : Nat) (bs : List Byte) : State :=
  let c := s.conn peer
  let now := (s.time (pathStack peer)).toNat
  (s.modConn peer fun c =>
    { c with sent := c.sent + 1, unacked := c.unacked ++ [(c.sent, now, bs)]
             lastAck := if c.unacked.isEmpty then now else c.lastAck }).send (.frame (etherPort peer) peer c.sent c.received bs)

/-- A packet sent on a path: to a far module over Ethernet in a frame of its connection, or through a peer port as a
transaction of CXL.mem (R411). -/
def State.sendPacket (s : State) (path : Nat) (p : Packet) : State :=
  if path < 8 then s.send (.peer path p.encode) else s.sendFrame path p.encode

/-- Pieces of at most 8 KiB, one a frame. -/
def piecesOf (bs : List Byte) : List (List Byte) := (List.range (ceilDiv bs.length 8192)).map fun i => (bs.drop (8192 * i)).take 8192

end Sys2Proof.Machine
end

