-- ==== Sys2Proof/Machine/Logs.lean ====
section
/-! DEFINITION. Relay logs: records and their image in the ring, staging, keys, publications, acquires and replays, full
logs and forced publications (chapter "Memories II"). Every operation acts for the selected context. -/

namespace Sys2Proof.Machine

/-! ## The ring (R249 to R251) -/

/-- One byte into a reflected CRC-32. -/
def crcByte (c : Nat) (b : Byte) : Nat :=
  (List.range 8).foldl (fun c _ => if c % 2 = 1 then c / 2 ^^^ 0xEDB88320 else c / 2) (c ^^^ b.toNat)

/-- CRC-32 with the IEEE 802.3 polynomial. -/
def crc32 (bs : List Byte) : Nat := bs.foldl crcByte 0xFFFFFFFF ^^^ 0xFFFFFFFF

/-- Records of a log: C (R249). -/
def Log.capacity (l : Log) : Nat := l.size / 512 * 5

/-- The address of a log's line that holds record `n`. -/
def Log.lineOf (l : Log) (n : Nat) : Nat := l.base + n / 5 % (l.size / 512) * 512

/-- The 96 bytes of a record (R251). -/
def recBytes (seq source : Nat) (key : Key) : RecBody → List Byte
  | .store sec m d => bytesOf (0x1000000000000000 + sec) 8 ++ bytesOf m.toNat 8 ++ bytesOf seq 8 ++ bytesOf 0 8 ++ bytesOf d.toNat 64
  | .publish scope floor pairs =>
    bytesOf (0x2000000000000000 + pairs.length * 0x100000000000000 + scope * 0x10000000 + floor.source * 0x4000 + source) 8 ++
    bytesOf key.time 8 ++ bytesOf seq 8 ++ bytesOf floor.time 8 ++
    bytesOf (ofBytes (pairs.flatMap fun p => bytesOf (p.1 * 0x1000000000000 + p.2) 8)) 64

/-- A record and its line's trailer written in the ring (R251); the first record of a line leaves its other slots empty. -/
def ringWrite (m : Memory) (l : Log) (lid seq source : Nat) (key : Key) (b : RecBody) (now : Word) : Memory :=
  let line := l.lineOf seq
  let m := if seq % 5 = 0 then m.writeList line (List.replicate 0x1E0 0) else m
  let m := m.writeList (line + seq % 5 * 96) (recBytes seq source key b)
  let m := m.writeN (line + 0x1E0) 8 (seq / 5 * 5)
  let m := m.writeN (line + 0x1E8) 8 (lid + (seq % 5 + 1) * 0x10000)
  let m := m.writeN (line + 0x1F0) 8 (crc32 (m.readList line 0x1E8))
  m.writeN (line + 0x1F8) 8 now.toNat

/-- The line of record `seq` still has the CRC of its trailer (R263). -/
def lineOk (m : Memory) (l : Log) (seq : Nat) : Bool :=
  m.readN (l.lineOf seq + 0x1F0) 4 == crc32 (m.readList (l.lineOf seq) 0x1E8)

/-- The kind of a record as its line holds it (R251). -/
def kindAt (m : Memory) (l : Log) (seq : Nat) : Nat := (m.read (l.lineOf seq + seq % 5 * 96 + 7)).toNat / 16

/-- How far a sequence number lies after another, modulo 2^48 (R249). -/
def seqDist (a b : Nat) : Nat := (b + 2 ^ 48 - a % 2 ^ 48) % 2 ^ 48
/-- A sequence number precedes another. -/
def seqLt (a b : Nat) : Bool := decide (0 < seqDist a b) && decide (seqDist a b < 2 ^ 47)
/-- A sequence number is or precedes another. -/
def seqLe (a b : Nat) : Bool := decide (seqDist a b < 2 ^ 47)
/-- The first sequence number of the next line. -/
def nextLine (n : Nat) : Nat := if 2 ^ 48 ≤ n / 5 * 5 + 5 then 0 else n / 5 * 5 + 5

/-- Room for `n` records: the last line is kept for publication records of BRUL (R271). -/
def Log.room (l : Log) (reserve : Bool) (n : Nat) : Bool :=
  decide (seqDist l.reclaim l.wt + n ≤ l.capacity - (if reserve then 0 else 5))

/-- Room for a publication with `n` open records: they never take the reserve (R271). -/
def Log.roomToPublish (l : Log) (reserve : Bool) (n : Nat) : Bool :=
  (decide (n = 0) || l.room false n) && l.room reserve (n + 1)

/-- A record appended (R252). -/
def State.append (s : State) (key : Option Key) (b : RecBody) : State :=
  let l := s.log s.hart.key
  let m := ringWrite s.mem l s.hart.key l.wt s.hart.source (key.getD 0) b s.now
  let s := { s with mem := m }.cacheWritten (l.lineOf l.wt) 512
  s.modLog s.hart.key fun l =>
    { l with recs := l.recs ++ [{ seq := l.wt, key := key, body := b, applied := key.isSome }], wt := (l.wt + 1) % 2 ^ 48 }

/-- Every open record closed and appended, in the order in which they were opened (R252). -/
def State.closeStaging (s : State) : State :=
  (s.hart.staging.foldl (fun s r => s.append none (.store r.1 r.2.1 r.2.2)) s).modHart fun h => { h with staging := [] }

/-- Bytes of a sector replaced. -/
def putByte (d : BitVec 512) (i : Nat) (b : Byte) : BitVec 512 :=
  (d &&& ~~~(BitVec.ofNat 512 0xFF <<< (8 * i))) ||| (b.setWidth 512 <<< (8 * i))

/-- A byte merged into the open records: a record of its sector takes it, or a new one is opened (R252). -/
def stageByte (st : List (Nat × BitVec 64 × BitVec 512)) (p : Nat) (b : Byte) : List (Nat × BitVec 64 × BitVec 512) :=
  match st with
  | [] => [(sectorOf p, 1#64 <<< (p % 64), putByte 0 (p % 64) b)]
  | r :: rest =>
    if r.1 = sectorOf p then (r.1, r.2.1 ||| 1#64 <<< (p % 64), putByte r.2.2 (p % 64) b) :: rest
    else r :: stageByte rest p b

/-- One byte stored by the selected context: full staging closes its oldest record, which waits at a full log (R252,
R271). -/
def State.storeByte (s : State) (p : Nat) (b : Byte) : Res State :=
  let st := s.hart.staging
  if st.any (fun r => r.1 == sectorOf p) || decide (st.length < 512) then
    .ok (s.modHart fun h => { h with staging := stageByte h.staging p b })
  else match st with
    | [] => .ok s
    | r :: rest =>
      if (s.log s.hart.key).room false 1 then
        .ok ((s.append none (.store r.1 r.2.1 r.2.2)).modHart fun h => { h with staging := stageByte rest p b })
      else .wait s .retry

/-- Bytes stored in order. -/
def State.storeBytes (s : State) : List (Nat × Byte) → Res State
  | [] => .ok s
  | (p, b) :: r => (s.storeByte p b).then fun s' => State.storeBytes s' r

/-! ## Keys and publications (R254 to R258) -/

/-- The publications of a log id, latest first: those of the log and, behind them, those of logs freed with that id. -/
def State.pubsOf (s : State) (l : Nat) : List (Nat × Key × Key × List (Nat × Nat)) := (s.log l).pubs ++ (s.past.look l {}).pubs

/-- The key of a log's last publication below a tail. -/
def State.keyBelow (s : State) (l tail : Nat) : Key :=
  match (s.pubsOf l).find? fun p => seqLe p.1 tail with
  | some p => p.2.1
  | none => 0

/-- The state with what is kept of a log's past changed. -/
def State.modPast (s : State) (l : Nat) (f : Past → Past) : State := { s with past := s.past.put l (f (s.past.look l {})) }

/-- A log id freed once its context has ended and every record of the log is applied at home (R248). Pairs that name it fold
with it (R256), and its publications are kept for the acquires to come. -/
def State.freeLog (s : State) (k : Nat) : State :=
  let l := s.log k
  if l.used && !l.alive && (l.recs.all fun r => r.applied) && decide (l.bankOut = 0) then
    let top (m : Log) : Key :=
      (m.acquired.filter fun p => p.1 == k).foldl (fun f p => f.max (s.keyBelow p.1 p.2)) m.floor
    let s' := s.modPast k fun p =>
      { p with pubs := l.pubs ++ p.pubs
               recs := p.recs ++ l.recs.filterMap fun r => match r.body, r.key with
                 | .store sec _ _, some key => some (r.seq, key, sec)
                 | _, _ => none }
    { s' with logs := (Tbl.drop s'.logs k).map fun e =>
        if e.2.acquired.any fun p => p.1 == k then
          (e.1, { e.2 with floor := top e.2, acquired := e.2.acquired.filter fun p => !(p.1 == k) }) else e }
  else s

/-- Every record of a log below a tail is applied at home. -/
def Log.appliedBelow (l : Log) (tail : Nat) : Bool := l.recs.all fun r => r.applied || seqLe tail r.seq

/-- Pairs folded where they can be (R256). -/
def State.fold (s : State) : State :=
  let l := s.log s.hart.key
  let (out, keep) := l.acquired.partition fun p => (s.log p.1).appliedBelow p.2
  s.modLog s.hart.key fun l =>
    { l with acquired := keep, floor := out.foldl (fun f p => f.max (s.keyBelow p.1 p.2)) l.floor }

/-- The greatest key that the selected context covers (R255, R257). -/
def State.covered (s : State) : Key :=
  let l := s.log s.hart.key
  l.acquired.foldl (fun k p => k.max (s.keyBelow p.1 p.2)) (l.floor.max l.ptKey)

/-- The last key that the selected context's source gave: that of its slot, whichever context held it, or the context's own
(R254). -/
def State.lastKey (s : State) : Key :=
  (s.log s.hart.key).lastKey.max (if s.hart.service then 0 else (s.core s.hart.core).srcKeys.look s.hart.slotNo 0)

/-- The selected context's source can give a key on this tick: the tick is not held, it has given none on it, and its
TIME exceeds that of every covered key (R254, R255, R387). -/
def State.keyReady (s : State) : Bool :=
  !(s.stack s.stk).heldTick && decide (s.lastKey.time < s.now.toNat ∨ s.lastKey = 0) &&
  decide (s.covered.time < s.now.toNat ∨ s.covered = 0)

/-- The key that the selected context's source gives now. -/
def State.nextKey (s : State) : Key := Key.mk s.now.toNat s.hart.source

/-- The key given, and the source marked as having given it. -/
def State.takeKey (s : State) : State :=
  (if s.hart.service then s
   else s.modCore s.hart.core fun c => { c with srcKeys := c.srcKeys.put s.hart.slotNo s.nextKey }).modLog s.hart.key fun l =>
    { l with lastKey := s.nextKey }

/-- The publication key recorded at the launch's home entry (R359). -/
def State.notePublication (s : State) (k : Key) : State :=
  if s.hart.service || s.hart.launch ≥ 256 then s
  else s.modStack s.hart.home fun t =>
    { t with launches := t.launches.map fun e => if e.1 = s.hart.launch then (e.1, { e.2 with pubKey := e.2.pubKey.max k }) else e }

/-- Entries sent to the merge queue of the home stack of each sector. -/
def State.deliver (s : State) (es : List (Nat × MEntry)) : State :=
  es.foldl (fun s e => s.modStack e.1 fun t => { t with inbound := t.inbound ++ [e.2] }) s

/-- Steps 1 to 5 of a publication (R257). A word that waits for room, for folds or for its key has begun, and completes before a
drain ends (R301); a convoy that finds the log full has not (R271). -/
def State.publish (s : State) (scope : Nat) (reserve : Bool) : Res State :=
  if !(s.log s.hart.key).roomToPublish reserve s.hart.staging.length then .wait s (if s.hart.cv.active then .retry else .ordering)
  else
    let s := s.fold
    if 8 < (s.log s.hart.key).acquired.length || !s.keyReady then .wait s .ordering
    else
      let s := s.closeStaging
      let k := s.nextKey
      let l := s.log s.hart.key
      let news := l.recs.filter fun r => r.key == none
      let s := (s.takeKey).append (some k) (.publish scope l.floor l.acquired)
      let s := s.modLog s.hart.key fun m =>
        { m with recs := m.recs.map (fun r => if r.key == none then { r with key := some k } else r),
                 pt := m.wt, ptKey := k, pubs := (m.wt, k, l.floor, l.acquired) :: m.pubs }
      let s := s.deliver (news.filterMap fun r => match r.body with
        | .store sec m d =>
          some (homeOf sec, { key := k, sub := r.seq, body := .record sec m d, origin := .publication s.hart.key r.seq })
        | .publish .. => none)
      .ok ((s.notePublication k).countCore s.hart.core 4)

/-- The home of a record can report that it is applied (R402). -/
def State.heard (s : State) (r : Rec) : Bool :=
  match r.body with
  | .store sec _ _ => s.reaches (homeOf sec) s.stk
  | .publish .. => true

/-- The point at which a publication of key `k` retires at a scope (R258). -/
def State.scopeReached (s : State) (scope : Scope) (k : Key) : Bool :=
  (s.log s.hart.key).recs.all fun r =>
    (r.applied && s.heard r) || !(r.key == some k) || match r.body, scope with
      | .publish .., _ => true
      | .store _ _ _, .hart => true
      | .store sec _ _, .gang => !(homeOf sec == s.stk)
      | .store sec _ _, .stack => !(homeOf sec == s.stk)
      | .store _ _ _, _ => false

/-- A forced publication is due (R270). -/
def State.forcedDue (s : State) : Bool :=
  let l := s.log s.hart.key
  !s.hart.service && decide (7 * l.capacity / 8 ≤ seqDist l.pt l.wt)

/-- A forced publication that is due has to wait for a key or for room (R257, R271); the next instruction waits for it. -/
def State.forcedWaits (s : State) : Bool :=
  s.forcedDue && match s.publish 0 false with
    | .ok _ => false
    | _ => true

/-- A forced publication, when one is due (R270): at hart scope, counted in LOGFPC. -/
def State.forcedPublish (s : State) : State :=
  if !s.forcedDue then s
  else match s.publish 0 false with
    | .ok s' => s'.modLog s'.hart.key fun l => { l with fpc := l.fpc + 1 }
    | _ => s

/-! ## Logs without a ring: service logs and port logs (R248, R275) -/

/-- One publication of a log without a ring under a key: its records are held in the log and delivered. -/
def State.publishRecords (s : State) (l : Nat) (k : Key) (st : List (Nat × BitVec 64 × BitVec 512)) : State :=
  let first := (s.log l).wt
  let recs := st.zipIdx.map fun (x : (Nat × BitVec 64 × BitVec 512) × Nat) =>
    ({ seq := first + x.2, key := some k, body := .store x.1.1 x.1.2.1 x.1.2.2 } : Rec)
  let es := st.zipIdx.map fun (x : (Nat × BitVec 64 × BitVec 512) × Nat) =>
    (homeOf x.1.1,
      ({ key := k, sub := x.2, body := .record x.1.1 x.1.2.1 x.1.2.2, origin := .publication l (first + x.2) } : MEntry))
  (s.modLog l fun m =>
    { m with used := true, recs := m.recs ++ recs, wt := first + st.length, pt := first + st.length, ptKey := k, lastKey := k,
             pubs := (first + st.length, k, m.floor, []) :: m.pubs }).deliver es

/-- Bytes gathered into records, one a sector. -/
def recordsFor (bs : List (Nat × Byte)) : List (Nat × BitVec 64 × BitVec 512) := bs.foldl (fun st b => stageByte st b.1 b.2) []

/-- A source of a stack with this last key can give a key on this tick (R254, R387). -/
def State.keyFree (s : State) (stk : Nat) (last : Key) : Bool :=
  !(s.stack stk).heldTick && decide (last.time < (s.time stk).toNat ∨ last = 0)

/-- A store of the service core: one publication of its service log, with no ring (R275). -/
def State.serviceStore (s : State) (bs : List (Nat × Byte)) : Res State :=
  if !(s.keyFree s.stk (s.log s.hart.key).lastKey) then .wait s .ordering
  else .ok (s.publishRecords s.hart.key s.nextKey (recordsFor bs))

/-- A port or the network receiver of a stack can give a key on this tick. -/
def State.sourceReady (s : State) (stk agent sub : Nat) : Bool :=
  s.keyFree stk ((s.stack stk).srcKeys.look (8 * agent + sub) 0)

/-- The key that a port or the network receiver of a stack gives now (R254). -/
def State.sourceKey (s : State) (stk agent sub : Nat) : Key := Key.mk (s.time stk).toNat (sourceOf stk agent sub)

/-- That key taken. -/
def State.takeSourceKey (s : State) (stk agent sub : Nat) : State :=
  s.modStack stk fun t => { t with srcKeys := t.srcKeys.put (8 * agent + sub) (s.sourceKey stk agent sub) }

/-! ## Acquires (R265, R266) -/

/-- The tails of a set raised to those of a list of pairs. -/
def raiseTails (q : Tbl Nat) (ps : List (Nat × Nat)) : Tbl Nat :=
  ps.foldl (fun q p => if seqLe p.2 (q.look p.1 p.2) then q.put p.1 (q.look p.1 p.2) else q.put p.1 p.2) q

/-- One round over the publication records of the logs of Q below their tails: pairs and floors. -/
def State.closeRound (s : State) (q : Tbl Nat) (f : Key) : Tbl Nat × Key :=
  q.foldl (fun (r : Tbl Nat × Key) e =>
    ((s.pubsOf e.1).filter fun p => seqLe p.1 e.2).foldl
      (fun r p => (raiseTails r.1 p.2.2.2, r.2.max p.2.2.1)) r) (q, f)

/-- The closure of a log set, repeated until it no longer grows; each round that grows it adds a log or raises a tail
to a publication, so as many rounds as there are publications are enough. -/
def State.closeSet (s : State) : Nat → Tbl Nat → Key → Tbl Nat × Key
  | 0, q, f => (q, f)
  | n + 1, q, f =>
    let r := s.closeRound q f
    if r.1 = q then r else State.closeSet s n r.1 r.2

/-- The number of publications recorded. -/
def State.publications (s : State) : Nat :=
  (s.logs.map fun e => e.2.pubs.length).sum + (s.past.map fun e => e.2.pubs.length).sum + 1

/-- Store records of a set below its tails, with their keys and log ids. -/
def State.recordsOf (s : State) (q : Tbl Nat) : List (Key × Nat × Nat × BitVec 64 × BitVec 512) :=
  q.flatMap fun e => (s.log e.1).recs.filterMap fun r =>
    match r.body, r.key with
    | .store sec m d, some k => if seqLt r.seq e.2 then some (k, e.1, sec, m, d) else none
    | _, _ => none

/-- The sectors that a set covers below its tails: of its store records, reclaimed ones too, with the keys and the log ids. -/
def State.sectorsOf (s : State) (q : Tbl Nat) : List (Key × Nat × Nat) :=
  ((s.recordsOf q).map fun r => (r.1, r.2.1, r.2.2.1)) ++ q.flatMap fun e =>
    ((s.past.look e.1 {}).recs.filter fun r => seqLt r.1 e.2).map fun r => (r.2.1, e.1, r.2.2)

/-- The row releases that a set covers (R267). -/
def State.releasesOf (s : State) (q : Tbl Nat) : List Release :=
  q.flatMap fun e => (s.past.look e.1 {}).releases.filter fun r => seqLt r.seq e.2

/-- A sector lies in the rows of a release. -/
def Release.holds (r : Release) (sec : Nat) : Bool :=
  homeOf sec == r.stk && RowLock.covers
    { gang := 0, log := 0, die := 0, a0 := r.a0, an := r.an, row := r.row, rows := r.rows, kl := 0, lease := 0 } (frameOf sec)

/-- A list of keyed records sorted by key; equal keys keep their order. -/
def insertByKey {α : Type} (x : Key × α) : List (Key × α) → List (Key × α)
  | [] => [x]
  | y :: r => if x.1.lt y.1 then x :: y :: r else y :: insertByKey x r

/-- The sector with the selected bytes of a record. -/
def overlay (d : BitVec 512) (m : BitVec 64) (x : BitVec 512) : BitVec 512 :=
  (List.range 64).foldl (fun d i => if m.getLsbD i then putByte d i (x.extractLsb' (8 * i) 8) else d) d

/-- A record with key `k` for a sector is superseded: bank computation wrote its row under a lock that was released with a higher
key, whether the record was set aside or comes later (R268, R274). -/
def Stack.supersedes (t : Stack) (k : Key) (sec : Nat) : Bool := t.released.any fun r => k.lt r.1 && r.2.contains (frameOf sec)

/-- A replay of one sector (R266): the home copy with every record of Q, of the own log and of the logs acquired before above the
applied point (R267) that no row release supersedes (R268), in key order, pinned to the context's slot; none while an older pin
must first be passed, the row is locked or no path leads to its home. An older copy of the sector goes. A sector of a row that the
gang itself locks is read in place, and its records are waited for by the first read after the release (R311). A sector that gives
no good datum is left to the read that meets it (R242). Where no record is above the applied point there is no pin key: the
sector is placed shared, at the settled point (R266; notes/assumptions/122.md); that own-locked rows postpone it is
notes/assumptions/121.md. -/
def State.replay (s : State) (q : Tbl Nat) (sec : Nat) : Option State :=
  let a := (s.stack (homeOf sec)).applied
  let own := s.log s.hart.key
  let q := raiseTails q [(s.hart.key, own.pt)]
  let of (q : Tbl Nat) : List (Key × Nat × Nat × BitVec 64 × BitVec 512) :=
    (s.recordsOf q).filter fun r => r.2.2.1 == sec && Key.lt a r.1 && !((s.stack (homeOf sec)).supersedes r.1 sec)
  let sorted := (of (raiseTails q own.acquired)).foldl (fun l r => insertByKey (r.1, r.2.2.2) l) []
  let low : Key := (of q).foldl (fun k r => Key.min k r.1) (BitVec.allOnes 78)
  let high : Key := sorted.foldl (fun k r => Key.max k r.1) 0
  let slot := s.hart.slotNo
  let old := (s.core s.hart.core).view.find? fun x => x.addr == sec && x.pin == some slot
  if (match old with | some x => Key.lt low x.key && Key.lt a x.key | none => false) then none
  else if s.served sec = .wait ∨ s.served sec = .ownWait ∨ s.served sec = .cut then none
  else
    let cleared (v : List Sector) : List Sector := v.filter fun x => !(x.addr == sec && (x.pin == some slot || x.pin == none))
    let bare := s.modCore s.hart.core fun c => { c with view := cleared c.view }
    if s.served sec = .inPlace ∨ s.served sec = .ownBad then
      some (bare.modLog s.hart.key fun l =>
        { l with owed := if sorted.isEmpty then l.owed else l.owed.put sec ((l.owed.look sec 0).max high) })
    else if s.badSector sec then some bare
    else
      let data := sorted.foldl (fun d r => overlay d r.2.1 r.2.2) (s.homeSector sec)
      let x : Sector :=
        if sorted.isEmpty then { addr := sec, key := s.settled, data := data }
        else { addr := sec, pin := some slot, key := high, data := data }
      let s := (s.cacheRead sec).modCore s.hart.core fun c => { c with view := viewFill (cleared c.view) x }
      some ((s.modLog s.hart.key fun l => { l with replayed := l.replayed.max high, owed := Tbl.drop l.owed sec }).count s.stk 0x110 1)

/-- Replays of a list of sectors, or the sector that has to wait. -/
def State.replayAll (s : State) (q : Tbl Nat) : List Nat → Except Nat State
  | [] => .ok s
  | x :: r => match s.replay q x with
    | some s' => State.replayAll s' q r
    | none => .error x

/-- Pinning the sectors would pin too many in all, or fill every way of a set (R265). -/
def tooManyPins (v : List Sector) (slot : Nat) (new : List Nat) : Bool :=
  let fresh := new.filter fun x => !(v.any fun (y : Sector) => y.addr == x && y.pin == some slot)
  let pinned := v.filter fun y => !(y.pin == none)
  decide (2048 < pinned.length + fresh.length) ||
  (List.range 64).any fun set =>
    let w : List (Nat × Option Nat) := (((pinned.filter fun (y : Sector) => setOf y.addr == set).map fun (y : Sector) => (y.addr / 512, y.pin)) ++
      ((fresh.filter fun x => setOf x == set).map fun x => (x / 512, some slot))).eraseDups
    decide (8 ≤ w.length)

/-- The stack of a log's directory: a context's, a service core's, a port's (R248). -/
def State.logStack (s : State) (k : Nat) : Nat :=
  if k < 65280 then (s.log k).stk else if k < 65472 then k - 65408 else portStack (k - 65472)

/-- Pinned sectors of a core that their homes' applied points have passed dropped, with their shared copies (R266). -/
def State.dropPassed (s : State) (g : Nat) : State :=
  let passed (x : Sector) : Bool := !(x.pin == none) && x.key.le (s.stack (homeOf x.addr)).applied
  s.modCore g fun c => { c with view := c.view.filter fun y =>
    !(passed y) && !(y.pin == none && c.view.any fun x => passed x && x.addr == y.addr) }

/-- The acquire of a log set by the selected context (R265), for tails sampled now. A sector of a locked row is held at its home
(R353), and a directory that no path reaches is waited for (R402). A pinned sector that lacks a write or a row release that the set covers is built again (R267). -/
def State.acquire (s : State) (logs : List Nat) : Res State :=
  let me := s.hart.key
  let s := s.dropPassed s.hart.core
  let q0 := raiseTails [] ((logs.filter fun x => (s.log x).used).map fun x => (x, (s.log x).pt))
  let (q, f) := s.closeSet s.publications q0 (s.log me).floor
  if q.any fun e => !s.connected s.stk (s.logStack e.1) then .wait s .acquiring
  else
  let s0 := s.settled
  let recs := s.sectorsOf q
  let rels := s.releasesOf q
  let top := q.foldl (fun k e => k.max (s.keyBelow e.1 e.2)) 0
  let late := recs.filter fun r => s0.lt r.1 && !(r.2.1 == me)
  let pinned := (s.core s.hart.core).view.filter fun x =>
    x.pin == some s.hart.slotNo && ((rels.any fun r => r.holds x.addr && x.key.lt r.key) ||
      recs.any fun r => r.2.2 == x.addr && !(r.2.1 == me))
  let secs := ((late.map fun r => r.2.2) ++ pinned.map fun x => x.addr).eraseDups
  let finish (s : State) : State :=
    (s.modLog me fun l => { l with acquired := raiseTails l.acquired q, floor := l.floor.max f }).countCore s.hart.core 5
  if tooManyPins (s.core s.hart.core).view s.hart.slotNo secs then
    if s0.lt top then .wait s .acquiring
    else .ok (finish ((s.refreshAll s.hart.core (top.max f)).count s.stk 0x108 1))
  else
    let s1 := s.refreshAll s.hart.core f
    let s1 := (recs.filter fun r => r.1.le s0).foldl
      (fun s r => s.modCore s.hart.core fun c => { c with view := viewRefresh c.view (fun x => x == r.2.2) r.1 }) s1
    let s1 := rels.foldl (fun s r => s.modCore s.hart.core fun c => { c with view := viewRefresh c.view r.holds r.key }) s1
    match s1.replayAll q secs with
    | .ok s2 => .ok (finish s2)
    | .error x => .wait (s.holdLoad x) .acquiring

/-- The logs a log set names (R248, R297). -/
def State.logSet (s : State) (k : LogSet) (a b : Word) : List Nat :=
  match k with
  | .group =>
    let g := (a.extractLsb' 0 10).toNat
    if g = 1020 ∨ g = 1021 then [] else (onesList b).map fun i => 64 * g + i
  | .host => [64 * 1023, 64 * 1023 + 1]
  | .gang => (s.gang s.hart.gangKey).members

end Sys2Proof.Machine
end

