-- ==== Sys2Proof/Machine/Gangs.lean ====
section
/-! DEFINITION. Lane grants (R21, R22, R368), the gang rendezvous (R25, R392) and the end of a gang (R316). -/

namespace Sys2Proof.Machine

/-- The lowest `n` ones of a cluster map. -/
def takeLow (m : BitVec 16) (n : Nat) : BitVec 16 :=
  ((onesList m).take n).foldl (fun r i => r ||| 1#16 <<< i) 0

/-- The free clusters of a core (R368). -/
def CoreS.freeClusters (c : CoreS) : BitVec 16 :=
  (List.range 16).foldl (fun r i => if (c.lat.look i {}).assigned then r else r ||| 1#16 <<< i) 0

/-- The cluster map of a grant of `n` clusters that the map `cur` grows or shrinks to (R22). -/
def growTo (cur free : BitVec 16) (n : Nat) : BitVec 16 :=
  if n ≤ popc cur then takeLow cur n else cur ||| takeLow (free &&& ~~~cur) (n - popc cur)

/-- The cluster count of a single-hart request of `want` clusters (R22). -/
def grantCount (cur free : BitVec 16) (want : Nat) : Nat :=
  if want ≤ popc cur then want else Nat.max (popc cur) (pow2Floor (Nat.min want (popc cur + popc free)))

/-- Clusters assigned to a context in a core's lane allocation table (R368). -/
def latAssign (t : Tbl Lat) (m : BitVec 16) (owner slot : Nat) : Tbl Lat :=
  (onesList m).foldl (fun t i => t.put i { owner := owner, assigned := true, slot := slot }) t

/-- Clusters freed. -/
def latFree (t : Tbl Lat) (m : BitVec 16) : Tbl Lat := (onesList m).foldl (fun t i => Tbl.drop t i) t

/-- The grant of a context changed, with the effects of R22; when it grows, no slice of it has been written since (R41, R368). -/
def State.regrant (s : State) (k : Nat) (g : BitVec 16) : State :=
  match s.ctx k with
  | none => s
  | some h =>
    let old := h.regs.grant
    let grows := g &&& ~~~old != 0
    let s := s.modCore h.core fun c =>
      { c with lat := (latAssign (latFree c.lat (old &&& ~~~g)) (g &&& ~~~old) k h.slotNo).map fun e =>
          if grows && e.2.owner == k && e.2.assigned then (e.1, { e.2 with written := false }) else e }
    s.modCtx k fun h => { h with regs := h.regs.regrant g }

/-- The gang grant (R25): the largest power of two of clusters, not above the smallest request, that every core of the
gang can supply to all of the gang's harts on it. -/
def State.gangGrant (s : State) (ms : List Hart) (least : Nat) : Nat :=
  let fits (n : Nat) : Bool := ms.all fun h =>
    let here := ms.filter fun x => x.core == h.core
    decide (n * here.length ≤ popc (s.core h.core).freeClusters + (here.map fun x => popc x.regs.grant).foldl (· + ·) 0)
  ([16, 8, 4, 2].find? fun n => decide (n ≤ least) && fits n).getD 1

/-- A rendezvous ends for a context that waits in it, or that left it for a trap handler (R206, R392). -/
def Hart.endRendezvous (h : Hart) (at_ : Phase) (n : Nat) : Hart :=
  if h.phase = at_ then { h with phase := .released n, rendezvous := false } else { h with passed := some n, rendezvous := false }

/-- The rendezvous of VSETL.G completed when every hart of the gang that is left has asked (R25, R386); it waits for harts
that are saved (R44). -/
def State.checkGrant (s : State) (g : Nat) : State :=
  let gg := s.gang g
  let away := s.harts.any fun h => gg.wants.any (fun e => e.1 == h.key) && (h.slot == .draining || h.slot == .saving || h.slot == .saved)
  if gg.wants.isEmpty || gg.wants.length + gg.gone < gg.size || away then s
  else
    let ms := (s.harts.filter fun h => gg.wants.any fun e => e.1 == h.key)
    let n := s.gangGrant ms ((gg.wants.map Prod.snd).foldl Nat.min 16)
    let shrunk := ms.foldl (fun s h => if n < popc h.regs.grant then s.regrant h.key (takeLow h.regs.grant n) else s) s
    let s := ms.foldl (fun s h =>
      match s.ctx h.key with
      | some h => s.regrant h.key (growTo h.regs.grant (s.core h.core).freeClusters n)
      | none => s) shrunk
    let s := ms.foldl (fun s h => s.modCtx h.key fun h => h.endRendezvous (.arrived true) n) s
    s.modGang g fun g => { g with wants := [] }

/-- hart.event set in every hart of a gang. -/
def State.signalGang (s : State) (g : Nat) : State :=
  let ms := (s.gang g).members
  s.signal fun h => ms.contains h.key

/-- The rendezvous of BAR completed when arrivals and gone harts equal the gang size (R392). -/
def State.checkBarrier (s : State) (g : Nat) : State :=
  let gg := s.gang g
  if gg.arrivals = 0 ∨ gg.arrivals + gg.gone < gg.size then s
  else
    let s := s.modGang g fun g => { g with epoch := g.epoch + 1, arrivals := 0 }
    let s := s.mapCtx fun h => if h.rendezvous && gg.members.contains h.key then h.endRendezvous (.arrived false) 0 else h
    s.signalGang g

/-- A hart of a gang gone, by EXIT or loss: it counts as arrived everywhere (R386, R209), and is no longer in a rendezvous that it
had arrived at (R391). -/
def State.leaveGang (s : State) (h : Hart) : State :=
  let g := h.gangKey
  let inBar := h.rendezvous && !((s.gang g).wants.any fun e => e.1 == h.key)
  let s := s.modGang g fun x => { x with
    gone := x.gone + 1, arrivals := if inBar then x.arrivals - 1 else x.arrivals, wants := Tbl.drop x.wants h.key }
  let s := if inBar then s.signalGang g else s
  (s.checkBarrier g).checkGrant g

/-- The compute slots of a gang freed (R306). -/
def freeSlots (t : Stack) (g : Nat) : Stack :=
  { t with slots := t.slots.filter fun e => !(e.2 == g + 1) }

/-- The end of a gang's bank state (R316): its locks are released after its bank instructions, torn when a context was
lost; its allocation closes and its slots become free. -/
def State.endGang (s : State) (stk g : Nat) (tear : Bool) (launch : Option (Nat × Nat)) : State :=
  let s := s.modStack stk fun t => freeSlots { t with
    locks := t.locks.map fun e =>
      if e.2.gang = g then (e.1, { e.2 with ending := true, tear := e.2.tear || tear, launchAt := launch }) else e } g
  s.modGang g fun g => { g with an := 0, a0 := 0, grant := 0 }

end Sys2Proof.Machine
end

