-- ==== Sys2Proof/Machine/Lost.lean ====
section
/-! DEFINITION. The loss of a context and the crash reset of a core (R209, R278, R316, R342, R360). -/

namespace Sys2Proof.Machine

/-- Delivered entries of a chunk of a copy. -/
def MEntry.ofChunk (e : MEntry) (serial j : Nat) : Bool := e.origin == .chunk serial j

/-- Some entry of a chunk is still on its way to a merge queue. -/
def State.chunkOnWay (s : State) (serial j : Nat) : Bool :=
  s.stackTab.any fun t => (t.2.inbound.any fun e => e.ofChunk serial j) || (t.2.refused.any fun e => e.2.ofChunk serial j)

/-- Every entry of a chunk withdrawn. -/
def State.dropChunk (s : State) (serial j : Nat) : State :=
  { s with stackTab := s.stackTab.map fun t => (t.1, { t.2 with
      inbound := t.2.inbound.filter fun e => !(e.ofChunk serial j)
      refused := t.2.refused.filter fun e => !(e.2.ofChunk serial j)
      mq := t.2.mq.filter fun e => !(e.ofChunk serial j) }) }

/-- Chunks of a copy that are not wholly delivered discarded (R342); a copy with none left leaves its queue. -/
def State.cutCopy (s : State) (g : Nat) (c : CopyCmd) : State :=
  let rest := c.fly.filter fun x => !x.remote && !(s.chunkOnWay c.serial x.chunk)
  let s := c.fly.foldl (fun s x => if rest.contains x then s else s.dropChunk c.serial x.chunk) s
  s.modCore g fun k =>
    { k with copies := if rest.isEmpty then k.copies.filter fun x => !(x.serial == c.serial)
        else k.copies.map fun x => if x.serial = c.serial then { x with ended := true, fly := rest } else x }

/-- A copy ended by a core reset or a dead context (R342): chunks not wholly delivered are discarded, the status block
takes state 5, an abort event is written, and hart.event is set (R217). -/
def State.abortCopy (s : State) (g : Nat) (c : CopyCmd) : State :=
  let s := (s.cutCopy g c).modLog c.log fun l =>
    let b := l.copies.look c.slot {}
    if b.owner = c.serial ∧ (b.state = 1 ∨ b.state = 2) then
      { l with copies := l.copies.put c.slot { b with state := 5, endTime := s.time c.stk } } else l
  (s.pfb c.stk 0x0D (g % 48) 0 c.log 0 (BitVec.ofNat 64 c.slot) 0).signal fun h => h.key == c.log

/-- Copies of a core that meet a condition aborted; of one that an error has ended already, only the chunks still on their way go. -/
def State.abortCopies (s : State) (g : Nat) (c : CopyCmd → Bool) : State :=
  ((s.core g).copies.filter c).foldl (fun s x => if x.ended then s.cutCopy g x else s.abortCopy g x) s

/-- The unpublished records of a log and its owner's open records discarded (R278); sequence numbers count modulo 2^48 (R249). -/
def State.discard (s : State) (h : Hart) : State :=
  let l := s.log h.key
  let last := (l.wt + h.staging.length) % 2 ^ 48
  let s := s.modLog h.key fun l => { l with recs := l.recs.filter fun r => !(r.key == none), wt := l.pt, alive := false }
  if last = l.pt then s
  else (s.pfb h.stk 0x09 h.coreNo h.slotNo h.key h.loc (BitVec.ofNat 64 l.pt) (BitVec.ofNat 64 ((last + 2 ^ 48 - 1) % 2 ^ 48))).count h.stk 0x38 1

/-- A launch-failure report (R373). -/
def failureReport (h : Hart) (now : Word) (cause : Nat) (epc : Word) : List Byte :=
  bytesOfWords [BitVec.ofNat 64 (2 + h.stk * 256 + h.coreNo * 8192 + h.slotNo * 524288), h.launchId.setWidth 64, now,
    (match h.tile with | some n => BitVec.ofNat 64 n | none => BitVec.allOnes 64), BitVec.ofNat 64 cause, epc,
    BitVec.ofNat 64 h.key, 0]

/-- A context that leaves a launch table entry: live contexts fall, and a failed entry with none left becomes free. -/
def Launch.leave (l : Launch) : Launch :=
  let n := l.ctxs - 1
  if (l.state = .failed ∨ (l.state = .member ∧ l.live = 0 ∧ l.holds = 0)) ∧ n = 0 then {} else { l with ctxs := n }

/-- What is left in the walker units of a failed launch whose entry becomes free; a split of it that is on its way is refused, and
frees what it holds when its reply arrives (R367). -/
def State.sweepLaunch (s : State) (home idx : Nat) : State :=
  { s with stackTab := s.stackTab.map fun t => (t.1, { t.2 with
      walkers := t.2.walkers.filter fun w => !(w.2.home == home && w.2.launch == idx && w.2.state != .held)
      replies := t.2.replies.map fun r => match r.2 with
        | some w => if w.home = home ∧ w.launch = idx then (r.1, none) else r
        | none => r
      frozen := t.2.frozen.filter fun w => !(w.2.home == home && w.2.launch == idx)
      launches := t.2.launches.filter fun l => !(l.2.state == .member && l.2.home == home && l.2.homeIdx == idx) }) }

/-- The launch table entries of a context's launch changed: the one at its home, and the member entry in its stack. An
entry that becomes free leaves the table, and with a home entry what is left of the launch in the walker units. -/
def State.modLaunch (s : State) (h : Hart) (home memb : Launch → Launch) : State :=
  let was := (s.stack h.home).launches.look h.launch {}
  let s := s.modStack h.home fun t => { t with
    launches := (t.launches.map fun e => if e.1 = h.launch then (e.1, home e.2) else e).filter fun e => !(e.2.state == .free) }
  let s := if h.home = h.stk then s
    else s.modStack h.stk fun t => { t with
      launches := (t.launches.map fun e =>
        if e.2.state = .member ∧ e.2.home = h.home ∧ e.2.homeIdx = h.launch then (e.1, memb e.2) else e).filter
          fun e => !(e.2.state == .free) }
  if was.state ≠ .free ∧ (home was).state = .free then s.sweepLaunch h.home h.launch else s

/-- A context taken off its walker instance. -/
def State.unbind (s : State) (h : Hart) (held : Bool) : State :=
  s.modStack h.instStack fun t => { t with
    walkers := t.walkers.map fun e =>
      if e.2.state ≠ .held ∧ e.2.home = h.home ∧ e.2.launch = h.launch ∧ e.2.serial = h.serial then
        (e.1, { e.2 with bound := e.2.bound.filter fun k => !(k == h.key)
                         out := if held && h.tile.isSome then e.2.out - 1 else e.2.out })
      else e
    frozen := t.frozen.map fun e =>
      if e.2.home = h.home ∧ e.2.launch = h.launch ∧ e.2.serial = h.serial then
        (e.1, { e.2 with bound := e.2.bound.filter fun k => !(k == h.key) }) else e }

/-- Every context bound to an instance is saved, and there is one. -/
def State.allSaved (s : State) (x : Walker) : Bool :=
  !x.bound.isEmpty && x.bound.all fun k => match s.ctx k with | some y => y.slot == .saved | none => false

/-- The 32 bytes of an instance in the walker save area: launch, launch id, serial and state, then next, end, and outstanding with
the number of bound contexts. -/
def Walker.image (x : Walker) : List Byte :=
  bytesOfWords [
    BitVec.ofNat 64 (x.launch % 256 + 256 * (x.home % 32) + 2 ^ 16 * x.launchId.toNat + 2 ^ 32 * x.serial.toNat +
      2 ^ 48 * (if x.state = .spent then 2 else 1)),
    BitVec.ofNat 64 x.next, BitVec.ofNat 64 x.stop, BitVec.ofNat 64 (x.out % 2 ^ 32 + 2 ^ 32 * x.bound.length)]

/-- The lowest place of the walker save area that holds no instance. -/
def Stack.frozenPlace (t : Stack) : Nat :=
  ((List.range t.frozen.length).find? fun i => !(t.frozen.any fun e => e.1 == i)).getD t.frozen.length

/-- An instance written in the walker save area, once firmware has set it aside, and kept for its restoring. -/
def State.writeFrozen (s : State) (stk : Nat) (x : Walker) : State :=
  let n := (s.stack stk).frozenPlace
  let s := match (s.stack stk).saveBase with
    | some b => s.putHome (b.toNat + 32 * n) x.image
    | none => s
  s.modStack stk fun t => { t with frozen := t.frozen.put n x }

/-- The instances of a stack whose bound contexts are all saved are frozen (R365). -/
def State.freezeSaved (s : State) (stk : Nat) : State :=
  ((s.stack stk).walkers.filter fun e => (e.2.state == .active || e.2.state == .spent) && s.allSaved e.2).foldl
    (fun s e => (s.writeFrozen stk e.2).modStack stk fun t => { t with walkers := Tbl.drop t.walkers e.1 }) s

/-- The clusters of a context freed, held or not, with their slices (R386). -/
def State.freeLanes (s : State) (h : Hart) : State :=
  let s := s.modCore (if h.slot = .saved then h.heldCore else h.core) fun c =>
    { c with lat := c.lat.filter fun e => !(e.2.owner == h.key && e.2.assigned) }
  s.modCtx h.key fun h => { h with held := 0, regs := { h.regs with scratch := [] } }

/-- A context removed from its slot. -/
def State.dropCtx (s : State) (k : Nat) : State :=
  if s.hart.key = k then s.modHart fun h => { h with slot := .ended, phase := .run, cv := {}, staging := [] }
  else { s with others := Tbl.drop s.others k }

/-- The loss of a context (R209 step 4), with the cause and address that its launch failure report carries. -/
def State.lose (s : State) (k cause : Nat) (epc : Word) : State :=
  match s.ctx k with
  | none => s
  | some h =>
    let s := s.discard h
    let s := (s.cores.map Prod.fst).foldl (fun s g => s.abortCopies g fun c => c.log == k) s
    let s := s.freeLanes h
    let s := s.unbind h false
    let fail (l : Launch) : Launch := if l.state = .running ∨ l.state = .draining then { l with state := .failed } else l
    let s := s.modLaunch h (fun l => (fail l).leave) Launch.leave
    let s := if h.launch < 256 then
        s.modStack h.stk fun t => { t with reports := t.reports ++ [failureReport h (s.time h.stk) cause epc] } else s
    let s := s.endGang h.stk h.gangKey true none
    let s := s.dropCtx k
    let s := if h.inGang then s.leaveGang h else s
    (s.freezeSaved h.instStack).freeLog k

/-- A pre-emption requested of a context, or of its gang as a unit (R38, R44). -/
def State.askPreempt (s : State) (h : Nat) (replace : Bool) : State :=
  match s.ctx h with
  | none => s
  | some x =>
    s.mapCtx fun y =>
      if !y.service && y.resident && (y.key == h || (x.inGang && y.inGang && y.gangKey == x.gangKey)) then
        { y with preempt := true, replace := y.replace || replace }
      else y

/-- The start of a core reset (R209 step 3): contexts not saved are lost, the copy queue ends, CAPMASK takes the
firmware value, and the tables of the core are emptied. -/
def State.startCoreReset (s : State) (g cause : Nat) (epc : Word) : State :=
  let left := s.harts.filter fun h => !h.service && h.core == g && h.resident
  let s := left.foldl (fun s h => s.lose h.key cause epc) s
  let s := s.abortCopies g fun _ => true
  s.modCore g fun c => { c with
    capmask := c.fwCapmask, chkmisc := 0, lat := [], tlb := [], view := [], resetWait := none,
    resetEnd := some ((s.time (g / 48)).toNat + 2048), testRun := none }

/-- A trap taken at level 2 (R209): the crash event, the loss of the context, the pre-emption of the core's other
contexts, each with its gang, within 4,096 ticks of the first crash, and the core reset. A service core's stops it and freezes
the buffers (R397). -/
def State.crash (s : State) (cause : Nat) (epc : Word) : State :=
  let h := s.hart
  let s := s.pfbHart h 0x06
    (BitVec.ofNat 64 (h.trap1.cause.toNat + h.trap2.cause.toNat * 256 + cause * 65536)) epc
  if h.service then
    (s.freeze h.stk 3 0 true).modHart fun h => { h with slot := .sleeping, phase := .halted }
  else
    let s := s.lose h.key cause epc
    let rest := s.harts.filter fun x => !x.service && x.core == h.core && x.resident
    if (s.core h.core).resetWait.isSome && !rest.isEmpty then s
    else if rest.isEmpty then s.startCoreReset h.core cause epc
    else
      let s := rest.foldl (fun s x => s.askPreempt x.key false) s
      s.modCore h.core fun c =>
        { c with resetWait := some ((s.time h.stk).toNat + 4096), resetCause := cause, resetEpc := epc }

end Sys2Proof.Machine
end

