-- ==== Sys2Proof/Machine/Ops.lean ====
section
/-! DEFINITION. The named operations every meaning is built from: what an instruction needs before it runs (R94 to R99),
scalar results under the stack limit (R104), taking a trap and returning from one (R203 to R210), and the frames in
which scalar words and members run. -/

namespace Sys2Proof

/-- The v-registers of operand b. -/
def VB.regs : VB → List VReg
  | .v r => [r]
  | .s _ => []

namespace Machine

/-! ## What the checks need to know of an instruction -/

/-- Class bit (R95), privilege (R202), legality by mode (R94) and on the service core (R91), the v-registers named
(R77) and the number of vector and predicate registers written (R27). -/
structure Info where
  cls : Nat := 32
  priv : Bool := false
  service : Bool := true
  vector : Bool := true
  matrix : Bool := true
  vregs : List VReg := []
  writes : Nat := 0
  alone : Bool := false
  deriving DecidableEq, Repr

/-- A VA member: class, registers named, registers written. -/
def Info.va (cls : Nat) (vs : List VReg) (w : Nat) : Info := { cls := cls, vregs := vs, writes := w }
/-- A VA member that matrix mode has not (R94). -/
def Info.vaV (cls : Nat) (vs : List VReg) (w : Nat) : Info := { cls := cls, vregs := vs, writes := w, matrix := false }
/-- An MX member. -/
def Info.mx (cls : Nat) (vs : List VReg) (w : Nat) : Info := { cls := cls, vregs := vs, writes := w, vector := false }
/-- The eight registers of a B operand (R189). -/
def eight (b : VReg) : List VReg := (List.range 8).map fun i => b + BitVec.ofNat 6 i

/-- The checks' table of the members (R92, R94, R95). -/
def Instr.memberInfo : Instr → Info
  | .vadd _ d a b _ _ => .va 35 (d :: a :: b.regs) 1 | .vsub _ d a b _ _ => .va 35 (d :: a :: b.regs) 1
  | .vmul _ d a b _ _ => .va 36 (d :: a :: b.regs) 1 | .vmulh _ d a b => .va 36 (d :: a :: b.regs) 1
  | .vfma _ d a b c _ _ => .va 36 [d, a, b, c] 1 | .vfms _ d a b c _ _ => .va 36 [d, a, b, c] 1
  | .vnfma _ d a b c _ _ => .va 36 [d, a, b, c] 1
  | .vdiv _ d a b _ _ => .vaV 37 (d :: a :: b.regs) 1
  | .vsqrt _ d a _ => .vaV 37 [d, a] 1 | .vrcp _ d a _ => .vaV 37 [d, a] 1 | .vrsq _ d a _ => .vaV 37 [d, a] 1
  | .vexp2 _ d a _ => .vaV 38 [d, a] 1 | .vlog2 _ d a _ => .vaV 38 [d, a] 1 | .vtanh _ d a _ => .vaV 38 [d, a] 1
  | .vmin _ d a b => .va 35 (d :: a :: b.regs) 1 | .vmax _ d a b => .va 35 (d :: a :: b.regs) 1
  | .vabs _ d a _ => .va 35 [d, a] 1 | .vneg _ d a _ => .va 35 [d, a] 1
  | .vand _ d a b => .va 35 (d :: a :: b.regs) 1 | .vor _ d a b => .va 35 (d :: a :: b.regs) 1
  | .vxor _ d a b => .va 35 (d :: a :: b.regs) 1 | .vnot _ d a => .va 35 [d, a] 1
  | .vshl _ d a b _ => .va 35 (d :: a :: b.regs) 1 | .vshr _ d a b => .va 35 (d :: a :: b.regs) 1
  | .vrot _ d a b _ => .va 35 (d :: a :: b.regs) 1
  | .vclz _ d a => .va 39 [d, a] 1 | .vpopc _ d a => .va 39 [d, a] 1 | .vclmul _ d a b _ => .va 39 (d :: a :: b.regs) 1
  | .vcmp _ _ a b _ => .va 35 (a :: b.regs) 1 | .vsel _ d a b _ => .va 35 [d, a, b] 1
  | .vcvt _ d a _ _ _ => .va 40 [d, a] 1 | .vscale _ d a b _ => .va 40 (d :: a :: b.regs) 1
  | .vqnt _ d a _ _ => .va 40 [d, a] 1
  | .vmov _ d a => .va 35 [d, a] 1 | .vsplat _ d _ _ => .va 35 [d] 1 | .viota _ d _ _ _ => .va 35 [d] 1
  | .vtag d _ => .va 35 [d] 1 | .vtagq _ a => .va 35 [a] 0
  | .psetc .. => .va 35 [] 1 | .pand .. => .va 35 [] 1 | .por .. => .va 35 [] 1 | .pxor .. => .va 35 [] 1
  | .pnot .. => .va 35 [] 1 | .pandn .. => .va 35 [] 1
  | .ppack d _ _ => .va 35 [d] 1 | .punpack _ a _ => .va 35 [a] 8 | .pmovs .. => .va 35 [] 0
  | .vperm _ d a b _ => .va 41 [d, a, b] 1 | .vput _ d a b p => .vaV 41 [d, a, b] (if p = 0 then 1 else 2)
  | .vslu _ d a _ _ => .va 41 [d, a] 1 | .vsld _ d a _ _ => .va 41 [d, a] 1
  | .vcomp _ d a _ => .vaV 41 [d, a] 1 | .vexpd _ d a => .vaV 41 [d, a] 1
  | .vred _ _ o _ _ d a b _ => .vaV 42 (if o then [d, a, b] else [d, a]) 1
  | .vscan _ _ _ _ _ d a => .vaV 42 [d, a] 1 | .vconf _ _ a _ => .vaV 42 [a] 1
  | .vzip _ d a b _ _ => .va 41 [d, a, b] 1 | .vunzip _ d a b _ _ => .va 41 [d, a, b] 1
  | .vbcast _ d a _ _ => .va 41 [d, a] 1
  | .vexts _ _ a _ _ => .va 41 [a] 0 | .vinss _ d _ _ => .va 41 [d] 1
  | .plead .. => .vaV 42 [] 0 | .pnum .. => .vaV 42 [] 0
  | .vld _ d .. => .va 43 [d] 1 | .vlds _ d .. => .va 43 [d] 1 | .vldx _ d _ _ i _ _ => .vaV 44 [d, i] 1
  | .vst _ a .. => .va 43 [a] 0 | .vsts _ a .. => .va 43 [a] 0 | .vstx _ a _ _ i => .vaV 44 [a, i] 0
  | .vlsx _ d _ _ i => .va 45 [d, i] 1 | .vssx _ a _ _ i => .va 45 [a, i] 0
  | .vldh _ d _ _ i _ => .vaV 46 [d, i] 1 | .vpf .. => .va 43 [] 0 | .vamo _ _ _ a _ _ i => .vaV 46 [a, i] 0
  | .tshape .. => .mx 47 [] 0 | .mma _ _ a b => .mx 47 (a :: eight b) 0 | .mmas _ _ a b => .mx 48 (a :: eight b) 0
  | .mxzero _ => .mx 47 [] 0 | .mxext _ d .. => .mx 47 [d] 1 | .mxins _ _ a _ => .mx 47 [a] 0 | .mxpert _ => .mx 49 [] 0
  | .bsetl .. => .vaV 50 [] 0 | .balloc .. => .vaV 50 [] 0 | .bplane .. => .vaV 50 [] 0 | .brlk .. => .vaV 50 [] 0
  | .brul .. => .vaV 50 [] 0
  | .bldp .. => .vaV 51 [] 0 | .bstp .. => .vaV 51 [] 0 | .btov d .. => .vaV 51 [d.setWidth 6] 1 | .vtob _ a .. => .vaV 51 [a.setWidth 6] 0
  | .bnot .. => .vaV 52 [] 0 | .band .. => .vaV 52 [] 0 | .bor .. => .vaV 52 [] 0 | .bxor .. => .vaV 52 [] 0
  | .bmaj .. => .vaV 52 [] 0 | .badd .. => .vaV 53 [] 0 | .bsub .. => .vaV 53 [] 0
  | .bmulc .. => .vaV 54 [] 0 | .bmac .. => .vaV 54 [] 0 | .bmact .. => .vaV 54 [] 0 | .bcmp .. => .vaV 53 [] 0
  | .bsel .. => .vaV 52 [] 0 | .bshl .. => .vaV 52 [] 0 | .bshr .. => .vaV 52 [] 0
  | .bred .. => .vaV 51 [] 0 | .bseal .. => .vaV 50 [] 0 | .bnext .. => .vaV 50 [] 0
  | .bwait _ => { cls := 50, matrix := false, alone := true }
  | .cpy _ _ _ _ _ p => .vaV 55 [] (if p = 0 then 0 else 1) | .cpy2d _ _ _ _ _ _ _ p => .vaV 55 [] (if p = 0 then 0 else 1)
  | .cpyd _ _ _ _ _ _ p => .vaV 56 [] (if p = 0 then 0 else 1) | .cpye _ _ _ _ _ _ p => .vaV 55 [] (if p = 0 then 0 else 1)
  | .ckey .. => { cls := 56, priv := true, matrix := false }
  | .cwait .. => { cls := 55, matrix := false, alone := true } | .cstat .. => .vaV 55 [] 0
  | _ => {}

/-- A privileged control register (R203, R211). -/
def csrPriv (n : BitVec 15) : Bool :=
  (decide (0x100 ≤ n.toNat) && decide (n.toNat ≤ 0x104)) || (decide (0x108 ≤ n.toNat) && decide (n.toNat ≤ 0x10C)) || n == 0x202

/-- The checks' table of the scalar words that are not plain words of class base (R91, R94, R95, R202). -/
def Instr.wordInfo : Instr → Info
  | .mul .. => { cls := 33 } | .mulh .. => { cls := 33 } | .mulhu .. => { cls := 33 } | .div .. => { cls := 33 }
  | .divu .. => { cls := 33 } | .rem .. => { cls := 33 } | .remu .. => { cls := 33 }
  | .ldh .. => { cls := 46 } | .amo .. => { cls := 46 } | .amoCas .. => { cls := 46 }
  | .vbany .. => { service := false } | .vbnone .. => { service := false } | .vbrf .. => { service := false }
  | .frgpop => { service := false }
  | .fadd .. => { cls := 34 } | .fsub .. => { cls := 34 } | .fmul .. => { cls := 34 } | .fdiv .. => { cls := 34 }
  | .fsqrt .. => { cls := 34 } | .fmin .. => { cls := 34 } | .fmax .. => { cls := 34 } | .fcmp .. => { cls := 34 }
  | .fcvt .. => { cls := 34 } | .ffma .. => { cls := 34 }
  | .pub _ => { service := false } | .acq .. => { service := false } | .pubacq .. => { service := false }
  | .bar => { service := false } | .fence => { service := false }
  | .wnext _ => { service := false } | .wsplit _ => { service := false } | .wdone => { service := false }
  | .ctwait .. => { service := false } | .ctinc .. => { service := false } | .npbegin => { service := false }
  | .npend => { service := false } | .yield => { service := false } | .exit => { service := false }
  | .tret => { priv := true } | .halt => { priv := true } | .ptinv _ => { priv := true }
  | .capfence .. => { priv := true } | .captest .. => { priv := true }
  | .vsetl .. => { service := false, matrix := false } | .vsetlG .. => { service := false, matrix := false }
  | .csrr _ n => { priv := csrPriv n } | .csrw _ n _ => { priv := csrPriv n } | .csrs _ n _ => { priv := csrPriv n }
  | .csrc _ n _ => { priv := csrPriv n }
  | .mxon => { service := false, cls := 47, matrix := false } | .mxoff => { service := false, cls := 47, vector := false }
  | _ => {}

/-! ## Traps (R203 to R210) -/

/-- The handler address of a level (R203, R207, R454). -/
def handlerOf (h : Hart) (tvec : Word) (n : Nat) : Word :=
  if h.service then BitVec.ofNat 64 (Config.window + (tvec.toNat / 512 % 32768) * 512 + 0x100 * (n - 1))
  else BitVec.ofNat 64 (tvec.toNat / 512 % 2 ^ 39 * 512 + 0x100 * (n - 1))

/-- TSTAT at trap entry (R203). -/
def trapStat (h : Hart) : BitVec 5 :=
  BitVec.ofNat 5 ((if h.npSince.isSome then 4 else 0) + (if h.slot = .sleeping then 2 else 0) + (if h.regs.mode then 1 else 0))

/-- The context with the convoy in progress unwound (R30). -/
def Hart.unwind (h : Hart) : Hart :=
  { h with regs := if h.cv.active then h.saved else h.regs, cv := {} }

/-- Trap entry into a level below the third (R207). -/
def Hart.enter (h : Hart) (tvec : Word) (cause : BitVec 7) (val epc : Word) : Hart :=
  let bank : TrapBank := { epc := epc, cause := cause, val := val, stat := trapStat h,
                           scr := if h.tlevel = 0 then h.trap1.scr else h.trap2.scr }
  { h with
    trap1 := if h.tlevel = 0 then bank else h.trap1
    trap2 := if h.tlevel = 0 then h.trap2 else bank
    tlevel := h.tlevel + 1
    pc := handlerOf h tvec (h.tlevel + 1)
    phase := .run, slot := .ready, att := {}, results := [], awaiting := 0 }

/-- TCAUSE's seven bits: the asynchronous codes carry bit 6 (R203). -/
def causeBits (c : Nat) : BitVec 7 := BitVec.ofNat 7 (if 0x30 ≤ c then c + 64 else c)

/-- A trap taken by the selected context with cause, value and return address (R207): the convoy unwinds, and the hart
enters the next level, or at level 2 its core resets (R209). An uncorrectable register enters the photo-finish buffer
(R123), and an uncorrectable memory error is counted where the sector is homed (R393). -/
def State.takeTrap (s : State) (c : Nat) (v epc : Word) : State :=
  let s := if s.hart.cv.active then s.countCore s.hart.core 7 else s
  let s := (s.modHart Hart.unwind).countCore s.hart.core 6
  let s := if c = 0x1A then s.pfbHart s.hart 0x05 (v &&& 0x7F) 0 else s
  let s := if c = 0x0E then s.count (v.toNat / Config.stackSlot) 0x08 1 else s
  if s.hart.tlevel < 2 then s.modHart fun h => h.enter (s.core h.core).tvec (causeBits c) v epc
  else s.crash (causeBits c).toNat epc

/-- TRET (R210): the level falls and control returns to TEPCn; none when the mode differs from TSTATn.MODE. -/
def Hart.tret (h : Hart) : Option Hart :=
  let b := if h.tlevel = 1 then h.trap1 else h.trap2
  if h.regs.mode ≠ b.stat.getLsbD 0 then none
  else some { h with tlevel := h.tlevel - 1, pc := b.epc, phase := .run, slot := .ready, att := {} }

/-- TRET from level 1 asks for re-placement (R210). -/
def Hart.asksReplace (h : Hart) : Bool := decide (h.tlevel = 1) && h.trap1.stat.getLsbD 4

/-! ## Waiting and going on -/

/-- The instruction at the program counter has issued and passed its checks, and waits: it is not fetched again, and its
capabilities are not checked again (R100, R208). One that waits at a full log has given up what it did (R271). -/
def Hart.underWay (h : Hart) : Bool :=
  match h.phase with
  | .run | .readError _ => false
  | .retry | .deferredRead _ => h.att.issued
  | _ => true

/-- Sleeping phases (R20). -/
def Phase.sleeps : Phase → Bool
  | .arrived _ | .event _ | .counter | .bankWait | .copyWait | .testing _ _ | .testWait | .halted => true
  | _ => false

/-- The selected context waits at its instruction; a read of a locked row waits at its home (R353). -/
def State.park (s : State) (p : Phase) : State :=
  (match p with | .deferredRead sec => s.holdLoad sec | _ => s).modHart fun h =>
    { h.unwind with phase := p, slot := if p.sleeps then .sleeping else .waiting,
                    rendezvous := match p with | .arrived _ => true | _ => h.rendezvous
                    att := { h.att with issued := h.att.issued && !decide (p = Phase.retry) } }

/-- The selected context goes on at an address. -/
def State.goto (s : State) (pc : Word) : State :=
  s.modHart fun h => { h with pc := pc, phase := .run, slot := .ready, att := {}, results := [], awaiting := 0 }

/-- The selected context goes on at the next word. -/
def State.next (s : State) : State := s.goto (s.hart.pc + 4)

/-- The results that the convoy asked for have returned, and its members run again with them (R208). -/
def Hart.answered (h : Hart) : Bool :=
  match h.phase with
  | .returned _ _ => true
  | _ => false

/-- An effect whose result a member of the convoy waits for (VLDH, BTOV, BRED). -/
def Effect.waits : Effect → Bool
  | .home _ _ _ w => w
  | .bank _ w => w
  | _ => false

/-- A member of the convoy waits for a result that has not been asked for yet. -/
def Hart.asks (h : Hart) : Bool := !h.answered && h.cv.effects.any Effect.waits

/-! ## Scalar results -/

/-- The stack-limit check fails for a write of `x` (R104). -/
def State.belowLimit (s : State) (sd : SReg) (x : Word) : Bool :=
  sd == 2 && decide (x.toNat < s.hart.regs.splim.toNat)

/-- A scalar result written by a word, checked before anything is written (R104). -/
def State.setS (s : State) (sd : SReg) (x : Word) : Res State :=
  if s.belowLimit sd x then .trap 0x1B x else .ok (s.ws sd x).next

/-- A scalar result under the late check (R104): only the write of s2 is not made. -/
def State.setLate (s : State) (sd : SReg) (x : Word) : Res State :=
  if s.belowLimit sd x then .late s.next x else .ok (s.ws sd x).next

/-! ## The frame of a scalar word (R98) -/

/-- The first failing check of R98 before the word's own execution, `legal` telling what else makes the word legal. -/
def guardWord (s : State) (i : Instr) (legal : Bool) : Option (Nat × Word) :=
  let f := Instr.wordInfo i
  let h := s.hart
  let w := wordOf i
  if !legal || (h.service && !f.service) then some (0x10, w)
  else if f.priv && decide (h.tlevel = 0) && !h.service then some (0x11, w)
  else if !(if h.regs.mode then f.matrix else f.vector) then some (0x12, w)
  else if h.service then none
  else if !h.usemask.getLsbD f.cls then some (0x13, BitVec.ofNat 64 f.cls)
  else if !h.underWay && !(s.core h.core).capmask.getLsbD f.cls then some (0x14, BitVec.ofNat 64 f.cls)
  else none

/-- The outcome of a word's own execution. -/
def settleWord (s : State) (r : Res State) : State :=
  match r with
  | .ok s' => s'
  | .trap c v => s.takeTrap c v s.hart.pc
  | .fault s' c v => s'.takeTrap c v s.hart.pc
  | .late s' x => s'.takeTrap 0x1B x s'.hart.pc
  | .wait s' p => s'.park p

/-- A scalar word of the selected context: its checks, then its own execution. -/
def word (s : State) (i : Instr) (body : State → Res State) (legal : Bool := true) :
    Host.Outcome State Fault Refusal :=
  match guardWord s i legal with
  | some (c, v) => .next (s.takeTrap c v s.hart.pc)
  | none => .next (settleWord s (body s))

/-! ## The frame of a member (R99) -/

/-- The address of the member executing now. -/
def Hart.memberAddr (h : Hart) (k : Nat) : Word := h.pc + BitVec.ofNat 64 (4 + 8 * k)

/-- TVAL bits [25:24] of a member index. -/
def idxBits (k : Nat) : Nat := k * 0x1000000

/-- TVAL of a class or format trap of a member (R97). -/
def classVal (k bit : Nat) : Word := BitVec.ofNat 64 (0x100000000 + idxBits k + bit)


/-- The checks of stage 1, step 5, on member `k` (R99): register cap, privilege, mode, class. -/
def stage1 (s : State) (k : Nat) (i : Instr) : Option (Nat × Word) :=
  let f := Instr.memberInfo i
  let h := s.hart
  if f.vregs.any fun r => decide (h.cap ≤ r.toNat) then some (0x10, h.memberAddr k)
  else if f.priv && decide (h.tlevel = 0) then some (0x11, h.memberAddr k)
  else if !(if h.regs.mode then f.matrix else f.vector) then some (0x12, h.memberAddr k)
  else if !h.usemask.getLsbD f.cls then some (0x13, classVal k f.cls)
  else if !h.underWay && !(s.core h.core).capmask.getLsbD f.cls then some (0x14, classVal k f.cls)
  else none

/-- The state after the member executing now. -/
def State.memberDone (s : State) : State :=
  s.modHart fun h => if h.cv.active then { h with cv := { h.cv with idx := h.cv.idx + 1 } } else h

/-- The outcome of a member's stage 2 and execution. -/
def settleMember (s : State) (r : Res State) : State :=
  match r with
  | .ok s' => s'.memberDone
  | .trap c v => s.takeTrap c v s.hart.pc
  | .fault s' c v => s'.takeTrap c v s.hart.pc
  | .late s' _ => s'.memberDone
  | .wait s' p => s'.park (match s.hart.phase with | .returned k xs => .returned k xs | _ => p)

/-- A member of the selected context's convoy. -/
def member (s : State) (i : Instr) (body : State → Res State) : Host.Outcome State Fault Refusal :=
  match stage1 s s.hart.cv.idx i with
  | some (c, v) => .next (s.takeTrap c v s.hart.pc)
  | none => .next (settleMember s (body s))

/-- The registers a member's sources are read from (R28). -/
def State.src (s : State) : Regs :=
  let h := s.hart
  if !h.cv.active || decide (h.cv.idx = 0) || h.cv.chain.getLsbD (h.cv.idx - 1) then h.regs else h.saved

/-- An effect of a member, held until its convoy retires (R208). -/
def State.effect (s : State) (e : Effect) : State :=
  s.modHart fun h => { h with cv := { h.cv with effects := e :: h.cv.effects } }

/-- Flags raised into the convoy's pending flags (R58). -/
def State.raise (s : State) (f : BitVec 6) : State :=
  s.modHart fun h => { h with cv := { h.cv with flags := h.cv.flags ||| f } }

/-- A scalar result of a member, written when the convoy retires; the stack-limit check comes last (R104). -/
def State.memberS (s : State) (sd : SReg) (x : Word) : Res State :=
  if s.belowLimit sd x then .trap 0x1B x else .ok (s.effect (.scalar sd x false))

/-- A scalar result of a member under the late check. -/
def State.memberLate (s : State) (sd : SReg) (x : Word) : State := s.effect (.scalar sd x true)

/-- A step or input of a unit, when the unit exists. -/
def ifUnit (c : Bool) (s : State) : Host.Outcome State Fault Refusal := if c then .next s else .fault .noSuchUnit

end Machine

end Sys2Proof
end

