-- ==== Sys2Proof/Machine/ControlSpace.lean ====
section
/-! DEFINITION. The stack control space of a service core (R214) and the items it reaches: handler bases, capability masks,
halted harts, domain roots, sprint reservations, the photo-finish buffer, the key-wrapping key, residency, the walker save
area and log pool, host channels, the counter block and the remote table. -/

namespace Sys2Proof.Machine

/-! ## Capability masks -/

/-- A fence event (R395). -/
def State.fenceEvent (s : State) (stk agent slot lg hart src core : Nat) (bits : Word) : State :=
  s.pfb stk 0x03 agent slot lg hart (BitVec.ofNat 64 (src + 256 * core)) bits

/-- CAPMASK of core `g` with bits cleared, counted in FENCECNT (R393). -/
def State.clearCaps (s : State) (g : Nat) (bits : Word) : State :=
  (s.modCore g fun c => { c with capmask := c.capmask &&& ~~~bits }).count (coreStack g) 0x18 (popc ((s.core g).capmask &&& bits))

/-- A service core's write of CAPMASK of core `g`: only clearing, but in step 5 of a bring-up after a cold reset any value (R214, R444, R445). -/
def State.writeCapmask (s : State) (stk g : Nat) (v : Word) : State :=
  let old := (s.core g).capmask
  let new := if s.bringUp = 4 ∧ !s.warm then v &&& Config.allCaps else old &&& v
  let gone := old &&& ~~~new
  let s := (s.modCore g fun c => { c with capmask := new }).count stk 0x18 (popc gone)
  if gone = 0 then s else s.fenceEvent stk 63 0 0 (4608 + stk) 4 (g % 48) gone

/-- A service core's write of the firmware value of CAPMASK. -/
def State.writeFwCapmask (s : State) (stk g : Nat) (v : Word) : State :=
  let old := (s.core g).fwCapmask
  let new := if s.bringUp = 4 ∧ !s.warm then v &&& Config.allCaps else old &&& v
  let gone := old &&& ~~~new
  let s := s.modCore g fun c => { c with fwCapmask := new }
  if gone = 0 then s else s.fenceEvent stk 63 0 0 (4608 + stk) 5 (g % 48) gone

/-- Halted harts of core `g` released (R218). -/
def State.releaseHalts (s : State) (g : Nat) (v : Word) : State :=
  s.mapCtx fun h =>
    if !h.service && h.core == g && h.resident && v.getLsbD h.slotNo && h.phase == .halted then { h with phase := .released 0 } else h

/-- PTINV of every core of a stack: all ones for every entry (R214, R219). -/
def State.stackInvalidate (s : State) (stk : Nat) (v : Word) : State :=
  { s with cores := s.cores.map fun e =>
      if e.1 / 48 = stk then (e.1, { e.2 with tlb := ptinvTlb e.2.tlb (if v = BitVec.allOnes 64 then none else some v) }) else e }

/-! ## The other items -/

/-- Offsets of the stack counter block (R393). -/
def counterOffset (o : Nat) : Bool :=
  decide (o % 8 = 0) && (decide (o ≤ 0x60) || (decide (0x100 ≤ o) && decide (o ≤ 0x138)) || (decide (0x400 ≤ o) && decide (o < 0x1000)))

/-- The domain of the channel whose descriptor stands at an address (R406). -/
def State.channelDomain (s : State) (a : Nat) : Nat := (s.mem.readN (a + 0x10) 8) / 65536 % 64

/-- Whether a TDI's host channels are locked (R405). -/
def State.tdiLocked (s : State) (d : Nat) : Bool :=
  let t := s.tdis.look d .unlocked
  t == .locked || t == .run

/-- A channel binding may be written (R405): neither the old nor the new binding is of a domain whose TDI is locked. -/
def State.bindingOk (s : State) (stk n : Nat) (v : Word) : Bool :=
  let held (w : Word) : Bool := w.getLsbD 63 && s.tdiLocked (s.channelDomain (w.toNat % 0x1000000000000))
  !held ((s.stack stk).chans.look n {}).binding && !held v

/-- A host channel bound, or its binding ended (R406); the domain of its descriptor is read first. -/
def State.bindChannel (s : State) (stk n : Nat) (v : Word) : State :=
  (if v.getLsbD 63 then s.readHome (sectorsIn (v.toNat % 0x1000000000000 + 0x10) 8) else s).modStack stk fun t => { t with chans := t.chans.put n { binding := v &&& 0x8000FFFFFFFFFFFF } }

/-- A doubleword of the key-wrapping key; the fourth completes it (R449). -/
def State.writeKwk (s : State) (stk w : Nat) (v : Word) : State :=
  s.modStack stk fun t =>
    let parts := t.kwkParts.put w v
    { t with kwkParts := parts
             kwk := if w = 3 then some (parts.look 3 0 ++ parts.look 2 0 ++ parts.look 1 0 ++ parts.look 0 0) else t.kwk }

/-- A sprint reservation's word (R214, R375). -/
def Sprint.word (m : Sprint) : Nat → Word
  | 0 => bit m.valid 64
  | 1 => m.cores.setWidth 64
  | 2 => BitVec.ofNat 64 m.slots
  | _ => m.dies.setWidth 64

/-- A sprint reservation with a word written. -/
def Sprint.setWord (m : Sprint) (v : Word) : Nat → Sprint
  | 0 => { m with valid := v.getLsbD 0 }
  | 1 => { m with cores := v.setWidth 48 }
  | 2 => { m with slots := v.toNat % 256 }
  | _ => { m with dies := v.setWidth 12 }

/-- The residency command's read value: [63] busy, [62] failed. -/
def Stack.residencyStatus (t : Stack) : Word :=
  (if t.resCmd.isSome then 0x8000000000000000 else 0) ||| (if t.resFailed then 0x4000000000000000 else 0)

/-- The photo-finish buffer control word. -/
def Pfb.control (p : Pfb) : Word :=
  BitVec.ofNat 64 (p.seq.toNat * 0x100000000 + p.idx.toNat * 0x10000 + (if p.frozen then 1 else 0))

/-- Significant bits of the words of a remote table entry (R214). -/
def remoteMask (w : Nat) : Word := if w = 0 then 0x73F01 else BitVec.allOnes 64

/-- A read of the control space of a stack: none where the map does not allow one. -/
def State.controlRead (s : State) (stk off : Nat) : Option Word :=
  let t := s.stack stk
  let core := s.core (48 * stk + off % 0x200 / 8)
  let inCore : Bool := decide (off % 0x200 < 0x180)
  if off % 8 ≠ 0 then none
  else if off < 0x200 then (if inCore then some core.tvec else none)
  else if off < 0x400 then (if inCore then some core.capmask else none)
  else if off < 0x600 then (if inCore then some core.fwCapmask else none)
  else if off < 0x800 then (if inCore then some (core.chkmisc.setWidth 64) else none)
  else if off < 0x1000 then none
  else if off < 0x1200 then some (t.roots.look ((off - 0x1000) / 8) 0)
  else if off < 0x1300 then some ((t.sprints.look ((off - 0x1200) / 32) {}).word (off % 32 / 8))
  else if off = 0x1400 then some t.pfb.control
  else if off = 0x1408 then some t.pfb.freezeTime
  else if off = 0x1410 then some (BitVec.ofNat 64 t.pfb.freezeCause)
  else if off = 0x2000 then some t.residencyStatus
  else if off = 0x2100 then some (t.saveBase.getD 0)
  else if off = 0x2108 then some (t.poolBase.getD 0)
  else if off = 0x2110 then some (t.poolSize.getD 0)
  else if 0x2200 ≤ off ∧ off < 0x2400 then some (t.chans.look ((off - 0x2200) / 8) {}).binding
  else if 0x10000 ≤ off ∧ off < 0x19000 then some (t.residency.look ((off - 0x10000) / 8) 0)
  else if 0x20000 ≤ off ∧ counterOffset (off - 0x20000) then some (t.block.look (off - 0x20000) 0)
  else if 0x40000 ≤ off ∧ off < 0x60000 then some (t.remote.look ((off - 0x40000) / 8) 0)
  else none

/-- A base or size that is taken once. -/
def takeOnce (old : Option Word) (v : Word) : Option Word := match old with | some x => some x | none => some v

/-- A write of the control space of a stack: none where the map does not allow it, or not that value. -/
def State.controlWrite (s : State) (stk off : Nat) (v : Word) : Option State :=
  let g := 48 * stk + off % 0x200 / 8
  let inCore : Bool := decide (off % 0x200 < 0x180)
  if off % 8 ≠ 0 then none
  else if off < 0x200 then
    (if inCore then some (s.modCore g fun c => { c with tvec := v &&& 0xFFFFFFFFFE00 }) else none)
  else if off < 0x400 then (if inCore then some (s.writeCapmask stk g v) else none)
  else if off < 0x600 then (if inCore then some (s.writeFwCapmask stk g v) else none)
  else if off < 0x800 then none
  else if off < 0xA00 then (if inCore then some (s.releaseHalts g v) else none)
  else if off = 0xA00 then some (s.stackInvalidate stk v)
  else if off < 0x1000 then none
  else if off < 0x1200 then
    some (s.modStack stk fun t => { t with roots := t.roots.put ((off - 0x1000) / 8) (v &&& 0xFFFFFFFF0001) })
  else if off < 0x1300 then
    some (s.modStack stk fun t =>
      let m := (off - 0x1200) / 32
      { t with sprints := t.sprints.put m ((t.sprints.look m {}).setWord v (off % 32 / 8)) })
  else if off = 0x1400 then
    some (if v.getLsbD 0 then s else s.modStack stk fun t => { t with pfb := { t.pfb with frozen := false } })
  else if 0x1800 ≤ off ∧ off < 0x1820 then some (s.writeKwk stk ((off - 0x1800) / 8) v)
  else if off = 0x2000 then
    some (s.modStack stk fun t => if t.resCmd.isSome then t else { t with resCmd := some (v &&& 0xFFFFFFFF0001), resFailed := false })
  else if off = 0x2100 then
    (if v.toNat % 65536 = 0 then some (s.modStack stk fun t => { t with saveBase := takeOnce t.saveBase v }) else none)
  else if off = 0x2108 then
    (if v.toNat % 65536 = 0 then some (s.modStack stk fun t => { t with poolBase := takeOnce t.poolBase v }) else none)
  else if off = 0x2110 then some (s.modStack stk fun t => { t with poolSize := takeOnce t.poolSize v })
  else if 0x2200 ≤ off ∧ off < 0x2400 then
    let n := (off - 0x2200) / 8
    (if s.bindingOk stk n v then some (s.bindChannel stk n v) else none)
  else if 0x20100 ≤ off ∧ counterOffset (off - 0x20000) then
    (if v = 0 then some (s.modStack stk fun t => { t with block := Tbl.drop t.block (off - 0x20000) }) else none)
  else if 0x40000 ≤ off ∧ off < 0x60000 then
    some (s.modStack stk fun t => { t with remote := t.remote.put ((off - 0x40000) / 8) (v &&& remoteMask (off % 32 / 8)) })
  else none

end Sys2Proof.Machine
end

