-- ==== Sys2Proof/Machine/Flags.lean ====
section
/-! DEFINITION. Floating-point values as exact numbers, the rounding of an exact value into a format with the flags it
raises, and the floating-point operations (chapter "Number formats and arithmetic rules"). -/

namespace Sys2Proof.Machine

/-! ## Flags (R57) and control -/

/-- FPSTAT bits: SF, NV, DZ, OF, UF, NX. -/
abbrev FpFlags := BitVec 6
/-- Saturation. -/
def flagSF : FpFlags := 32
/-- Invalid. -/
def flagNV : FpFlags := 16
/-- Divide by zero. -/
def flagDZ : FpFlags := 8
/-- Overflow. -/
def flagOF : FpFlags := 4
/-- Underflow. -/
def flagUF : FpFlags := 2
/-- Inexact. -/
def flagNX : FpFlags := 1
/-- A flag under a condition. -/
def flagIf (c : Bool) (f : FpFlags) : FpFlags := if c then f else 0

/-- What FPCTL says besides the rounding mode (R57). -/
structure FpCtl where
  ftz : Bool
  satf : Bool
  deriving DecidableEq, Repr

/-- The control bits of FPCTL. -/
def fpCtl (c : BitVec 5) : FpCtl := ⟨c.getLsbD 3, c.getLsbD 4⟩

/-- The mode of a rounding code; none when it is dynamic and FPCTL.RM holds 5 to 7 (R53). -/
def Rnd.mode (r : Rnd) (fpctl : BitVec 5) : Option Rnd :=
  match r with
  | .dyn => match (fpctl.extractLsb' 0 3).toNat with
    | 0 => some .rne | 1 => some .rtz | 2 => some .rdn | 3 => some .rup | 4 => some .sr | _ => none
  | r => some r

/-- One step of RNGS (R54). -/
def rngStep (x : Word) : Word :=
  let x := x ^^^ (x <<< 13)
  let x := x ^^^ (x >>> 7)
  x ^^^ (x <<< 17)

/-- The 32 bits drawn from a state of RNGS. -/
def rngDraw (x : Word) : Nat := x.toNat / 2 ^ 32

/-! ## Exact numbers -/

/-- An exact number: (−1)^neg × (m + ε) × 2^e, where ε is 0, or with `more` lies strictly between 0 and 1; a zero keeps
its sign. -/
inductive FNum where
  | nan (signalling : Bool)
  | inf (neg : Bool)
  | fin (neg : Bool) (m : Nat) (e : Int) (more : Bool)
  deriving DecidableEq, Repr

/-- An integer. -/
def FNum.ofInt (x : Int) : FNum := .fin (decide (x < 0)) x.natAbs 0 false
/-- A NaN. -/
def FNum.isNan : FNum → Bool
  | .nan _ => true
  | _ => false
/-- A signalling NaN. -/
def FNum.isSig : FNum → Bool
  | .nan b => b
  | _ => false
/-- The sign. -/
def FNum.neg : FNum → Bool
  | .nan _ => false
  | .inf n => n
  | .fin n _ _ _ => n
/-- A zero. -/
def FNum.isZero : FNum → Bool
  | .fin _ m _ more => m == 0 && !more
  | _ => false
/-- The number with its sign turned over. -/
def FNum.negate : FNum → FNum
  | .nan b => .nan b
  | .inf n => .inf !n
  | .fin n m e more => .fin (!n) m e more
/-- The number times 2^k. -/
def FNum.scale (x : FNum) (k : Int) : FNum :=
  match x with
  | .fin n m e more => .fin n m (e + k) more
  | x => x

/-! ## Formats (R49) -/

/-- Families of formats, by what stands for infinity and NaN. -/
inductive FmtKind where
  | ieee | e4m3 | e2m1
  deriving DecidableEq, Repr

/-- A floating-point format: exponent bits, bias, mantissa bits; whether FTZ reaches it (R52) and SATF does (R55). -/
structure Fmt where
  ebits : Nat
  bias : Nat
  m : Nat
  kind : FmtKind
  ftz : Bool
  narrow : Bool
  deriving DecidableEq, Repr

/-- E2M1. -/
def fmtE2M1 : Fmt := ⟨2, 1, 1, .e2m1, false, true⟩
/-- E4M3. -/
def fmtE4M3 : Fmt := ⟨4, 7, 3, .e4m3, false, true⟩
/-- E5M2. -/
def fmtE5M2 : Fmt := ⟨5, 15, 2, .ieee, false, true⟩
/-- binary16. -/
def fmtF16 : Fmt := ⟨5, 15, 10, .ieee, true, false⟩
/-- bfloat16. -/
def fmtBF16 : Fmt := ⟨8, 127, 7, .ieee, true, false⟩
/-- binary32. -/
def fmtF32 : Fmt := ⟨8, 127, 23, .ieee, true, false⟩
/-- binary64. -/
def fmtF64 : Fmt := ⟨11, 1023, 52, .ieee, true, false⟩

/-- The bits of a format below its sign. -/
def Fmt.signPos (f : Fmt) : Nat := f.ebits + f.m
/-- The largest finite code without its sign. -/
def Fmt.maxCode (f : Fmt) : Nat :=
  match f.kind with
  | .ieee => (2 ^ f.ebits - 1) * 2 ^ f.m - 1
  | .e4m3 => 0x7E
  | .e2m1 => 7
/-- The code of infinity without its sign; the formats without infinity give their substitute of R55. -/
def Fmt.infCode (f : Fmt) : Nat := (2 ^ f.ebits - 1) * 2 ^ f.m
/-- The canonical NaN (R49, R50). -/
def Fmt.nanCode (f : Fmt) : Nat :=
  match f.kind with
  | .ieee => f.infCode + 2 ^ (f.m - 1)
  | .e4m3 => 0x7F
  | .e2m1 => 0
/-- A code with a sign. -/
def Fmt.signed (f : Fmt) (neg : Bool) (c : Nat) : Nat := (if neg then 2 ^ f.signPos else 0) + c

/-- The number of a code (R49, R50). -/
def Fmt.number (f : Fmt) (bits : Nat) : FNum :=
  let neg : Bool := bits / 2 ^ f.signPos % 2 == 1
  let e := bits / 2 ^ f.m % 2 ^ f.ebits
  let m := bits % 2 ^ f.m
  if f.kind = .ieee ∧ e = 2 ^ f.ebits - 1 then
    (if m = 0 then .inf neg else .nan (m / 2 ^ (f.m - 1) == 0))
  else if f.kind = .e4m3 ∧ e = 15 ∧ m = 7 then .nan false
  else if e = 0 then .fin neg m (1 - (f.bias : Int) - f.m) false
  else .fin neg (2 ^ f.m + m) ((e : Int) - f.bias - f.m) false

/-- The number of a code as an operation reads it: a subnormal reads as zero under FTZ (R52). -/
def Fmt.read (f : Fmt) (ctl : FpCtl) (bits : Nat) : FNum :=
  match f.number bits with
  | .fin n m e more => if ctl.ftz && f.ftz && decide (m < 2 ^ f.m) then .fin n 0 e false else .fin n m e more
  | x => x

/-! ## Rounding (R53 to R55) -/

/-- An exact magnitude rounded to a multiple of 2^q: the multiple, and whether it differs. `u` is the draw of R54. -/
def roundAt (neg : Bool) (m : Nat) (e : Int) (more : Bool) (q : Int) (mode : Rnd) (u : Nat) : Nat × Bool :=
  let d := q - e
  if d ≤ 0 then
    let n := m * 2 ^ (-d).toNat
    (match mode with
      | .rdn => if neg && more then n + 1 else n
      | .rup => if !neg && more then n + 1 else n
      | _ => n, more)
  else
    let k := d.toNat
    let n := m / 2 ^ k
    let rem := m % 2 ^ k
    let inexact := more || decide (rem ≠ 0)
    let up : Bool := match mode with
      | .rtz => false
      | .rdn => neg && inexact
      | .rup => !neg && inexact
      | .sr => decide (2 ^ 32 ≤ rem * 2 ^ 32 / 2 ^ k + u)
      | _ => decide (2 ^ k < 2 * rem) || (decide (2 * rem = 2 ^ k) && (more || decide (n % 2 = 1)))
    (if up then n + 1 else n, inexact)

/-- The result of an overflow, with the flags beyond OF and NX (R55). -/
def overflow (f : Fmt) (ctl : FpCtl) (neg : Bool) (mode : Rnd) : Nat × FpFlags :=
  if f.kind = .e2m1 ∨ (ctl.satf ∧ f.narrow) then (f.signed neg f.maxCode, flagSF)
  else
    let toMax : Bool := match mode with
      | .rtz => true
      | .rdn => !neg
      | .rup => neg
      | _ => false
    if toMax then (f.signed neg f.maxCode, 0)
    else if f.kind = .e4m3 then (f.nanCode, 0) else (f.signed neg f.infCode, 0)

/-- A finite nonzero magnitude rounded into a format (R52 to R55). -/
def roundFin (f : Fmt) (ctl : FpCtl) (neg : Bool) (m : Nat) (e : Int) (more : Bool) (mode : Rnd) (u : Nat) : Nat × FpFlags :=
  let top := e + (Nat.log2 m : Int)
  let q0 := top - f.m
  let emin : Int := 1 - f.bias
  let (n0, _) := roundAt neg m e more q0 mode u
  let maxn := f.number f.maxCode
  let tooBig : Bool := match maxn with
    | .fin _ mm me _ => if q0 ≤ me then decide (mm * 2 ^ (me - q0).toNat < n0) else decide (mm < n0 * 2 ^ (q0 - me).toNat)
    | _ => false
  if tooBig then
    let r := overflow f ctl neg mode
    (r.1, flagOF ||| flagNX ||| r.2)
  else
    let tiny : Bool := if q0 + f.m + 1 < emin then true else decide (n0 < 2 ^ (emin - q0).toNat) && decide (q0 ≤ emin)
    let q := if q0 < emin - f.m then emin - f.m else q0
    let (n, inexact) := roundAt neg m e more q mode u
    let code := ((q + f.m + f.bias).toNat - 1) * 2 ^ f.m + n
    let flush := ctl.ftz && f.ftz && decide (code < 2 ^ f.m) && decide (0 < code)
    (f.signed neg (if flush then 0 else code),
     flagIf (inexact || flush) flagNX ||| flagIf ((tiny && inexact) || flush) flagUF)

/-- round(x, f, mode): the code and the flags (R68). -/
def roundTo (f : Fmt) (ctl : FpCtl) (x : FNum) (mode : Rnd) (u : Nat) : Nat × FpFlags :=
  match x with
  | .nan _ => (f.nanCode, flagIf (f.kind == .e2m1) flagNV)
  | .inf neg =>
    match f.kind with
    | .ieee => (f.signed neg f.infCode, 0)
    | .e4m3 => if ctl.satf then (f.signed neg f.maxCode, flagSF) else (f.nanCode, flagNV)
    | .e2m1 => (f.signed neg f.maxCode, flagSF)
  | .fin neg m e more =>
    if m = 0 then (if more then roundFin f ctl neg 1 (e - 256) true mode u else (f.signed neg 0, 0))
    else roundFin f ctl neg m e more mode u

/-- A number rounded to an integer within bounds (R56): a NaN gives 0. -/
def roundInt (lo hi : Int) (x : FNum) (mode : Rnd) (u : Nat) : Int × FpFlags :=
  match x with
  | .nan _ => (0, flagNV)
  | .inf neg => (if neg then lo else hi, flagNV)
  | .fin neg m e more =>
    let (n, inexact) := roundAt neg m e more 0 mode u
    let v : Int := if neg then -(n : Int) else n
    if v < lo then (lo, flagNV) else if hi < v then (hi, flagNV) else (v, flagIf inexact flagNX)

/-! ## Operations (R50) -/

/-- NV for a signalling operand. -/
def sigFlags (xs : List FNum) : FpFlags := flagIf (xs.any FNum.isSig) flagNV

/-- Magnitudes of two finite numbers at one exponent. -/
def align (m : Nat) (e : Int) (m' : Nat) (e' : Int) : Nat × Nat × Int :=
  if e ≤ e' then (m, m' * 2 ^ (e' - e).toNat, e) else (m * 2 ^ (e - e').toNat, m', e')

/-- The exact sum of two finite numbers. -/
def addFin (n : Bool) (m : Nat) (e : Int) (n' : Bool) (m' : Nat) (e' : Int) (mode : Rnd) : FNum :=
  let (a, b, q) := align m e m' e'
  if n = n' then .fin n (a + b) q false
  else if a = b then .fin (mode == .rdn) 0 q false
  else if b < a then .fin n (a - b) q false else .fin n' (b - a) q false

/-- The exact sum, with NV for ∞ − ∞. -/
def FNum.add (x y : FNum) (mode : Rnd) : FNum × FpFlags :=
  match x, y with
  | .nan _, _ => (.nan false, sigFlags [x, y])
  | _, .nan _ => (.nan false, sigFlags [x, y])
  | .inf a, .inf b => if a = b then (.inf a, 0) else (.nan false, flagNV)
  | .inf a, _ => (.inf a, 0)
  | _, .inf b => (.inf b, 0)
  | .fin n m e _, .fin n' m' e' _ => (addFin n m e n' m' e' mode, 0)

/-- The exact product, with NV for 0 × ∞. -/
def FNum.mul (x y : FNum) : FNum × FpFlags :=
  match x, y with
  | .nan _, _ => (.nan false, sigFlags [x, y])
  | _, .nan _ => (.nan false, sigFlags [x, y])
  | .inf a, .inf b => (.inf (a != b), 0)
  | .inf a, .fin n m _ _ => if m = 0 then (.nan false, flagNV) else (.inf (a != n), 0)
  | .fin n m _ _, .inf b => if m = 0 then (.nan false, flagNV) else (.inf (n != b), 0)
  | .fin n m e _, .fin n' m' e' _ => (.fin (n != n') (m * m') (e + e') false, 0)

/-- x × y + z exactly. -/
def FNum.fma (x y z : FNum) (mode : Rnd) : FNum × FpFlags :=
  let p := x.mul y
  let r := p.1.add z mode
  (r.1, sigFlags [x, y, z] ||| p.2 ||| r.2)

/-- Bits of a quotient or root kept exactly; the rest is one bit of `more`. -/
def divBits : Nat := 160

/-- The quotient, with NV for 0/0 and ∞/∞ and DZ for a finite nonzero number over zero. -/
def FNum.div (x y : FNum) : FNum × FpFlags :=
  match x, y with
  | .nan _, _ => (.nan false, sigFlags [x, y])
  | _, .nan _ => (.nan false, sigFlags [x, y])
  | .inf _, .inf _ => (.nan false, flagNV)
  | .inf a, .fin n _ _ _ => (.inf (a != n), 0)
  | .fin n _ e _, .inf b => (.fin (n != b) 0 e false, 0)
  | .fin n m e _, .fin n' m' e' _ =>
    if m' = 0 then (if m = 0 then (.nan false, flagNV) else (.inf (n != n'), flagDZ))
    else if m = 0 then (.fin (n != n') 0 0 false, 0)
    else
      let k := divBits + Nat.log2 m'
      (.fin (n != n') (m * 2 ^ k / m') (e - e' - k) (decide (m * 2 ^ k % m' ≠ 0)), 0)

/-- The integer square root, bit by bit from 2^(n − 1) down. -/
def isqrt (x r : Nat) : Nat → Nat
  | 0 => r
  | n + 1 => if (r + 2 ^ n) * (r + 2 ^ n) ≤ x then isqrt x (r + 2 ^ n) n else isqrt x r n

/-- The square root, with NV below zero; √(−0) = −0. -/
def FNum.sqrt (x : FNum) : FNum × FpFlags :=
  match x with
  | .nan b => (.nan false, flagIf b flagNV)
  | .inf n => if n then (.nan false, flagNV) else (.inf false, 0)
  | .fin n m e _ =>
    if m = 0 then (.fin n 0 e false, 0)
    else if n then (.nan false, flagNV)
    else
      let odd := (e % 2).toNat
      let a := m * 2 ^ (2 * divBits + odd)
      let r := isqrt a 0 (Nat.log2 a / 2 + 1)
      (.fin false r ((e - odd) / 2 - divBits) (decide (r * r ≠ a)), 0)

/-- The order of two numbers that are no NaN: −0 equals +0. -/
def FNum.lt (x y : FNum) : Bool :=
  match x, y with
  | .nan _, _ => false
  | _, .nan _ => false
  | .inf a, .inf b => a && !b
  | .inf a, _ => a
  | _, .inf b => !b
  | .fin n m e _, .fin n' m' e' _ =>
    let (a, b, _) := align m e m' e'
    let a : Int := if n then -(a : Int) else a
    let b : Int := if n' then -(b : Int) else b
    decide (a < b)

/-- Equality of two numbers that are no NaN. -/
def FNum.eq (x y : FNum) : Bool := !x.isNan && !y.isNan && !x.lt y && !y.lt x

/-- minimumNumber: a single NaN loses, −0 orders below +0 (R50). -/
def FNum.min (x y : FNum) : FNum :=
  if x.isNan then (if y.isNan then .nan false else y)
  else if y.isNan then x
  else if x.lt y then x else if y.lt x then y else if x.neg then x else y

/-- maximumNumber. -/
def FNum.max (x y : FNum) : FNum :=
  if x.isNan then (if y.isNan then .nan false else y)
  else if y.isNan then x
  else if x.lt y then y else if y.lt x then x else if x.neg then y else x

/-! ## Saturation of integers (R47, R68) -/

/-- sat: an exact integer clamped to bounds, with SF when it changes. -/
def satInt (lo hi x : Int) : Int × FpFlags :=
  if x < lo then (lo, flagSF) else if hi < x then (hi, flagSF) else (x, 0)

end Sys2Proof.Machine
end

