-- ==== Sys2Proof/Machine/Operands.lean ====
section
/-! DEFINITION. Operands of the members: element type tags (R45), elements of vector registers and their values (R23, R48,
R51, R78), promotion (R59), the checks of a member's second stage (R60, R96, R97, R123, R124), and the writing of vector and
predicate results (R58, R62, R121). -/

namespace Sys2Proof.Machine

/-! ## Tags (R45) -/

/-- The element width. -/
def tagWidth : Tag → Nat
  | .int4 | .uint4 | .tern | .e2m1 | .mxe2m1 => 4
  | .int8 | .uint8 | .e4m3 | .e5m2 | .mxe4m3 | .mxe5m2 | .mxint8 => 8
  | .int16 | .uint16 | .fp16 | .bf16 => 16
  | .int32 | .uint32 | .fp32 => 32
  | .int64 | .uint64 | .fp64 => 64

/-- Integer tags other than tern. -/
def tagInt : Tag → Bool
  | .int4 | .uint4 | .int8 | .uint8 | .int16 | .uint16 | .int32 | .uint32 | .int64 | .uint64 => true
  | _ => false

/-- Signed integer tags; tern counts as signed. -/
def tagSigned : Tag → Bool
  | .int4 | .int8 | .int16 | .int32 | .int64 | .tern => true
  | _ => false

/-- MX tags. -/
def tagMx : Tag → Bool
  | .mxe2m1 | .mxe4m3 | .mxe5m2 | .mxint8 => true
  | _ => false

/-- Float tags. -/
def tagFloat : Tag → Bool
  | .e2m1 | .e4m3 | .e5m2 | .fp16 | .bf16 | .fp32 | .fp64 => true
  | _ => false

/-- The format of a float tag, or of the elements of an MX tag. -/
def tagFmt : Tag → Fmt
  | .e2m1 | .mxe2m1 => fmtE2M1
  | .e4m3 | .mxe4m3 => fmtE4M3
  | .e5m2 | .mxe5m2 => fmtE5M2
  | .fp16 => fmtF16
  | .bf16 => fmtBF16
  | .fp64 => fmtF64
  | _ => fmtF32

/-- The least value of an integer tag or tern. -/
def tagLo (t : Tag) : Int := if t = .tern then -1 else if tagSigned t then -(2 ^ (tagWidth t - 1) : Nat) else 0

/-- The greatest value of an integer tag or tern. -/
def tagHi (t : Tag) : Int :=
  if t = .tern then 1 else if tagSigned t then (2 ^ (tagWidth t - 1) : Nat) - 1 else (2 ^ tagWidth t : Nat) - 1

/-- The code of a tag. -/
def tagCode (t : Tag) : Nat := (Tag.code t).toNat

/-! ## Elements (R23) -/

/-- The position of the lowest bit of element `e` of width `w` in a grant of `l` lanes. -/
def elemPos (l w e : Nat) : Nat := e % l * 1024 + e / l * w

/-- `n` bits of a register from position `p`. -/
def bitsAt {k : Nat} (x : BitVec k) (p n : Nat) : Nat := x.toNat / 2 ^ p % 2 ^ n

/-- A register with `n` bits from position `p` replaced. -/
def putBits {k : Nat} (x : BitVec k) (p n v : Nat) : BitVec k :=
  (x &&& ~~~(BitVec.ofNat k (2 ^ n - 1) <<< p)) ||| (BitVec.ofNat k (v % 2 ^ n) <<< p)

/-- The bits of element `e`. -/
def VRegS.elem (r : VRegS) (l w e : Nat) : Nat := bitsAt r.bits (elemPos l w e) w

/-- The position of scale `j` in the side-slices (R51). -/
def scalePos (l j : Nat) : Nat := j % l * 64 + j / l * 8

/-- Scale `j`. -/
def VRegS.scaleAt (r : VRegS) (l j : Nat) : Nat := bitsAt r.scale (scalePos l j) 8

/-- Every scale 1.0. -/
def unitScales : BitVec 4096 := ({} : VRegS).scale

/-- Two's complement of `w` bits. -/
def signedOf (w x : Nat) : Int := if x < 2 ^ (w - 1) then (x : Int) else (x : Int) - (2 ^ w : Nat)

/-- The bits of an integer. -/
def intBits (w : Nat) (x : Int) : Nat := (x % (2 ^ w : Nat)).toNat

/-- The value of the bits of an integer tag or tern, NV for tern code 10 (R48). -/
def intVal (t : Tag) (b : Nat) : Int × FpFlags :=
  if t = .tern then
    match b % 4 with
    | 0 => (0, 0)
    | 1 => (1, 0)
    | 2 => (0, flagNV)
    | _ => (-1, 0)
  else if tagSigned t then (signedOf (tagWidth t) b, 0) else ((b : Int), 0)

/-- The value of the bits of any tag but an MX tag, as an exact number; float tags are read under FTZ (R52). -/
def numVal (ctl : FpCtl) (t : Tag) (b : Nat) : FNum × FpFlags :=
  if tagFloat t then ((tagFmt t).read ctl b, 0)
  else ((.ofInt (intVal t b).1), (intVal t b).2)

/-- The value of an element of an MX tag with scale `sc`: a scale of 0xFF reads as NaN with NV (R51). -/
def mxVal (t : Tag) (b sc : Nat) : FNum × FpFlags :=
  if sc = 0xFF then (.nan false, flagNV)
  else
    let x : FNum := if t = .mxint8 then (FNum.ofInt (signedOf 8 b)).scale (-6) else (tagFmt t).number b
    (x.scale ((sc : Int) - 127), 0)

/-- Element `e` of a register under its tag, as an exact number. -/
def VRegS.num (r : VRegS) (ctl : FpCtl) (l e : Nat) : FNum × FpFlags :=
  let b := r.elem l (tagWidth r.tag) e
  if tagMx r.tag then mxVal r.tag b (r.scaleAt l (e / 32)) else numVal ctl r.tag b

/-- Element `e` of a register under its integer tag or tern. -/
def VRegS.int (r : VRegS) (l e : Nat) : Int × FpFlags := intVal r.tag (r.elem l (tagWidth r.tag) e)

/-! ## Encoding a result -/

/-- An exact integer written under an integer tag or tern (R47, R48). -/
def encInt (t : Tag) (sat : Bool) (x : Int) : Nat × FpFlags :=
  if t = .tern then
    let r := satInt (-1) 1 x
    (intBits 2 r.1, r.2)
  else if sat then
    let r := satInt (tagLo t) (tagHi t) x
    (intBits (tagWidth t) r.1, r.2)
  else (intBits (tagWidth t) x, 0)

/-- An exact number converted into an integer tag or tern (R48, R56). -/
def encNumInt (t : Tag) (x : FNum) (m : Rnd) (u : Nat) : Nat × FpFlags :=
  let r := roundInt (tagLo t) (tagHi t) x m u
  (intBits (if t = .tern then 2 else tagWidth t) r.1, r.2)

/-- An exact number rounded into a float tag (R55). -/
def encNum (ctl : FpCtl) (t : Tag) (x : FNum) (m : Rnd) (u : Nat) : Nat × FpFlags := roundTo (tagFmt t) ctl x m u

/-- A number that a float tag holds exactly, encoded without a flag; a NaN becomes the canonical one. -/
def encExact (t : Tag) (x : FNum) : Nat := (roundTo (tagFmt t) ⟨false, false⟩ x .rne 0).1

/-! ## Promotion (R59) -/

/-- The integer tag of a signedness and width. -/
def intTag (signed : Bool) (w : Nat) : Option Tag :=
  match w with
  | 4 => some (if signed then .int4 else .uint4)
  | 8 => some (if signed then .int8 else .uint8)
  | 16 => some (if signed then .int16 else .uint16)
  | 32 => some (if signed then .int32 else .uint32)
  | 64 => some (if signed then .int64 else .uint64)
  | _ => none

/-- Two integer tags, tern counting as int4. -/
def promoteInt (a b : Tag) : Option Tag :=
  let wa := tagWidth a
  let wb := tagWidth b
  if tagSigned a = tagSigned b then intTag (tagSigned a) (Nat.max wa wb)
  else
    let ws := if tagSigned a then wa else wb
    let wu := if tagSigned a then wb else wa
    if wu < ws then intTag true ws else intTag true (2 * wu)

/-- An integer tag or tern with a float tag. -/
def promoteMixed (i f : Tag) : Option Tag :=
  match i, f with
  | .tern, .e2m1 => some .e2m1
  | .tern, .e4m3 | .int4, .e2m1 | .int4, .e4m3 | .uint4, .e2m1 | .uint4, .e4m3 => some .e4m3
  | .tern, .e5m2 | .int4, .e5m2 => some .e5m2
  | .uint4, .e5m2 => some .fp16
  | .tern, .fp16 | .int4, .fp16 | .uint4, .fp16 => some .fp16
  | .tern, .bf16 | .int4, .bf16 | .uint4, .bf16 => some .bf16
  | .int8, .bf16 | .uint8, .bf16 => some .bf16
  | .int8, .fp32 | .uint8, .fp32 => some .fp32
  | .int8, .e2m1 | .int8, .e4m3 | .int8, .e5m2 | .int8, .fp16 => some .fp16
  | .uint8, .e2m1 | .uint8, .e4m3 | .uint8, .e5m2 | .uint8, .fp16 => some .fp16
  | .int16, .e4m3 | .int16, .e5m2 | .int16, .fp16 | .int16, .bf16 | .int16, .fp32 => some .fp32
  | .uint16, .e4m3 | .uint16, .e5m2 | .uint16, .fp16 | .uint16, .bf16 | .uint16, .fp32 => some .fp32
  | .int16, .fp64 | .uint16, .fp64 => some .fp64
  | .int32, .fp16 | .int32, .bf16 | .int32, .fp32 | .int32, .fp64 => some .fp64
  | .uint32, .fp16 | .uint32, .bf16 | .uint32, .fp32 | .uint32, .fp64 => some .fp64
  | _, _ => none

/-- The rank of a float tag in the float table. -/
def floatRank : Tag → Nat
  | .e2m1 => 0 | .e4m3 => 1 | .e5m2 => 2 | .fp16 => 3 | .bf16 => 4 | .fp32 => 5 | _ => 6

/-- Two float tags, the first of no higher rank. -/
def promoteFloat (a b : Tag) : Option Tag :=
  if a = b then some a
  else match a, b with
    | .e2m1, .fp32 | .e2m1, .fp64 | .e4m3, .fp64 | .e5m2, .fp64 => none
    | .e4m3, .e5m2 => some .fp16
    | .fp16, .bf16 => some .fp32
    | _, b => some b

/-- The result tag of two tags, before the limit of width. -/
def promote2 (a b : Tag) : Option Tag :=
  if tagMx a || tagMx b then none
  else if tagFloat a then
    (if tagFloat b then (if floatRank a ≤ floatRank b then promoteFloat a b else promoteFloat b a) else promoteMixed b a)
  else if tagFloat b then promoteMixed a b
  else promoteInt a b

/-- The limit of width: four times the narrowest source. -/
def widthOk (t : Tag) (srcs : List Tag) : Bool := srcs.all fun x => decide (tagWidth t ≤ 4 * tagWidth x)

/-- promote of two sources. -/
def promote (a b : Tag) : Option Tag :=
  match promote2 a b with
  | some t => if widthOk t [a, b] then some t else none
  | none => none

/-- promote of three sources. -/
def promote3 (a b c : Tag) : Option Tag :=
  match promote2 a b with
  | some t =>
    (match promote2 t c with
      | some t => if widthOk t [a, b, c] then some t else none
      | none => none)
  | none => none

/-! ## Checks of the second stage (R99) -/

/-- The index of the executing member as TVAL bits. -/
def State.idxVal (s : State) : Nat := idxBits s.hart.cv.idx

/-- TVAL of a tag mismatch (R60); codes 0x1F for none. -/
def State.mismatch (s : State) (a b c : Nat) : Word := BitVec.ofNat 64 (a + b * 256 + c * 65536 + s.idxVal)

/-- A tag mismatch unless the result tag exists. -/
def withTag {α : Type} (s : State) (t : Option Tag) (a b c : Nat) (k : Tag → Res α) : Res α :=
  match t with
  | some t => k t
  | none => .trap 0x15 (s.mismatch a b c)

/-- The format checks (R96, R97) on tags in the order of R97. -/
def formats {α : Type} (s : State) (ts : List Tag) (k : Res α) : Res α :=
  match ts.find? fun t => !s.hart.usemask.getLsbD (tagCode t) with
  | some t => .trap 0x13 (classVal s.hart.cv.idx (tagCode t))
  | none =>
    match ts.find? fun t => !s.hart.underWay && !(s.core s.hart.core).capmask.getLsbD (tagCode t) with
    | some t => .trap 0x14 (classVal s.hart.cv.idx (tagCode t))
    | none => k

/-- The rounding mode of a member that rounds for its tags (R53); none of it needed otherwise. -/
def withMode {α : Type} (s : State) (rounds : Bool) (r : Rnd) (k : Rnd → Res α) : Res α :=
  if rounds then
    match Rnd.mode r s.hart.regs.fpctl with
    | some m => k m
    | none => .trap 0x10 (s.hart.memberAddr s.hart.cv.idx)
  else k .rne

/-- The positions of a register of width `w` (R23, R184). -/
def State.positions (s : State) (w : Nat) : Nat := s.hart.lanes * 1024 / w

/-- The vector-length check (R124) on registers with their widths. -/
def lengths {α : Type} (s : State) (rs : List (VReg × Nat)) (k : Res α) : Res α :=
  match if s.hart.regs.mode then none else rs.find? fun r => decide (s.positions r.2 < s.hart.regs.vlen) with
  | some r => .trap 0x17 (BitVec.ofNat 64 (s.hart.regs.vlen + r.1.toNat * 65536 + s.idxVal))
  | none => k

/-- The check for uncorrectable registers (R123). A convoy that runs again with its results has passed it, and unwinds no more
(R208). -/
def parity {α : Type} (s : State) (rs : List VReg) (k : Res α) : Res α :=
  match if s.hart.answered then none else rs.find? fun r => s.src.bad.contains r with
  | some r => .trap 0x1A (r.setWidth 64)
  | none => k

/-! ## Active elements (R78) -/

/-- active(e). -/
def State.isActive (s : State) (g : Gov) (e : Nat) : Bool :=
  decide (e < s.hart.regs.vlen) && decide (e < s.hart.regs.ftrim.toNat) && ((s.src.rp g.pred).bits.getLsbD e != g.sense)

/-- The active elements below `n`, in rising order. -/
def State.activeBelow (s : State) (g : Gov) (n : Nat) : List Nat :=
  (List.range (Nat.min n (Nat.min s.hart.regs.vlen s.hart.regs.ftrim.toNat))).filter fun e => s.isActive g e

/-- The active elements of a member whose registers have these widths: in matrix mode a register has only its own
positions (R184). -/
def State.actives (s : State) (g : Gov) (ws : List Nat) : List Nat :=
  s.activeBelow g (if s.hart.regs.mode then (ws.map s.positions).foldl Nat.min s.hart.regs.vlen else s.hart.regs.vlen)

/-- Some element is active (R58). -/
def State.anyActive (s : State) (g : Gov) : Bool :=
  (List.range (Nat.min s.hart.regs.vlen s.hart.regs.ftrim.toNat)).any fun e => s.isActive g e

/-! ## Results -/

/-- The segments that hold the positions below `n` of width `w` (R121). -/
def segsOf (l w n : Nat) : Nat := if n = 0 then 0 else ceilDiv (((n - 1) / l + 1) * w) 256

/-- A vector result (R58, R62, R121): the written elements, the rest merged or zero, the tag T; `scale` changes the scales
of the old register. With no active element (`any`) only .z writes. -/
def State.writeVAny (s : State) (any : Bool) (g : Gov) (vd : VReg) (t : Tag) (xs : List (Nat × Nat))
    (scale : VRegS → BitVec 4096) : State :=
  let old := s.src.rv vd
  let l := s.hart.lanes
  let w := tagWidth t
  if !any && !g.z then s
  else
    let same := decide (tagWidth old.tag = w)
    let n := Nat.min s.hart.regs.vlen (s.positions w)
    let base : BitVec 65536 := if g.z || !same then 0 else old.bits
    let segs := if !any then 0 else if g.z || !same then segsOf l w n else Nat.max old.segs (segsOf l w n)
    s.modRegs fun r => r.wv vd
      { bits := xs.foldl (fun b x => putBits b (elemPos l w x.1) w x.2) base, tag := t, segs := segs, dirty := true
        scale := if !any then (if tagMx t then unitScales else old.scale) else scale old }

/-- A vector result of a member whose active elements are those of R78. -/
def State.writeV (s : State) (g : Gov) (vd : VReg) (t : Tag) (xs : List (Nat × Nat)) (scale : VRegS → BitVec 4096) : State :=
  s.writeVAny (s.anyActive g) g vd t xs scale

/-- The scales of a result that is no MX tag are of no consequence; they stay. -/
def keepScales (r : VRegS) : BitVec 4096 := r.scale

/-- A predicate result (R155): bits at active positions, the rest kept, or zero under .z. With no active element only .z
writes (R58). -/
def State.writeP (s : State) (g : Gov) (pd : PReg) (xs : List (Nat × Bool)) : State :=
  if !s.anyActive g && !g.z then s
  else
    let base : BitVec 16384 := if g.z then 0 else (s.src.rp pd).bits
    s.modRegs fun r => r.wp pd (xs.foldl (fun b x => putBits b x.1 1 (if x.2 then 1 else 0)) base)

/-- Elements computed in rising order, each drawing once under stochastic rounding (R54): results, flags, RNGS. -/
def runElems (draws : Bool) (f : Nat → Nat → Nat × FpFlags) : List Nat → Word → List (Nat × Nat) × FpFlags × Word
  | [], x => ([], 0, x)
  | e :: r, x =>
    let x := if draws then rngStep x else x
    let y := f e (rngDraw x)
    let z := runElems draws f r x
    ((e, y.1) :: z.1, y.2 ||| z.2.1, z.2.2)

/-! ## The checking lanes (R165, R166) -/

/-- A suspect-interval report (R373), with the entries of the run history that its search reads. -/
def State.suspectReport (s : State) (g : Nat) (failed : Word) : State :=
  let k := coreStack g
  let c := s.core g
  let since := (onesList failed).foldl (fun a b => Nat.min a (c.lastPass.look b 0).toNat) (2 ^ 64 - 1)
  let first := c.histIdx - 65536
  let timeAt (n : Nat) : Nat := match c.histBase with | some b => s.mem.readN (b.toNat + 16 * (n % 65536)) 8 | none => 0
  let from_ := ((List.range (c.histIdx - first)).find? fun i => decide (since ≤ timeAt (first + i))).getD (c.histIdx - first)
  let truncated := decide (0 < first) && decide (from_ = 0)
  let report := bytesOfWords [BitVec.ofNat 64 (1 + k * 256 + coreNumber g * 8192), failed, s.time k, BitVec.ofNat 64 since,
    BitVec.ofNat 64 ((first + from_) % 65536), BitVec.ofNat 64 (c.histIdx % 65536), bit truncated 64, c.histBase.getD 0]
  let read := match c.histBase with
    | some b => (List.range (from_ + 1)).map fun i => sectorOf (b.toNat + 16 * ((first + i) % 65536))
    | none => []
  (s.readHome read).modStack k fun t => { t with reports := t.reports ++ [report] }

/-- What the checking lanes make of a member: the lanes of the grant whose results are wrong and stand, and those that computed
again; or the class is fenced. -/
inductive LaneCheck where
  | fine (s : State) (flips : List (Nat × BitVec 64)) (again : List Nat)
  | fenced (s : State)
  deriving DecidableEq, Repr

/-- Faults that have met a member: those that do not stay are used up. -/
def State.spend (s : State) (ds : List Defect) : State :=
  s.modCore s.hart.core fun c => { c with defects := (ds.filter fun d => !d.stays).foldl List.erase c.defects }

/-- Faults that stand as they met the executing member: entered again, it meets them again (R167). -/
def State.recordFaults (s : State) (ds : List Defect) : State :=
  s.modHart fun h => { h with att := { h.att with stood := ds.map (fun d => (h.cv.idx, d)) ++ h.att.stood } }

/-- The faults that met the executing member when it was entered before. -/
def Hart.stoodNow (h : Hart) : List Defect := (h.att.stood.filter fun x => x.1 == h.cv.idx).map Prod.snd

/-- The payload of a lane's event (R395). -/
def Hart.lanePayload (h : Hart) (cls lane : Nat) : Word := BitVec.ofNat 64 (cls + lane % 4 * 64 + h.cseq.toNat * 256)

/-- The clusters that `lanes` lie in whose check is lost: an uncorrectable error of the checking lane abandons the check of the
member, and is an event of its own (R166). -/
def State.loseChecks (s : State) (cls : Nat) (lanes : List Nat) : State × List Nat :=
  let h := s.hart
  ((lanes.map fun l => h.regs.physLane l / 4).eraseDups).foldl (fun r c =>
    let here (d : Defect) : Bool := d.cls == cls && d.lane == 64 + c
    if h.stoodNow.any here then (r.1, c :: r.2)
    else match (s.core h.core).defects.filter here with
      | [] => r
      | ds => (((r.1.spend ds).recordFaults ds).pfbHart h 0x02 (h.lanePayload cls h.cseq.toNat) 0, c :: r.2)) (s, [])

/-- The work of the lanes of a group, which re-executes as one (R165, R166, R181): results and pending flags are compared in the
lane under check, unless its check is lost, and in every lane of a reduction's combine steps (`tree`); an error that the
datapath reports is a first mismatch in any lane. After a first mismatch the group computes again and is compared; a fault that
stays is found again, and fences the class. `odd`: a lane whose working result is perturbed (R198). -/
def laneGroup (cls : Nat) (lost : List Nat) (tree : Bool) (odd : Option Nat) (a : LaneCheck) (g : List Nat) : LaneCheck :=
  match a with
  | .fenced s => .fenced s
  | .fine s flips again =>
    let h := s.hart
    let ps := g.map h.regs.physLane
    let here (d : Defect) : Bool := d.cls == cls && ps.contains d.lane
    let ds := (s.core h.core).defects.filter here
    let acts (d : Defect) : Bool := d.flip != 0 || d.flags != 0
    let sound := tree || ps.all fun p => !lost.contains (p / 4)
    let compared := tree || (sound && ps.any fun p => p % 4 == h.cseq.toNat % 4)
    let wrong (ds : List Defect) : List (Nat × BitVec 64) :=
      ds.flatMap fun d => (g.filter fun l => h.regs.physLane l == d.lane).map fun l => (l, d.flip)
    let stand (s : State) (ds : List Defect) (redo : List Nat) : LaneCheck :=
      .fine (s.raise (ds.foldl (fun f d => f ||| d.flags) 0)) (wrong ds ++ flips) (redo ++ again)
    if ds.any (fun d => d.reported) || (compared && (ds.any acts || odd.any g.contains)) then
      let payload := h.lanePayload cls ((((ds.find? fun d => d.reported || acts d).map fun d => d.lane).orElse fun _ =>
        odd.map h.regs.physLane).getD 0)
      if ds.any fun d => d.stays && (d.reported || (sound && acts d)) then
        let s := s.clearCaps h.core (1#64 <<< cls)
        let s := s.fenceEvent h.stk h.coreNo h.slotNo 0 h.loc 0 h.coreNo (1#64 <<< cls)
        .fenced (s.suspectReport h.core (1#64 <<< cls))
      else
        let s := (s.spend ds).modCore h.core fun c =>
          { c with chkmisc := if c.chkmisc = BitVec.allOnes 32 then c.chkmisc else c.chkmisc + 1 }
        stand (s.pfbHart h 0x01 payload 0) (ds.filter fun d => d.stays) g
    else stand ((s.spend ds).recordFaults (ds.filter fun d => !d.stays)) (ds ++ h.stoodNow.filter here) []

/-- The checking lanes' work on a member of class `cls`: the combine steps of the lanes `tree`, and the outputs of each of the
lanes `outs`. -/
def State.checkLanes (s : State) (cls : Nat) (tree outs : List Nat) (odd : Option Nat) : LaneCheck :=
  let lost := s.loseChecks cls (tree ++ outs)
  let a : LaneCheck := if tree.isEmpty then .fine lost.1 [] [] else laneGroup cls lost.2 true odd (.fine lost.1 [] []) tree
  (outs.map fun l => [l]).foldl (laneGroup cls lost.2 false odd) a

/-- No fault of a lane meets a member of a class. -/
def State.lanesSound (s : State) (cls : Nat) : Bool :=
  (s.core s.hart.core).defects.all (fun d => !(d.cls == cls)) && s.hart.att.stood.all fun x => !(x.2.cls == cls)

/-- The lanes that elements lie in. -/
def State.lanesOf (s : State) (act : List Nat) : List Nat := (act.map fun e => e % s.hart.lanes).eraseDups

/-- The checking lanes' work on a member of class `cls` with these active elements; with `always` they are combined (R181), and
element 0 is the output. -/
def State.laneCheck (s : State) (cls : Nat) (act : List Nat) (always : Bool) : LaneCheck :=
  if s.lanesSound cls || act.isEmpty then .fine s [] []
  else
    let ls := s.lanesOf act
    if always then s.checkLanes cls ls ([0].filter fun l => !ls.contains l) none else s.checkLanes cls [] ls none

/-- The bits of a result of width `w` that a fault turns over: never none of them. -/
def flipMask (w : Nat) (f : BitVec 64) : Nat :=
  if f = 0 then 0 else if f.toNat % 2 ^ w = 0 then 1 else f.toNat % 2 ^ w

/-- A result with the errors of unchecked lanes. -/
def flipped (l : Nat) (flips : List (Nat × BitVec 64)) (w e x : Nat) : Nat :=
  flips.foldl (fun x f => if f.1 = e % l then x ^^^ flipMask w f.2 else x) x

/-- A member whose work the checking lanes compare: after a mismatch that stays, the class bit is cleared and the convoy
takes a capability trap (R166). -/
def checkedRes (s : State) (cls : Nat) (act : List Nat) (always : Bool) (k : State → (Nat → Nat → Nat → Nat) → Res State) :
    Res State :=
  match s.laneCheck cls act always with
  | .fine s flips _ => k s (flipped s.hart.lanes flips)
  | .fenced s => .ok (s.takeTrap 0x14 (classVal s.hart.cv.idx cls) s.hart.pc)

/-- A member whose results the checking lanes compare. -/
def checkedBy (s : State) (cls : Nat) (act : List Nat) (k : State → (Nat → Nat → Nat → Nat) → State)
    (always : Bool := false) : Res State :=
  checkedRes s cls act always fun s fix => .ok (k s fix)

end Sys2Proof.Machine
end

