-- ==== Sys2Proof/Machine/BankRows.lean ====
section
/-! DEFINITION. Rows and planes (R304, R305, R307) and what the microprograms compute on whole rows (R308, R325 to R330). -/

namespace Sys2Proof.Machine

/-! ## Geometry -/

/-- Columns of a group: elements of a plane in one group (R305). -/
def groupCols : Nat := 524288
/-- One row of a group: bit c is column c mod 8,192 of bank c div 8,192 (R304). -/
abbrev Row := BitVec 524288
/-- The frame of row `r` of group `g`. -/
def frameNo (g r : Nat) : Nat := 992 * g + r
/-- The address of a frame of a stack. -/
def frameAddr (stk f : Nat) : Nat := stk * Config.stackSlot + f * 65536
/-- A row of home memory. -/
def Memory.row (m : Memory) (stk f : Nat) : Row := BitVec.ofNat 524288 (m.readN (frameAddr stk f) 65536)
/-- Home memory with a row written. -/
def Memory.setRow (m : Memory) (stk f : Nat) (x : Row) : Memory := m.writeN (frameAddr stk f) 65536 x.toNat

/-- A plane descriptor's base row (R307). -/
def planeBase (x : BitVec 128) : Nat := (x.extractLsb' 32 10).toNat
/-- Its width. -/
def planeWidth (x : BitVec 128) : Nat := (x.extractLsb' 24 6).toNat
/-- Its tag; a register that names no plane has int4's code. -/
def planeTag (x : BitVec 128) : Tag := (Tag.ofCode (x.extractLsb' 8 5)).getD .int4
/-- Its group offset. -/
def planeOff (x : BitVec 128) : Nat := (x.extractLsb' 0 7).toNat
/-- Its rows. -/
def planeRows (x : BitVec 128) : List Nat := (List.range (planeWidth x)).map fun k => planeBase x + k

/-! ## Arithmetic on rows -/

/-- The number of ones among the low 2^n bits, as the popcount tree adds them (R325). -/
def onesTree : Nat → Nat → Nat
  | 0, x => x % 2
  | n + 1, x => onesTree n (x % 2 ^ 2 ^ n) + onesTree n (x / 2 ^ 2 ^ n)

/-- The number of ones of a row. -/
def Row.ones (r : Row) : Nat := onesTree 19 r.toNat

/-- MAJ of three rows (R308). -/
def maj3 (a b c : Row) : Row := (a &&& b) ||| (a &&& c) ||| (b &&& c)

/-- The sum of planes bit by bit: the rows of the sum, the carry into the last bit and the carry out (R327). -/
def addRows : List Row → List Row → Row → List Row × Row × Row
  | a :: as, b :: bs, c =>
    let k := maj3 a b c
    let r := addRows as bs k
    ((a ^^^ b ^^^ c) :: r.1, if as.isEmpty then c else r.2.1, r.2.2)
  | _, _, c => ([], c, c)

/-- Row `k` of a plane extended above its width by its top row (.s) or by zeros. -/
def extRow (rows : List Row) (sgn : Bool) (k : Nat) : Row :=
  if k < rows.length then rows.getD k 0 else if sgn then rows.getLastD 0 else 0

/-- The clamp of .sat (R327): unsigned, the final carry ORed in (BADD) or ANDed (BSUB); signed, where the carries into and
out of the top bit differ, the limit whose sign is opposite to the wrapped one. -/
def clampRows (sum : List Row) (cin cout : Row) (sub sgn : Bool) : List Row × Bool :=
  if !sgn then
    (if sub then (sum.map fun r => r &&& cout, !(cout == BitVec.allOnes 524288))
     else (sum.map fun r => r ||| cout, !(cout == 0)))
  else
    let o := cin ^^^ cout
    let top := sum.getLastD 0
    ((sum.dropLast.map fun r => (r &&& ~~~o) ||| (o &&& top)) ++ [(top &&& ~~~o) ||| (o &&& ~~~top)], !(o == 0))

/-- BADD and BSUB (R327). -/
def addSub (a b : List Row) (sub sgn sat : Bool) : List Row × Bool :=
  let r := addRows a (if sub then b.map fun x => ~~~x else b) (if sub then BitVec.allOnes 524288 else 0)
  if sat then clampRows r.1 r.2.1 r.2.2 sub sgn else (r.1, false)

/-- The last row of a list complemented. -/
def flipLast (rs : List Row) : List Row := rs.dropLast ++ (rs.getLast?.map fun r => [~~~r]).getD []

/-- BCMP (R328): the borrow chain of a − b, or the OR of the differences. -/
def cmpRows (a b : List Row) (c : BCond) (sgn : Bool) : Row :=
  let x := (List.zipWith (fun p q => p ^^^ q) a b).foldl (fun u v => u ||| v) 0
  let y := (addRows (if sgn then flipLast a else a) ((if sgn then flipLast b else b).map fun r => ~~~r) (BitVec.allOnes 524288)).2.2
  match c with
  | .eq => ~~~x
  | .ne => x
  | .lt => ~~~y
  | .ge => y

/-- Rows added into the rows of `d` from row `j` on, modulo the width. -/
def addFrom (d : List Row) (j : Nat) (y : Nat → Row) (c : Row) : List Row :=
  d.take j ++ (addRows (d.drop j) ((List.range (d.length - j)).map y) c).1

/-- BMACT (R329). -/
def mactRows (d t : List Row) (x : Word) (sgn : Bool) : List Row :=
  let nz := t.getD 0 0
  let sg := t.getD 1 0
  let p := nz &&& ~~~sg
  let q := nz &&& sg
  let xb (k : Nat) : Bool := if sgn then x.getLsbD (Nat.min k 7) else decide (k < 8) && x.getLsbD k
  addFrom d 0 (fun k => if xb k then p else q) q

/-- BMULC: d ← a × c (R330). -/
def mulcRows (a : List Row) (w : Nat) (c : Word) (sgn : Bool) : List Row :=
  (List.range w).foldl (fun d j => if c.getLsbD j then addFrom d j (extRow a sgn) 0 else d) (List.replicate w 0)

/-- BMAC: d ← d + a × b; with .s the last partial product is subtracted (R330). -/
def macRows (d a b : List Row) (sgn : Bool) : List Row :=
  (List.range b.length).foldl (fun d j =>
    let bj := b.getD j 0
    if sgn && j + 1 == b.length then addFrom d j (fun k => bj &&& ~~~(extRow a sgn k)) bj
    else addFrom d j (fun k => extRow a sgn k &&& bj) 0) d

/-- The columns of each subarray from `lo` to below `hi`. -/
def columns (lo hi : Nat) : Row := BitVec.ofNat 524288 ((2 ^ hi - 2 ^ lo) * ((2 ^ 524288 - 1) / (2 ^ 8192 - 1)))

/-- BSHL (R326): values by k bits, or with .c elements by k columns within each subarray. -/
def shlRows (a : List Row) (k : Nat) (col : Bool) : List Row :=
  if col then a.map fun (r : Row) => (r <<< k) &&& columns k 8192
  else (List.range a.length).map fun i => if k ≤ i then a.getD (i - k) 0 else 0

/-- BSHR (R326). -/
def shrRows (a : List Row) (k : Nat) (col sgn : Bool) : List Row :=
  if col then a.map fun (r : Row) => (r >>> k) &&& columns 0 (8192 - k)
  else (List.range a.length).map fun i => extRow a sgn (i + k)

/-- BSEL (R326). -/
def selRows (a b : List Row) (c : Row) : List Row := List.zipWith (fun p q => (p &&& c) ||| (q &&& ~~~c)) a b

/-! ## Elements (R305, R324, R325) -/

/-- A tern code as the pair of plane bits, nz in bit 0 and sg in bit 1; code 10 is placed as (0, 0). -/
def ternPlane (v : Nat) : Nat := if v % 2 = 1 then v % 4 else 0

/-- An element as its plane holds it: reduced, or clamped under .sat, with whether a clamp changed it. -/
def toPlane (t : Tag) (w : Nat) (sgn sat : Bool) (bits : Nat) : Nat × Bool :=
  if t = .tern then (ternPlane bits, false)
  else
    let x := (intVal t bits).1
    let r := satInt (if sgn then -(2 ^ (w - 1) : Nat) else 0) (if sgn then (2 ^ (w - 1) : Nat) - 1 else (2 ^ w : Nat) - 1) x
    if sat then (intBits w r.1, !(r.2 == 0)) else (intBits w x, false)

/-- An element as its tag holds it: extended by sign with .s, by zeros without, or as a tern code. -/
def ofPlane (t : Tag) (w : Nat) (sgn : Bool) (v : Nat) : Nat :=
  if t = .tern then ternPlane v else if sgn then intBits (tagWidth t) (signedOf w v) else v

/-- The bits of column `c` of the rows of a plane. -/
def columnOf (rows : List Row) (c : Nat) : Nat := rows.foldr (fun r n => 2 * n + (if r.getLsbD c then 1 else 0)) 0

/-- Bit `k` of each of a list of elements, the first in bit 0. -/
def bitColumn (k : Nat) (xs : List Nat) : Nat := xs.foldr (fun x n => 2 * n + x / 2 ^ k % 2) 0

/-- The rows of one group with the elements `xs` placed from column `c` on. -/
def placeRows (rows : List Row) (c : Nat) (xs : List Nat) : List Row :=
  let mask : Row := BitVec.ofNat 524288 (2 ^ xs.length - 1) <<< c
  (List.range rows.length).map fun k =>
    (rows.getD k 0 &&& ~~~mask) ||| (BitVec.ofNat 524288 (bitColumn k xs) <<< c)

/-- The elements of a list that fall into group `i` when the first is element `first`: their first column, and they. -/
def sliceOf (first i : Nat) (xs : List Nat) : Nat × List Nat :=
  let lo := i * groupCols
  if first < lo then (0, (xs.drop (lo - first)).take groupCols)
  else if first < lo + groupCols then (first - lo, xs.take (lo + groupCols - first)) else (0, [])

/-! ## The row cycles of a member (R317, R330) -/

/-- Row cycles of a member with destination or only width `w`, `wa` and `wb` the widths of its sources. -/
def rowCycles (i : Instr) (w wa wb : Nat) (x : Word) : Nat :=
  let sum (l : List Nat) : Nat := l.foldl (· + ·) 0
  match i with
  | .band .. | .bor .. => 3 * w
  | .bxor .. => 5 * w
  | .bmaj .. => 4 * w
  | .bsel .. => 6 * w
  | .badd _ _ _ sgn sat => 5 * w + 1 + (if sat then if sgn then 4 * w + 10 else 2 * w + 1 else 0)
  | .bsub _ _ _ sgn sat => 6 * w + 1 + (if sat then if sgn then 4 * w + 10 else 2 * w + 1 else 0)
  | .bmulc .. => w + sum ((List.range w).map fun j => if x.getLsbD j then 5 * (w - j) + 1 else 0)
  | .bmac _ _ _ sgn =>
    sum ((List.range wb).map fun j => 1 + sum ((List.range (w - j)).map fun k => if sgn || decide (k < wa) then 7 else 5)) +
      (if sgn then 1 else 0)
  | .bmact .. => 5 * w + 4
  | .bcmp _ _ _ c _ => match c with | .eq | .ne => 6 * wa + 2 | _ => 3 * wa + 2
  | .bshl _ _ k col => if col then Nat.max k.toNat 1 * w else w
  | .bshr _ _ k col _ => if col then Nat.max k.toNat 1 * w else w
  | _ => w

end Sys2Proof.Machine
end

