-- ==== Sys2Proof/Machine/ScalarMem.lean ====
section
/-! DEFINITION. Scalar loads and stores of shared memory (R112, R114, R454), of the stack control space (R214), and of
scalar data memory (R113). -/

namespace Sys2Proof.Machine

/-- The canonical address of a scalar access outside the private window: a compute hart's is translated (R235), a service
core's is physical (R454). -/
def State.access (s : State) (k : Access) (a : Word) : Res (State × Nat × Bool) :=
  if s.hart.service then
    match if a.toNat < 0x1000000000000 then canonical a.toNat else none with
    | some p => .ok (s, p, false)
    | none => .trap 0x0C a
  else
    (translateAll s k [(1, a)] s.walks).andThen (fun _ => (s, 0, false)) fun x =>
      .ok (s.setTlb x.2, x.1.headD (0, false))

/-- The `n` bytes that a scalar load reads in the private window: only a service core reads there, its firmware image, and
its control space with 8 bytes (R112, R214, R454). -/
def State.windowRead (s : State) (a : Word) (n : Nat) : Res Nat :=
  let o := a.toNat - Config.window
  if !s.hart.service then .trap 0x0C a
  else if 0x400000 ≤ o ∧ o + n ≤ 0x400000 + s.image.length ∧ o < 0x800000 then .ok (bytesAt s.image (o - 0x400000) n)
  else if 0x800000 ≤ o ∧ o < 0xC00000 ∧ n = 8 then
    match s.controlRead s.stk (o - 0x800000) with
    | some x => .ok x.toNat
    | none => .trap 0x0C a
  else .trap 0x0C a

/-- The value of the `n` bytes that a scalar load reads at `a`, with the state after the read. -/
def State.load (s : State) (a : Word) (n : Nat) : Res (State × Nat) :=
  check (a.toNat % n == 0) 0x0B a <|
  if inWindow a.toNat then (s.windowRead a n).andThen (fun x => (s, x)) fun x => .ok (s, x)
  else (s.access .read a).andThen (fun x => (x.1, 0)) fun x =>
    ((if x.1.reads x.2.1 n then x.1.ensure (sectorOf x.2.1) x.2.2 else .ok x.1).keepWalks x.1).andThen (fun s => (s, 0)) fun s =>
      .ok (s, s.viewN x.2.1 n)

/-- The low 8n bits of a number, sign-extended or zero-extended to 64 bits. -/
def extend (signed : Bool) (n x : Nat) : Word :=
  if signed then (BitVec.ofNat (8 * n) x).signExtend 64 else (BitVec.ofNat (8 * n) x).setWidth 64

/-- A scalar load (R112). -/
def loadWord (s : State) (i : Instr) (signed : Bool) (n : Nat) (sd sa : SReg) (imm : BitVec 15) :
    Host.Outcome State Fault Refusal :=
  word s i fun s =>
    (s.load (s.rs sa + imm.signExtend 64) n).andThen Prod.fst fun x => x.1.setS sd (extend signed n x.2)

/-- A store to the private window: a service core writes its control space with 8 bytes. -/
def State.windowStore (s : State) (a : Word) (n : Nat) (x : Word) : Res State :=
  let o := a.toNat - Config.window
  if s.hart.service && decide (0x800000 ≤ o ∧ o < 0xC00000 ∧ n = 8) then
    match s.controlWrite s.stk (o - 0x800000) x with
    | some s' => .ok s'
    | none => .trap 0x0C a
  else .trap 0x0C a

/-- The low `n` bytes of `x` stored at canonical address `p`, in log staging or, by a service core, in its service log. -/
def State.storeAt (s : State) (p n : Nat) (x : Word) : Res State :=
  let bs := (List.range n).map fun j => (p + j, x.extractLsb' (8 * j) 8)
  if s.hart.service then s.serviceStore bs else s.storeBytes bs

/-- A store of the low `n` bytes of `x` at `a`. -/
def State.store (s : State) (a : Word) (n : Nat) (x : Word) : Res State :=
  check (a.toNat % n == 0) 0x0B a <|
  if inWindow a.toNat then s.windowStore a n x
  else (s.access .write a).andThen Prod.fst fun y => y.1.storeAt y.2.1 n x

/-- A scalar store (R112). -/
def storeWord (s : State) (i : Instr) (n : Nat) (sb sa : SReg) (imm : BitVec 15) : Host.Outcome State Fault Refusal :=
  word s i fun s => (s.store (s.rs sa + imm.signExtend 64) n (s.rs sb)).then fun s => .ok s.next

/-- R112. -/
def execLdB (sd sa : SReg) (imm : BitVec 15) (s : State) : Host.Outcome State Fault Refusal :=
  loadWord s (.ldB sd sa imm) true 1 sd sa imm

/-- R112. -/
def execLdH (sd sa : SReg) (imm : BitVec 15) (s : State) : Host.Outcome State Fault Refusal :=
  loadWord s (.ldH sd sa imm) true 2 sd sa imm

/-- R112. -/
def execLdW (sd sa : SReg) (imm : BitVec 15) (s : State) : Host.Outcome State Fault Refusal :=
  loadWord s (.ldW sd sa imm) true 4 sd sa imm

/-- R112. -/
def execLdD (sd sa : SReg) (imm : BitVec 15) (s : State) : Host.Outcome State Fault Refusal :=
  loadWord s (.ldD sd sa imm) true 8 sd sa imm

/-- R112. -/
def execLdBU (sd sa : SReg) (imm : BitVec 15) (s : State) : Host.Outcome State Fault Refusal :=
  loadWord s (.ldBU sd sa imm) false 1 sd sa imm

/-- R112. -/
def execLdHU (sd sa : SReg) (imm : BitVec 15) (s : State) : Host.Outcome State Fault Refusal :=
  loadWord s (.ldHU sd sa imm) false 2 sd sa imm

/-- R112. -/
def execLdWU (sd sa : SReg) (imm : BitVec 15) (s : State) : Host.Outcome State Fault Refusal :=
  loadWord s (.ldWU sd sa imm) false 4 sd sa imm

/-- R112. -/
def execStB (sb sa : SReg) (imm : BitVec 15) (s : State) : Host.Outcome State Fault Refusal :=
  storeWord s (.stB sb sa imm) 1 sb sa imm

/-- R112. -/
def execStH (sb sa : SReg) (imm : BitVec 15) (s : State) : Host.Outcome State Fault Refusal :=
  storeWord s (.stH sb sa imm) 2 sb sa imm

/-- R112. -/
def execStW (sb sa : SReg) (imm : BitVec 15) (s : State) : Host.Outcome State Fault Refusal :=
  storeWord s (.stW sb sa imm) 4 sb sa imm

/-- R112. -/
def execStD (sb sa : SReg) (imm : BitVec 15) (s : State) : Host.Outcome State Fault Refusal :=
  storeWord s (.stD sb sa imm) 8 sb sa imm

/-- The checks of an offset into scalar data memory (R113). -/
def sdmCheck {α : Type} (o : Word) (k : Res α) : Res α :=
  check (decide (o.toNat < 65536)) 0x0D o (check (o.toNat % 8 == 0) 0x0B o k)

/-- R113. -/
def execLdsd (sd sa : SReg) (imm : BitVec 15) (s : State) : Host.Outcome State Fault Refusal :=
  word s (.ldsd sd sa imm) fun s =>
    let o := s.rs sa + imm.signExtend 64
    sdmCheck o (s.setS sd (BitVec.ofNat 64 (privRead s.hart.regs.sdm o.toNat 8)))

/-- R113. -/
def execStsd (sb sa : SReg) (imm : BitVec 15) (s : State) : Host.Outcome State Fault Refusal :=
  word s (.stsd sb sa imm) fun s =>
    let o := s.rs sa + imm.signExtend 64
    sdmCheck o (.ok (s.modRegs fun r => { r with
      sdm := privWrite r.sdm o.toNat 8 (r.rs sb).toNat, sdmDirty := r.sdmDirty ||| 1#32 <<< (o.toNat / 2048) }).next)

end Sys2Proof.Machine
end

