-- ==== Sys2Proof/Machine/HomeOps.lean ====
section
/-! DEFINITION. Home operations (R272, R289 to R294): the operation at a location, its application at home, and the
sending and the end of an operation at its hart. -/

namespace Sys2Proof.Machine

/-! ## At home -/

/-- What a home operation writes at a location of `n` bytes that holds `old` (R290, R291, R293). -/
def HomeFn.apply (fn : HomeFn) (n old y z : Nat) : Nat :=
  let w := 8 * n
  let a : BitVec w := BitVec.ofNat w old
  let b : BitVec w := BitVec.ofNat w y
  let fp (op : FNum → FNum → FNum × FpFlags) : Nat :=
    (roundTo fmtF32 ⟨false, false⟩ (op (fmtF32.number old) (fmtF32.number y)).1 .rne 0).1
  match fn with
  | .read => old
  | .add => (a + b).toNat
  | .and => (a &&& b).toNat
  | .or => (a ||| b).toNat
  | .xor => (a ^^^ b).toNat
  | .min => if a.slt b then old else b.toNat
  | .max => if a.slt b then b.toNat else old
  | .minu => if a.ult b then old else b.toNat
  | .maxu => if a.ult b then b.toNat else old
  | .swap => b.toNat
  | .cas => if a = b then z % 2 ^ w else old
  | .fadd => fp fun x y => x.add y .rne
  | .fmin => fp fun x y => (x.min y, 0)
  | .fmax => fp fun x y => (x.max y, 0)

/-- One location of a home operation applied: the result is the old value, or all ones at a poisoned sector, which stays
unchanged and is recorded (R294). -/
def State.applyEl (s : State) (el : HomeEl) : State × Word :=
  let sec := sectorOf el.addr
  if s.badSector sec then
    ((s.pfb (homeOf sec) 0x0A 60 0 0 el.hart (BitVec.ofNat 64 sec) 0).count (homeOf sec) 0x08 1, BitVec.allOnes 64)
  else
    let old := s.mem.readN el.addr el.size
    let new := el.fn.apply el.size old el.y.toNat el.z.toNat
    ({ s with mem := s.mem.writeN el.addr el.size new }.cacheWrite sec, BitVec.ofNat 64 old)

/-- Locations numbered from here on return no result. -/
def noReply : Nat := 65536

/-- What has arrived at a stack and has to wait, behind what arrived before it. -/
def State.keepArrival (s : State) (stk : Nat) (a : Arrival) : State := s.modStack stk fun t => { t with arrivals := t.arrivals ++ [a] }

/-- A result of a home operation received by its requester. -/
def Hart.answer (h : Hart) (idx : Nat) (x : Word) : Hart :=
  { h with results := h.results.put idx x, awaiting := h.awaiting - 1 }

/-- The stack that a reply kept at another is for. -/
def State.replyTo (s : State) (a : Arrival) : Option Nat :=
  match a with
  | .reply ctx _ _ => (s.ctx ctx).map Hart.stk
  | .sector id _ _ _ => (s.gathers.find? fun e => e.1 == id).map fun e => e.2.reader.stk
  | _ => none

/-- A reply of one stack reaches another now: a path leads there, and none sent there before it waits (R398, R402). -/
def State.replyFree (s : State) (a b : Nat) : Bool :=
  s.reaches a b && !((s.stack a).arrivals.any fun x => s.replyTo x == some b)

/-- A result sent from a stack to its requester; while no path leads there it waits, behind those sent before it (R398, R402). -/
def State.reply (s : State) (stk req idx : Nat) (x : Word) : State :=
  match s.ctx req with
  | none => s
  | some h => if s.replyFree stk h.stk then s.modCtx req fun h => h.answer idx x else s.keepArrival stk (.reply req idx x)

/-- The locations of a home operation applied in order, their results sent to the requester. -/
def State.applyEls (s : State) (req : Nat) : List HomeEl → State
  | [] => s
  | el :: r =>
    let x := s.applyEl el
    State.applyEls (if noReply ≤ el.idx then x.1 else x.1.reply (homeOf el.addr) req el.idx x.2) req r

/-! ## At the hart -/

/-- A home operation of the selected context sent under one key, an entry for each location, which names the hart that it issues from
(R272, R292, R294, R351). -/
def State.sendHome (s : State) (els : List HomeEl) : State :=
  let k := s.nextKey
  let me := s.hart.key
  let s := s.takeKey.deliver (els.map fun e =>
    (homeOf e.addr, { key := k, sub := e.idx, body := .op me [{ e with hart := s.hart.loc }], origin := .homeOp me }))
  s.modHart fun h => { h with awaiting := h.awaiting + (els.filter fun e => decide (e.idx < noReply)).length }

/-- The source can give a key now; a service core covers nothing. -/
def State.canKey (s : State) : Bool := s.keyReady

/-- The publication of .rel at hart scope, before the operation's key: none when it is done or not needed. The place of the
operation is kept, since nothing may fail once the publication has left (R208). -/
def State.release (s : State) (rel : Bool) (place : Option Nat) : Option (Res State) :=
  match rel && !s.hart.service, s.hart.phase with
  | false, _ => none
  | true, .published _ => none
  | true, _ => some ((s.publish 0 false).then fun s =>
      .wait (s.modHart fun h => { h with att := { h.att with place := place } }) (.published (s.log s.hart.key).ptKey))

/-- The place of a home operation whose publication has left. -/
def State.placed (s : State) : Option Nat :=
  match s.hart.phase with
  | .published _ => s.hart.att.place
  | _ => none

/-- The commit of a home operation: .rel publishes, then the operation takes its key and leaves. -/
def State.commitHome (s : State) (rel : Bool) (els : List HomeEl) : Res State :=
  match s.release rel (els.head?.map fun e => e.addr) with
  | some r => r
  | none =>
    if !s.canKey then .wait s (match s.hart.phase with | .published k => .published k | _ => .ordering)
    else .ok (s.sendHome els)

/-- The end of .acq: once S reaches the key, all sectors are refreshed to it and the floor is raised (R272). A service core
changes no view (R275). -/
def State.acquireKey (s : State) (acq : Bool) (k : Key) : Option State :=
  if !acq || s.hart.service then some s
  else if k.le s.settled then
    some ((s.refreshAll s.hart.core k).modLog s.hart.key fun l => { l with floor := l.floor.max k })
  else none

/-- .acq is named by an order. -/
def Order.acq : Order → Bool
  | .acq | .ar => true
  | _ => false
/-- .rel is named by an order. -/
def Order.rel : Order → Bool
  | .rel | .ar => true
  | _ => false

/-- A scalar home operation: the checks of R112, the commit, the wait for the result, .acq, and the result written under
the late check (R104). -/
def homeWord (s : State) (i : Instr) (a : State → Word) (n : Nat) (k : Access) (acq rel signed : Bool)
    (el : State → Nat → HomeEl) (sd : SReg) : Host.Outcome State Fault Refusal :=
  word s i fun s =>
    match s.hart.phase with
    | .requested key => .wait s (.requested key)
    | .returned key xs =>
      (match s.acquireKey acq key with
        | some s => s.setLate sd (extend signed n (xs.headD 0).toNat)
        | none => .wait s (.returned key xs))
    | _ =>
      let va := a s
      let send (s : State) (p : Nat) : Res State :=
        (s.commitHome rel [el s p]).then fun s' => .wait s' (.requested s.nextKey)
      match s.placed with
      | some p => send s p
      | none =>
        check (va.toNat % n == 0) 0x0B va <|
        check (!inWindow va.toNat) 0x0C va <|
        (s.access k va).andThen Prod.fst fun x => send x.1 x.2.1

end Sys2Proof.Machine
end

