-- ==== Sys2Proof/Machine/Bank.lean ====
section
/-! DEFINITION. The bank members (R317 to R331): their checks, and what each does at its commit point (R306, R318). -/

namespace Sys2Proof.Machine

/-! ## Locks and slots as a gang sees them -/

/-- Locks of a gang that no release has begun for (R306). -/
def Stack.gangLocks (t : Stack) (g : Nat) : List (Nat × RowLock) :=
  t.locks.filter fun e => e.2.gang == g && e.2.releasing == none && !e.2.ending

/-- A frame is locked by a gang. -/
def Stack.lockedBy (t : Stack) (g f : Nat) : Bool := (t.gangLocks g).any fun e => e.2.covers f

/-- Entries of the row-lock table (R374). -/
def lockSlots : Nat := 64

/-- A free entry of the row-lock table. -/
def Stack.freeLock (t : Stack) : Option Nat := (List.range lockSlots).find? fun n => !(t.locks.any fun e => e.1 == n)

/-- The frames of a lock. -/
def RowLock.frames (l : RowLock) : List Nat :=
  (List.range l.an).flatMap fun g => (List.range l.rows).map fun r => frameNo (l.a0 + g) (l.row + r)

/-- Two locks share a row. -/
def RowLock.overlaps (a b : RowLock) : Bool :=
  decide (a.a0 < b.a0 + b.an) && decide (b.a0 < a.a0 + a.an) && decide (a.row < b.row + b.rows) && decide (b.row < a.row + a.rows)

/-- The reservation that a compute slot is kept for (R375): the slots of the reservations come first, in their order. -/
def Stack.slotOwner (t : Stack) (n : Nat) : Option Nat :=
  ((List.range 8).foldl (fun (r : Nat × Option Nat) j =>
    let v := t.sprints.look j {}
    if v.valid then (r.1 + v.slots, if r.1 ≤ n ∧ n < r.1 + v.slots then some j else r.2) else r) (0, none)).2

/-- The slots free to a gang of a class on a core with its allocation on a die, its own reservation's first (R320, R375). -/
def Stack.slotsFor (t : Stack) (sprint : Bool) (core die : Nat) : List Nat :=
  let mine (j : Nat) : Bool := (t.sprints.look j {}).cores.getLsbD core
  if (List.range 8).any fun j => (t.sprints.look j {}).valid && (t.sprints.look j {}).dies.getLsbD die && !mine j then []
  else
    let open_ := (List.range 128).filter fun n => t.slots.look n 0 == 0
    (open_.filter fun n => match t.slotOwner n with | some j => sprint && mine j | none => false) ++
      (open_.filter fun n => t.slotOwner n == none)

/-- A group can join a grant: not retired, and no row of it locked by another gang (R320). -/
def Stack.groupOpen (t : Stack) (gang g : Nat) : Bool :=
  !(t.groups.look g {}).retired &&
  !(t.locks.any fun e => !(e.2.gang == gang) && decide (e.2.a0 ≤ g) && decide (g < e.2.a0 + e.2.an) && decide (0 < e.2.rows))

/-! ## Checks (R319) -/

/-- The selected context's gang, as the bank rules see it. -/
def State.bankGang (s : State) : Gang := s.gang s.hart.gangKey
/-- BVLEN (R307). -/
def State.bvlen (s : State) : Nat := groupCols * s.bankGang.grant

/-- The lowest failing reason of a list in rising order. -/
def lowest : List (Bool × Nat) → Option Nat
  | [] => none
  | (b, r) :: l => if b then some r else lowest l

/-- A bank fault; the fault that reports a torn row clears the notice (R306). -/
def State.bankFault (s : State) (r : Nat) : Res State :=
  if r = 8 then
    .ok ((s.modGang s.hart.gangKey fun g => { g with torn := false }).takeTrap 0x20 (classVal s.hart.cv.idx r) s.hart.pc)
  else .trap 0x20 (classVal s.hart.cv.idx r)

/-- Go on unless a condition of R319 fails. -/
def bankChecks (s : State) (rs : List (Bool × Nat)) (k : Res State) : Res State :=
  match lowest rs with
  | some r => s.bankFault r
  | none => k

/-- The frames of rows in the groups granted, from offset `q`. -/
def State.bankFrames (s : State) (q : Nat) (rows : List Nat) : List Nat :=
  (List.range s.bankGang.grant).flatMap fun i => rows.map fun r => frameNo (s.bankGang.a0 + q + i) r

/-- The checks 1 to 13 of R319 on the planes a member names; `more` are frames outside planes, `moreW` whether it writes
them, `high` whether an element range exceeds BVLEN, `away` whether an address is homed elsewhere. -/
def State.planeFaults (s : State) (dst : Option (BitVec 128)) (srcs writes : List (BitVec 128)) (mul rule : Bool)
    (more : List Nat) (moreW high away : Bool) : List (Bool × Nat) :=
  let t := s.stack s.stk
  let g := s.bankGang
  let ps := dst.toList ++ srcs
  let q := (ps.map planeOff).headD 0
  let fs := (ps.flatMap fun p => s.bankFrames (planeOff p) (planeRows p)) ++ more
  let wr := (writes.flatMap fun p => s.bankFrames (planeOff p) (planeRows p)) ++ (if moreW then more else [])
  let clash (d p : BitVec 128) : Bool :=
    ((planeRows d).any fun r => (planeRows p).contains r) && (mul || !(planeRows d == planeRows p))
  [ (ps.any fun p => planeWidth p == 0, 1),
    ((ps.any fun p => !(planeOff p == q)) || decide (g.an < q + g.grant), 2),
    (!rule, 3),
    (wr.any fun f => !(t.lockedBy s.hart.gangKey f), 4),
    (match dst with | some d => srcs.any (clash d) | none => false, 5),
    (fs.any fun f => !(s.owns s.hart.domain.toNat (frameAddr s.stk f)), 6),
    (fs.any fun f => t.isResident (frameAddr s.stk f), 7),
    (g.torn, 8), (high, 12), (away, 13) ]

/-! ## A member on its way to the BCP -/

/-- A member with what travels with it (R350). -/
def State.bankCmd (s : State) (i : Instr) : BankCmd :=
  { instr := i, stk := s.stk, gang := s.hart.gangKey, log := s.hart.key, sprint := s.hart.sprint,
    domain := s.hart.domain.toNat, a0 := s.bankGang.a0, grant := s.bankGang.grant, vlen := s.hart.regs.vlen }

/-- The die of a member's allocation. -/
def BankCmd.die (c : BankCmd) : Nat := c.a0 / 256

/-- A member on whole planes: its checks, and the member sent. -/
def planeMember (s : State) (i : Instr) (d : Option BReg) (a : BReg) (b c : Option BReg) (bits : Option SReg) (writesA : Bool)
    (rule : BitVec 128 → BitVec 128 → BitVec 128 → BitVec 128 → Bool) (mul : Bool := false) :
    Host.Outcome State Fault Refusal :=
  member s i fun s =>
    let reg (r : Option BReg) : BitVec 128 := match r with | some r => s.src.rb r | none => 0
    let pd := reg d
    let pa := s.src.rb a
    let srcs := pa :: (b.toList ++ c.toList).map fun r => s.src.rb r
    bankChecks s (s.planeFaults (d.map fun r => s.src.rb r) srcs ((d.map fun r => s.src.rb r).toList ++ (if writesA then [pa] else []))
      mul (rule pd pa (reg b) (reg c)) [] false false false) <|
    let x := match bits with | some r => s.src.rs r | none => 0
    .ok (s.effect (.bank { s.bankCmd i with d := pd, a := pa, b := reg b, c := reg c, x := x } false))

/-- All planes have the destination's width (R326, R327). -/
def sameWidths (n : Nat) (d a b c : BitVec 128) : Bool :=
  planeWidth a == planeWidth d && (decide (n < 2) || planeWidth b == planeWidth d) && (decide (n < 3) || planeWidth c == planeWidth d)

/-! ## Control members -/

/-- Results of BSETL, BTOV and BRED are numbered from here. -/
def bankResults : Nat := 32768

/-- The result of a bank member that answers in one word; none when it completed without effect. -/
def Hart.bankWord (h : Hart) : Option Word :=
  if h.results.any fun e => e.1 == bankResults then some (h.results.look bankResults 0) else none

/-- R320: the length granted at the commit point returns to the convoy. -/
def execBsetl (sd sa : SReg) (s : State) : Host.Outcome State Fault Refusal :=
  member s (.bsetl sd sa) fun s =>
    match s.hart.phase with
    | .returned _ _ => .ok (match s.hart.bankWord with | some x => s.memberLate sd x | none => s)
    | _ =>
      bankChecks s [(s.bankGang.torn, 8)] <|
      .ok (s.effect (.bank { s.bankCmd (.bsetl sd sa) with x := s.src.rs sa } true))

/-- R321. -/
def execBalloc (sa sb : SReg) (s : State) : Host.Outcome State Fault Refusal :=
  member s (.balloc sa sb) fun s =>
    let a := (s.src.rs sa).toNat
    let n := (s.src.rs sb).toNat
    let bad := decide (128 < n) || decide (3072 < a + n) || (decide (0 < n) && !(a / 256 == (a + n - 1) / 256)) ||
      !((s.stack s.stk).gangLocks s.hart.gangKey).isEmpty
    bankChecks s [(s.bankGang.torn, 8), (bad, 11)] <|
    .ok (s.effect (.bank { s.bankCmd (.balloc sa sb) with x := s.src.rs sa, y := s.src.rs sb } false))

/-- A value of R307 that BPLANE accepts (R322). -/
def planeValid (v : Word) : Bool :=
  let p : BitVec 128 := v.setWidth 128
  let w := planeWidth p
  v.extractLsb' 42 22 == 0 && v.extractLsb' 30 2 == 0 && v.extractLsb' 13 11 == 0 && !v.getLsbD 7 &&
  decide (1 ≤ w) && decide (w ≤ 32) && decide (planeBase p + w ≤ 992) &&
  match Tag.ofCode (v.extractLsb' 8 5) with
  | some t => if t = .tern then w == 2 else tagInt t && decide (w ≤ tagWidth t)
  | none => false

/-- R322. -/
def execBplane (bd : BReg) (sa : SReg) (s : State) : Host.Outcome State Fault Refusal :=
  member s (.bplane bd sa) fun s =>
    let v := s.src.rs sa
    bankChecks s [(!planeValid v, 15)] <|
    .ok (s.modRegs fun r => r.wb bd (v.setWidth 128))

/-- A plane register with another base row. -/
def withBase (x : BitVec 128) (b : Nat) : BitVec 128 :=
  (x &&& ~~~(0x3FF#128 <<< 32)) ||| (BitVec.ofNat 128 (b % 1024) <<< 32)

/-- R322. -/
def execBnext (sa : SReg) (s : State) : Host.Outcome State Fault Refusal :=
  member s (.bnext sa) fun s =>
    let ns := (List.range 32).filter fun n => (s.src.rs sa).getLsbD n
    let reg (n : Nat) : BitVec 128 := s.src.rb (BitVec.ofNat 5 n)
    let base (n : Nat) : Int := planeBase (reg n) + planeWidth (reg n) * s.src.bstride.toInt
    bankChecks s [(ns.any fun n => planeWidth (reg n) == 0, 1),
      (ns.any fun n => decide (base n < 0) || decide ((992 : Int) - planeWidth (reg n) < base n), 14)] <|
    .ok (s.modRegs fun r => ns.foldl (fun r n => r.wb (BitVec.ofNat 5 n) (withBase (reg n) (base n).toNat)) r)

/-- The lease that BRLK's operand names (R323). -/
def leaseOf (x : Word) : Nat := if x = 0 ∨ Config.maxLease < x.toNat then Config.maxLease else x.toNat

/-- R323. -/
def execBrlk (sa sb sc : SReg) (s : State) : Host.Outcome State Fault Refusal :=
  member s (.brlk sa sb sc) fun s =>
    let r := (s.src.rs sa).toNat
    let n := (s.src.rs sb).toNat
    let t := s.stack s.stk
    let g := s.bankGang
    let meets := (t.gangLocks s.hart.gangKey).any fun e => decide (e.2.row < r + n) && decide (r < e.2.row + e.2.rows)
    let bad := n == 0 || decide (992 < r + n) || meets || t.freeLock == none
    let frames := (List.range g.an).flatMap fun i => (List.range (Nat.min n (992 - r))).map fun k => frameNo (g.a0 + i) (r + k)
    bankChecks s [(frames.any fun f => t.isResident (frameAddr s.stk f), 7), (g.torn, 8), (bad, 9)] <|
    .ok (s.effect (.bank { s.bankCmd (.brlk sa sb sc) with
      x := s.src.rs sa, y := s.src.rs sb, z := BitVec.ofNat 64 (leaseOf (s.src.rs sc)) } false))

/-- The lock with exactly these rows. -/
def State.lockAt (s : State) (g : Nat) (r n : Word) : Option Nat :=
  (((s.stack s.stk).gangLocks g).find? fun e => e.2.row == r.toNat && e.2.rows == n.toNat).map Prod.fst

/-- R323. -/
def execBrul (sa sb : SReg) (s : State) : Host.Outcome State Fault Refusal :=
  member s (.brul sa sb) fun s =>
    let l := s.lockAt s.hart.gangKey (s.src.rs sa) (s.src.rs sb)
    bankChecks s [(s.bankGang.torn, 8), (l.isNone, 10)] <|
    .ok (s.effect (.bank { s.bankCmd (.brul sa sb) with x := s.src.rs sa, y := s.src.rs sb, lock := l.getD 0 } false))

/-- R331. -/
def execBseal (ba : BReg) (s : State) : Host.Outcome State Fault Refusal :=
  planeMember s (.bseal ba) none ba none none none true fun _ _ _ _ => true

/-- R331: the wait for every earlier bank member, then the status word, which is cleared. A torn notice is reported first, but not
again by a BWAIT that has gone to sleep (R318, R319). -/
def execBwait (sd : SReg) (s : State) : Host.Outcome State Fault Refusal :=
  member s (.bwait sd) fun s =>
    let l := s.log s.hart.key
    bankChecks s [(s.bankGang.torn && !(s.hart.phase == .bankWait), 8)] <|
    if l.bankOut ≠ 0 then .wait s .bankWait
    else .ok ((s.modLog s.hart.key fun l => { l with status := 0 }).memberLate sd (l.status.setWidth 64))

/-! ## Transfers -/

/-- The bytes that `n` elements of a plane's tag take in memory (R280). -/
def planeBytes (p : BitVec 128) (n : Nat) : Nat := ceilDiv (n * tagWidth (planeTag p)) 8

/-- The canonical address of byte `j` of a range from `a` whose granules start at these canonical addresses. -/
def granuleByte (gs : List Word) (a j : Nat) : Nat :=
  (gs.getD ((a + j) / 4096 - a / 4096) 0).toNat + (a + j) % 4096

/-- BLDP and BSTP (R324): the range of elements first, then alignment and translation in the scalar bank, then the other
checks. -/
def memoryMember (s : State) (i : Instr) (p : BitVec 128) (a n : Word) (store : Bool) (cmd : BankCmd → BankCmd) :
    Host.Outcome State Fault Refusal :=
  member s i fun s =>
    let w := tagWidth (planeTag p)
    bankChecks s [(decide (s.bvlen < n.toNat), 12)] <|
    check (a.toNat % (if w = 4 then 1 else w / 8) == 0) 0x0B a <|
    let as := (granuleStarts a.toNat (planeBytes p n.toNat)).map fun x => (1, BitVec.ofNat 64 x)
    (translateAll s (if store then .write else .read) as s.walks).andThen (fun _ => s) fun x =>
      let pages := x.1.map fun y => y.1 / 4096 * 4096
      let here := pages.filter fun y => homeOf y == s.stk
      let fs := (here.map frameOf).eraseDups
      bankChecks s (s.planeFaults (if store then none else some p) (if store then [p] else []) (if store then [] else [p])
        false true fs store false (here.length != pages.length)) <|
      .ok ((s.setTlb x.2).effect (.bank (cmd { s.bankCmd i with
        x := a, y := n, elems := pages.map fun y => BitVec.ofNat 64 y }) false))

/-- R324. -/
def execBldp (bd : BReg) (sa sb : SReg) (sgn sat : Bool) (s : State) : Host.Outcome State Fault Refusal :=
  let p := s.src.rb bd
  memoryMember s (.bldp bd sa sb sgn sat) p (s.src.rs sa) (s.src.rs sb) false fun c => { c with d := p }

/-- R324. -/
def execBstp (ba : BReg) (sa sb : SReg) (sgn : Bool) (s : State) : Host.Outcome State Fault Refusal :=
  let p := s.src.rb ba
  memoryMember s (.bstp ba sa sb sgn) p (s.src.rs sa) (s.src.rs sb) true fun c => { c with a := p }

/-- BTOV's destination with the elements that have returned; before they have, it holds zeros under its new tag, which is
what chained members check (R99). -/
def State.btovWrite (s : State) (vd : VReg) (t : Tag) : State :=
  s.writeVAny (decide (0 < s.hart.regs.vlen)) ⟨0, false, false⟩ vd t
    ((List.range s.hart.regs.vlen).map fun e => (e, (s.hart.results.look (bankResults + e) 0).toNat % 2 ^ tagWidth t)) keepScales

/-- R325: the elements are requested at the commit point; the convoy runs again when they have returned. One that completed
without effect changes nothing (R315). -/
def execBtov (vd : BitVec 5) (ba : BReg) (sk : SReg) (sgn : Bool) (s : State) : Host.Outcome State Fault Refusal :=
  member s (.btov vd ba sk sgn) fun s =>
    let p := s.src.rb ba
    let t := planeTag p
    match s.hart.phase with
    | .returned _ _ => .ok (if s.hart.bankWord.isSome || s.hart.regs.vlen == 0 then s.btovWrite (vd.setWidth 6) t else s)
    | _ =>
      lengths s [(vd.setWidth 6, tagWidth t)] <|
      bankChecks s (s.planeFaults none [p] [] false true [] false
        (decide (s.bvlen < (s.src.rs sk).toNat + s.hart.regs.vlen)) false) <|
      .ok ((s.btovWrite (vd.setWidth 6) t).effect (.bank { s.bankCmd (.btov vd ba sk sgn) with a := p, x := s.src.rs sk } true))

/-- R325. -/
def execVtob (bd : BReg) (v : BitVec 5) (sk : SReg) (sgn sat : Bool) (s : State) : Host.Outcome State Fault Refusal :=
  member s (.vtob bd v sk sgn sat) fun s =>
    let va : VReg := v.setWidth 6
    let p := s.src.rb bd
    let r := s.src.rv va
    let w := tagWidth r.tag
    if r.tag ≠ planeTag p then .trap 0x15 (s.mismatch (tagCode r.tag) (tagCode (planeTag p)) 0x1F)
    else
      lengths s [(va, w)] <|
      parity s [va] <|
      bankChecks s (s.planeFaults (some p) [] [p] false true [] false
        (decide (s.bvlen < (s.src.rs sk).toNat + s.hart.regs.vlen)) false) <|
      let xs := (List.range s.hart.regs.vlen).map fun e => toPlane r.tag (planeWidth p) sgn sat (r.elem s.hart.lanes w e)
      .ok (s.effect (.bank { s.bankCmd (.vtob bd v sk sgn sat) with
        d := p, x := s.src.rs sk, elems := xs.map fun x => BitVec.ofNat 64 x.1, sat := xs.any Prod.snd } false))

/-- R325. -/
def execBred (sd : SReg) (ba : BReg) (s : State) : Host.Outcome State Fault Refusal :=
  member s (.bred sd ba) fun s =>
    let p := s.src.rb ba
    match s.hart.phase with
    | .returned _ _ => .ok (match s.hart.bankWord with | some x => s.memberLate sd x | none => s)
    | _ =>
      bankChecks s (s.planeFaults none [p] [] false true [] false false false) <|
      .ok (s.effect (.bank { s.bankCmd (.bred sd ba) with a := p } true))

/-! ## Logic, selection and shifts (R326) -/

/-- R326. -/
def execBnot (bd ba : BReg) (s : State) : Host.Outcome State Fault Refusal :=
  planeMember s (.bnot bd ba) (some bd) ba none none none false (sameWidths 1)
/-- R326. -/
def execBand (bd ba bb : BReg) (s : State) : Host.Outcome State Fault Refusal :=
  planeMember s (.band bd ba bb) (some bd) ba (some bb) none none false (sameWidths 2)
/-- R326. -/
def execBor (bd ba bb : BReg) (s : State) : Host.Outcome State Fault Refusal :=
  planeMember s (.bor bd ba bb) (some bd) ba (some bb) none none false (sameWidths 2)
/-- R326. -/
def execBxor (bd ba bb : BReg) (s : State) : Host.Outcome State Fault Refusal :=
  planeMember s (.bxor bd ba bb) (some bd) ba (some bb) none none false (sameWidths 2)
/-- R326. -/
def execBmaj (bd ba bb bc : BReg) (s : State) : Host.Outcome State Fault Refusal :=
  planeMember s (.bmaj bd ba bb bc) (some bd) ba (some bb) (some bc) none false (sameWidths 3)
/-- R326: plane c has width 1. -/
def execBsel (bd ba bb bc : BReg) (s : State) : Host.Outcome State Fault Refusal :=
  planeMember s (.bsel bd ba bb bc) (some bd) ba (some bb) (some bc) none false
    fun d a b c => sameWidths 2 d a b c && planeWidth c == 1
/-- R326. -/
def execBshl (bd ba : BReg) (k : BitVec 5) (col : Bool) (s : State) : Host.Outcome State Fault Refusal :=
  planeMember s (.bshl bd ba k col) (some bd) ba none none none false (sameWidths 1)
/-- R326. -/
def execBshr (bd ba : BReg) (k : BitVec 5) (col sgn : Bool) (s : State) : Host.Outcome State Fault Refusal :=
  planeMember s (.bshr bd ba k col sgn) (some bd) ba none none none false (sameWidths 1)

/-! ## Arithmetic (R327 to R330) -/

/-- R327. -/
def execBadd (bd ba bb : BReg) (sgn sat : Bool) (s : State) : Host.Outcome State Fault Refusal :=
  planeMember s (.badd bd ba bb sgn sat) (some bd) ba (some bb) none none false (sameWidths 2)
/-- R327. -/
def execBsub (bd ba bb : BReg) (sgn sat : Bool) (s : State) : Host.Outcome State Fault Refusal :=
  planeMember s (.bsub bd ba bb sgn sat) (some bd) ba (some bb) none none false (sameWidths 2)
/-- R328: equal source widths, a destination of width 1. -/
def execBcmp (bd ba bb : BReg) (c : BCond) (sgn : Bool) (s : State) : Host.Outcome State Fault Refusal :=
  planeMember s (.bcmp bd ba bb c sgn) (some bd) ba (some bb) none none false
    fun d a b _ => planeWidth a == planeWidth b && planeWidth d == 1
/-- R330. -/
def execBmulc (bd ba : BReg) (sc : SReg) (sgn : Bool) (s : State) : Host.Outcome State Fault Refusal :=
  planeMember s (.bmulc bd ba sc sgn) (some bd) ba none none (some sc) false
    (fun d a _ _ => decide (planeWidth a ≤ planeWidth d)) true
/-- R330. -/
def execBmac (bd ba bb : BReg) (sgn : Bool) (s : State) : Host.Outcome State Fault Refusal :=
  planeMember s (.bmac bd ba bb sgn) (some bd) ba (some bb) none none false
    (fun d a b _ => decide (planeWidth a ≤ planeWidth d) && decide (planeWidth b ≤ planeWidth d)) true
/-- R329. -/
def execBmact (bd bt : BReg) (sx : SReg) (sgn : Bool) (s : State) : Host.Outcome State Fault Refusal :=
  planeMember s (.bmact bd bt sx sgn) (some bd) bt none none (some sx) false (fun _ t _ _ => planeTag t == .tern) true

/-! ## The commit point (R306, R318, R320, R321, R323, R349) -/

/-- Entries of the BCP queue in all, and those kept for sprint gangs (R349). -/
def bcpDepth : Nat := 512
/-- Those kept. -/
def bcpKept : Nat := 64

/-- Where a member fits in the BCP queue: some true for a kept entry, none when it is full. -/
def Stack.bcpRoom (t : Stack) (sprint : Bool) : Option Bool :=
  let kept := (t.bcpq.filter fun c => c.kept).length
  if sprint && decide (kept < bcpKept) then some true
  else if t.bcpq.length - kept < bcpDepth - bcpKept then some false else none

/-- A member entered in the BCP queue, outstanding in its log's bank record. -/
def State.enqueueBank (s : State) (c : BankCmd) (kept : Bool) : State :=
  (s.modStack c.stk fun t =>
    { t with bcpq := t.bcpq ++ [{ c with kept := kept, seq := t.bankSeq }], bankSeq := t.bankSeq + 1 }).modLog c.log fun l =>
      { l with bankOut := l.bankOut + 1 }

/-- The grant of BSETL (R320). -/
def State.bankGrant (s : State) (c : BankCmd) : State :=
  let g := s.gang c.gang
  let req := Nat.min (Nat.min (ceilDiv c.x.toNat groupCols) 128) g.an
  let s := s.modStack c.stk fun t => freeSlots t c.gang
  let t := s.stack c.stk
  let free := t.slotsFor c.sprint s.hart.coreNo (g.a0 / 256)
  let run := ((List.range req).takeWhile fun i => t.groupOpen c.gang (g.a0 + i)).length
  let n := Nat.min run free.length
  (s.modStack c.stk fun t => { t with slots := (free.take n).foldl (fun m j => m.put j (c.gang + 1)) t.slots }).modGang c.gang
    fun g => { g with grant := n }

/-- BRUL's publication with what it announces: the rows that it releases under Ku (R267), and an entry of the merge queue for
the release (R351). -/
def State.announceRelease (s : State) (c : BankCmd) : State :=
  let l := s.log s.hart.key
  let q := (l.pt + 2 ^ 48 - 1) % 2 ^ 48
  match (s.stack c.stk).locks.find? fun e => e.1 == c.lock with
  | none => s
  | some (_, r) =>
    ((s.modStack c.stk fun t => { t with
        locks := t.locks.map fun e => if e.1 = c.lock then (e.1, { e.2 with releasing := some l.ptKey }) else e }).modPast s.hart.key
      fun p => { p with releases := p.releases ++
        [{ seq := q, key := l.ptKey, stk := c.stk, a0 := r.a0, an := r.an, row := r.row, rows := r.rows }] }).deliver
      [(c.stk, { key := l.ptKey, sub := q, body := .release c.lock, origin := .release s.hart.key q })]

/-- A bank member at its commit point enters the BCP queue, and waits for an entry (R349). BSETL and BALLOC change the gang's
bank state there (R306), BRLK takes Kl, and BRUL publishes and takes Ku. -/
def State.commitBank (s : State) (c : BankCmd) : Res State :=
  match (s.stack c.stk).bcpRoom c.sprint with
  | none => .wait s .ordering
  | some kept =>
    match c.instr with
    | .bsetl .. =>
      let s := s.bankGrant c
      .ok (s.enqueueBank { c with y := BitVec.ofNat 64 (groupCols * (s.gang c.gang).grant) } kept)
    | .balloc .. =>
      .ok (((s.modStack c.stk fun t => freeSlots t c.gang).modGang c.gang fun g =>
        { g with a0 := c.x.toNat, an := c.y.toNat, grant := 0 }).enqueueBank c kept)
    | .brlk .. =>
      (match (s.stack c.stk).freeLock with
      | none => .wait s .ordering
      | some n =>
        if !s.keyReady then .wait s .ordering
        else
          let k := s.nextKey
          let g := s.gang c.gang
          let l : RowLock := { gang := c.gang, log := c.log, die := g.a0 / 256, a0 := g.a0, an := g.an, row := c.x.toNat,
                               rows := c.y.toNat, kl := k, lease := c.z.toNat }
          let s := s.takeKey.modStack c.stk fun t => { t with locks := t.locks.put n l }
          .ok (s.enqueueBank { c with lock := n } kept))
    | .brul .. =>
      (s.publish 0 true).then fun s =>
        .ok ((s.announceRelease c).enqueueBank { c with key := (s.log s.hart.key).ptKey } kept)
    | _ => .ok (s.enqueueBank c kept)

end Sys2Proof.Machine
end

