-- ==== Sys2Proof/Machine/Reads.lean ====
section
/-! DEFINITION. Reads of home memory from outside (R275, R341, R353, R398, R405): by the ports and by far modules, sector by sector,
each at its home. -/

namespace Sys2Proof.Machine

/-- The agent of a port in its keys (R254). -/
def portAgent (p : Nat) : Nat := if p < 2 then 56 else 57
/-- Its sub (R254). -/
def portSub (p : Nat) : Nat := if p < 2 then 0 else p % 2

/-- The source that keys the writes of a path: its peer port, whose log they are publications of, or the network receiver of
the stack where its frames arrive (R254, R275, R410). -/
def pathSource (path : Nat) : Nat × Nat := if path < 8 then (57, path % 2) else (49, 0)

/-- The source that a reader's requests name. -/
def Reader.source : Reader → Nat
  | .port p => sourceOf (portStack p) (portAgent p) (portSub p)
  | .far path _ _ => sourceOf (pathStack path) (pathSource path).1 (pathSource path).2

/-- The canonical address of a byte that a port reads. -/
def portByte (pa i : Nat) : Nat := (canonical (pa + i)).getD 0

/-- The canonical addresses of the bytes of a read. -/
def readAddrs (pa n : Nat) : List Nat := (List.range n).map (portByte pa)

/-- The answer to a read: a completion at a port; over Ethernet a refusal where a sector gives no good datum, and else the bytes, in
pieces, which go through a peer port with poison where one does (R405). -/
def State.sendRead (s : State) (r : Reader) (bs : List Byte) (bad : Bool) : State :=
  match r with
  | .port p => s.send (.completion p bs bad)
  | .far path serial chunk =>
    if bad && decide (8 ≤ path) then s.sendPacket path { kind := .refused, serial := serial, chunk := chunk : Packet }
    else (piecesOf bs).foldl (fun s b =>
      s.sendPacket path { kind := if bad then .poisoned else .data, serial := serial, chunk := chunk, bytes := b : Packet }) s

/-- A read answered from home memory as it stands. -/
def State.answerRead (s : State) (r : Reader) (pa n : Nat) : State :=
  let as := readAddrs pa n
  (s.readHome (as.map sectorOf).eraseDups).sendRead r (as.map s.mem.read) (as.any fun p => s.badSector (sectorOf p))

/-- A byte of a read whose sectors are here. -/
def Gather.byte (g : Gather) (p : Nat) : Byte :=
  match g.got.find? fun x => x.1 == sectorOf p with
  | some x => x.2.1.extractLsb' (8 * (p % 64)) 8
  | none => 0

/-- A sector of a read has reached the reader's stack: the last one completes the read. -/
def State.gather (s : State) (id sec : Nat) (data : BitVec 512) (bad : Bool) : State :=
  match s.gathers.find? fun e => e.1 == id with
  | none => s
  | some (_, g) =>
    let g := { g with got := g.got ++ [(sec, data, bad)] }
    let as := readAddrs g.pa g.n
    if as.all fun p => g.got.any fun x => x.1 == sectorOf p then
      { s with gathers := Tbl.drop s.gathers id }.sendRead g.reader (as.map g.byte) (g.got.any fun x => x.2.2)
    else { s with gathers := s.gathers.put id g }

/-- A sector sent from its home to the reader's stack; while no path leads there it waits, behind what was sent there before it
(R398, R402). -/
def State.sendSector (s : State) (stk id sec : Nat) (data : BitVec 512) (bad : Bool) : State :=
  match s.gathers.find? fun e => e.1 == id with
  | none => s
  | some (_, g) => if s.replyFree stk g.reader.stk then s.gather id sec data bad else s.keepArrival stk (.sector id sec data bad)

/-- A sector of a read read at home. -/
def State.readSector (s : State) (id sec : Nat) : State :=
  (s.readHome [sec]).sendSector (homeOf sec) id sec (s.homeSector sec) (s.badSector sec)

/-- A request for a sector of a read at its home: it is read, or held while its row is locked (R353). -/
def State.askSector (s : State) (id sec : Nat) : State :=
  match s.gathers.find? fun e => e.1 == id with
  | none => s
  | some (_, g) =>
    let k := homeOf sec
    if ((s.stack k).lockOn (frameOf sec)).isSome then s.hold k (.read id sec (s.readKey k g.reader.source)) else s.readSector id sec

/-- The core whose copy queue holds a copy. -/
def State.coreOfCopy (s : State) (serial : Nat) : Option Nat :=
  (s.cores.find? fun c => c.2.copies.any fun y => y.serial == serial).map Prod.fst

/-- The stack that sent an entry. -/
def State.senderOf (s : State) (e : MEntry) : Nat :=
  match e.origin with
  | .chunk serial _ => (match s.coreOfCopy serial with | some g => g / 48 | none => e.key.stack)
  | .port source => source / 512
  | _ => e.key.stack

/-- Nothing that one stack has sent to another is on its way, and a way leads there (R398, R402). -/
def State.wayFree (s : State) (a b : Nat) : Bool :=
  s.reaches a b && !((s.stack b).inbound.any fun e => s.senderOf e == a)

/-- A read goes there and its answer comes back at once. -/
def State.roundTrip (s : State) (a b : Nat) : Bool := a == b || (s.wayFree a b && s.replyFree b a)

/-- A read from outside: answered at once when every sector can be read now, else asked for sector by sector, each request behind
what the reader's stack has sent to its home before it (R398). -/
def State.outsideRead (s : State) (r : Reader) (pa n : Nat) : State :=
  let as := readAddrs pa n
  if (s.lockedAt as).isNone && as.all fun p => s.roundTrip r.stk (homeOf p) then s.answerRead r pa n
  else
    let id := (s.gathers.map Prod.fst).foldl Nat.max 0 + 1
    let s : State := { s with gathers := s.gathers.put id { reader := r, pa := pa, n := n } }
    ((as.map sectorOf).eraseDups).foldl (fun s sec =>
      if r.stk = homeOf sec ∨ s.wayFree r.stk (homeOf sec) then s.askSector id sec
      else s.deliver [(homeOf sec, { key := BitVec.allOnes 78, body := .get id sec, origin := .port r.source })]) s

end Sys2Proof.Machine
end

