-- ==== Sys2Proof/Machine/Merge.lean ====
section
/-! DEFINITION. The merge engine (R259 to R263, R351 to R354): delivery to the merge queue, application in key order,
deferral at locked rows, damaged lines, beacons, compaction, and the steps that end waits at home (R245, R266, R271). -/

namespace Sys2Proof.Machine

/-- A stack number. -/
def isStack (k : Nat) : Bool := decide (k < Config.stackCount)
/-- A global core id of a compute core. -/
def isCore (g : Nat) : Bool := decide (g < Config.stackCount * Config.coresPerStack)

/-! ## The queue -/

/-- Depth of the merge queue (R351). -/
def mergeDepth : Nat := 16384
/-- The key of a chunk that has none yet: above every key, so that it is not applied (R273). -/
def noKey : Key := BitVec.allOnes 78

/-- An entry precedes another in the queue: by key, and within an item in sequence, modulo 2^48 as sequence numbers are (R249). -/
def MEntry.before (a b : MEntry) : Bool := a.key.lt b.key || (a.key == b.key && seqLt a.sub b.sub)

/-- A queue with an entry in key order, after its equals. -/
def mqInsert (e : MEntry) : List MEntry → List MEntry
  | [] => [e]
  | x :: r => if e.before x then e :: x :: r else x :: mqInsert e r

/-- The addresses that an entry writes. -/
def MEntry.addrs (e : MEntry) : List Nat :=
  match e.body with
  | .record sec _ _ => [sec]
  | .op _ els => els.map fun el => el.addr
  | .release _ | .get .. => []

/-- The part of an entry at addresses that meet a condition, if there is any. -/
def MEntry.part (e : MEntry) (c : Nat → Bool) : Option MEntry :=
  match e.body with
  | .record sec _ _ => if c sec then some e else none
  | .op req els =>
    let mine := els.filter fun el => c el.addr
    if mine.isEmpty then none else some { e with body := .op req mine }
  | .release _ | .get .. => none

/-- An arriving entry admitted or refused (R352): with the queue full, the highest-keyed entry is resent after 64 ticks. -/
def Stack.takeIn (t : Stack) (now : Nat) (e : MEntry) : Stack :=
  if t.mq.length < mergeDepth then { t with mq := mqInsert e t.mq }
  else match t.mq.getLast? with
    | some top =>
      if e.key.lt top.key then { t with mq := mqInsert e t.mq.dropLast, refused := t.refused ++ [(now + 64, top)] }
      else { t with refused := t.refused ++ [(now + 64, e)] }
    | none => { t with mq := [e] }

/-- The entries of a chunk put in their place under its key. -/
def Stack.rekey (t : Stack) (serial j : Nat) (k : Key) : Stack :=
  let mine := t.mq.filter fun e => e.ofChunk serial j
  let rest := t.mq.filter fun e => !(e.ofChunk serial j)
  { t with mq := mine.foldl (fun q e => mqInsert { e with key := k } q) rest }

/-- A chunk of a copy takes its key when its records are all delivered and its copy engine can give one: one a tick, and
none on a held tick (R254, R273, R387). -/
def State.keyChunk (s : State) (serial j : Nat) : State :=
  if s.chunkOnWay serial j then s
  else
    match s.coreOfCopy serial with
    | none => s
    | some g =>
      if !(s.keyFree (g / 48) ((s.core g).srcKeys.look 4 0)) then s
      else
        let k := Key.mk (s.time (g / 48)).toNat (sourceOf (g / 48) (g % 48) 4)
        let s := s.modCore g fun c => { c with
          srcKeys := c.srcKeys.put 4 k
          copies := c.copies.map fun y =>
            if y.serial = serial then { y with fly := y.fly.map fun x => if x.chunk = j then { x with key := some k } else x } else y }
        { s with stackTab := s.stackTab.map fun t => (t.1, t.2.rekey serial j k) }

/-- Chunks that waited for their key take it, as far as this tick gives one. -/
def State.keyChunks (s : State) : State :=
  (s.cores.flatMap fun c => c.2.copies.flatMap fun y =>
    (y.fly.filter fun f => f.key.isNone && !f.remote).map fun f => (y.serial, f.chunk)).foldl (fun s x => s.keyChunk x.1 x.2) s

/-- An entry arrives at its home stack's merge queue, when a path leads there, after every entry that its sender sent before it (R398,
R402); the last record of a chunk gives the chunk its key, and the request of a read is served. -/
def execMergeQueueDelivery (stk n : Nat) (s : State) : Host.Outcome State Fault Refusal :=
  if !isStack stk then .fault .noSuchUnit
  else match (s.stack stk).inbound[n]? with
  | none => .next s
  | some e =>
    if (((s.stack stk).inbound.take n).any fun x => s.senderOf x == s.senderOf e) || !s.reaches (s.senderOf e) stk then .next s
    else
    let s := s.modStack stk fun t => { t with inbound := t.inbound.eraseIdx n }
    .next (match e.body with
      | .get id sec => s.askSector id sec
      | _ =>
        let s := s.modStack stk fun t => t.takeIn (s.time stk).toNat e
        match e.origin with
        | .chunk serial j => if e.key = noKey then s.keyChunk serial j else s
        | _ => s)

/-- A refused entry is resent (R352). -/
def execMergeQueueResend (stk : Nat) (s : State) : Host.Outcome State Fault Refusal :=
  let t := s.stack stk
  ifUnit (isStack stk) <|
  match t.refused.find? fun e => decide (e.1 ≤ (s.time stk).toNat) with
  | none => s
  | some e => s.modStack stk fun t => { t with refused := t.refused.erase e, inbound := t.inbound ++ [e.2] }

/-! ## Application (R260, R263) -/

/-- A record of a log marked as applied. -/
def State.markApplied (s : State) (l q : Nat) : State :=
  if (s.logs.any fun e => e.1 == l) then
    s.modLog l fun l => { l with recs := l.recs.map fun r => if r.seq = q then { r with applied := true } else r }
  else s

/-- The line of a record matches its CRC and is not poisoned; service logs and port logs have no ring. -/
def State.lineSound (s : State) (l q : Nat) : Bool :=
  !(s.logs.any fun e => e.1 == l) || decide (65280 ≤ l) ||
    (lineOk s.mem (s.log l) q && (List.range 8).all fun i => !(s.poison.contains ((s.log l).lineOf q + 64 * i)))

/-- A record can be merged: its line is sound, and its kind is not reserved (R251). -/
def State.lineGood (s : State) (l q : Nat) : Bool :=
  s.lineSound l q && (!(s.logs.any fun e => e.1 == l) || decide (65280 ≤ l) || decide (kindAt s.mem (s.log l) q < 3))

/-- A damaged line, or a record of a reserved kind (R263): every sector that the damaged records name is poisoned, the event
is written, the deferred memory error becomes pending in the writer, and the records leave the queues. -/
def State.damage (s : State) (stk l q : Nat) : State :=
  let whole := !(s.lineSound l q)
  let bad := (s.log l).recs.filter fun r => (if whole then r.seq / 5 == q / 5 else r.seq == q) && r.key.isSome && !r.applied
  let secs := bad.filterMap fun r => match r.body with | .store sec _ _ => some sec | .publish .. => none
  let gone (e : MEntry) : Bool := bad.any fun r => e.origin == .publication l r.seq
  let s := bad.foldl (fun s r => s.markApplied l r.seq) s
  let s : State := { s with
    poison := secs.foldl (fun p x => if p.contains x then p else x :: p) s.poison
    stackTab := s.stackTab.map fun t => (t.1, { t.2 with
      mq := t.2.mq.filter fun e => !gone e
      inbound := t.2.inbound.filter fun e => !gone e
      refused := t.2.refused.filter fun e => !gone e.2 }) }
  let s := s.modCtx l fun h => { h with async31 := some (match h.async31 with | some v => v | none => BitVec.ofNat 64 (secs.headD 0)) }
  let first := if whole then q / 5 * 5 else q
  (((s.pfb stk 0x08 60 0 l 0 (BitVec.ofNat 64 first) (BitVec.ofNat 64 (if whole then first + 4 else q))).count stk 0x40 1).count stk 0x08 secs.length).freeLog l

/-- Row releases that no record can precede any more are forgotten. -/
def Stack.forgetReleases (t : Stack) : Stack :=
  { t with released := t.released.filter fun r => t.applied.lt r.1 || t.deferred.any fun d => match d with
      | .entry e => e.key.lt r.1
      | _ => false }

/-- An entry applied at home, and counted where it takes effect (R393): a record that a row release supersedes does not (R274). -/
def State.applyEntry (s : State) (stk : Nat) (e : MEntry) : State :=
  match e.body with
  | .op req els => (s.count stk 0x100 1).applyEls req els
  | .release _ | .get .. => s
  | .record sec mask d =>
    let s : State :=
      if (s.stack stk).supersedes e.key sec then s
      else { s with mem := s.mem.writeMasked sec mask d 64 }.cacheWrite sec |>.count stk 0x100 1
    match e.origin with
    | .publication l q => (s.markApplied l q).freeLog l
    | _ => s

/-- A frame held for a residency command (R243). -/
def Stack.heldFrame (t : Stack) (p : Nat) : Bool :=
  match t.resCmd with
  | some v => (v.extractLsb' 16 32).toNat == p / 65536 % 0x100000000
  | none => false

/-- An entry of a row release, which the bank command processor serves (R274, R351). -/
def MEntry.isRelease (e : MEntry) : Bool :=
  match e.body with
  | .release _ => true
  | _ => false

/-- A write with key `k` at an address is set aside: a lock covers its row, and is in effect or was asked for with a lower
key (R274). -/
def Stack.defers (t : Stack) (k : Key) (p : Nat) : Bool :=
  t.locks.any fun e => e.2.covers (frameOf p) && (e.2.effective || e.2.kl.lt k)

/-- The entry that the merge engine takes next: the first in key order whose frame no residency command holds, once H
exceeds its key (R243, R260). -/
def Stack.nextMerge (t : Stack) : Option MEntry :=
  match t.mq.find? fun e => !(e.addrs.any t.heldFrame) && !e.isRelease with
  | some e => if e.key.lt t.horizon then some e else none
  | none => none

/-- A part of an entry set aside at a locked row, the rest applied. -/
def State.setAside (s : State) (stk : Nat) (drop : State → State) (x : MEntry) (rest : Option MEntry) : State :=
  let t := s.stack stk
  if deferDepth ≤ t.deferred.length then s.deferFull stk
  else
    let s := ((drop s).modStack stk fun t => { t with deferred := t.deferred ++ [.entry x] }).count stk 0x118 1
    match rest with
    | some y => s.applyEntry stk y
    | none => s

/-- The merge engine applies its next entry and sets aside what of it lies in locked rows; with the deferred-request queue
full it holds the entry (R354). -/
def execMergeApply (stk : Nat) (s : State) : Host.Outcome State Fault Refusal :=
  let t := s.stack stk
  ifUnit (isStack stk) <|
  match t.nextMerge with
  | none => s
  | some e =>
    let locked := t.defers e.key
    let drop (s : State) : State := s.modStack stk fun t => { t with mq := t.mq.erase e }
    match e.origin with
    | .publication l q =>
      if !s.lineGood l q then s.damage stk l q
      else match e.part locked with
        | none => (drop s).applyEntry stk e
        | some x => s.setAside stk drop x none
    | _ =>
      match e.part locked with
      | none => (drop s).applyEntry stk e
      | some x => s.setAside stk drop x (e.part fun p => !(locked p))

/-! ## Beacons (R259) -/

/-- At every TIME that is 0 modulo 64, a stack sends f and a to every stack. -/
def execMergeBeacon (stk : Nat) (s : State) : Host.Outcome State Fault Refusal :=
  let now := (s.time stk).toNat
  ifUnit (isStack stk) <|
  if now % 64 ≠ 0 ∨ (s.stack stk).beaconSent = some now then s
  else
    let f := (s.mergeFloor stk).toNat
    let a := (s.stack stk).applied.toNat
    (s.modStack stk fun t => { t with beaconSent := some now }).post
      ((List.range Config.stackCount).map fun j => Msg.beacon j stk f a)

/-- A beacon of stack `src` received: the beacon table takes it. -/
def execMergeBeaconReceive (stk src f a : Nat) (s : State) : Host.Outcome State Fault Refusal :=
  ifUnit (isStack stk && isStack src) <|
  s.modStack stk fun t => { t with
    beacons := t.beacons.put src (BitVec.ofNat 78 f, BitVec.ofNat 78 a)
    beaconAt := t.beaconAt.put src (s.time stk).toNat
    beaconLate := t.beaconLate.filter fun j => !(j == src) }

/-- A beacon more than 256 ticks late: the last value is kept and an event is written. -/
def State.beaconIsLate (s : State) (stk src : Nat) : Bool :=
  let t := s.stack stk
  decide (t.beaconAt.look src 0 + 64 + 256 < (s.time stk).toNat) && !(t.beaconLate.contains src)

/-- R259. -/
def execMergeBeaconOverdue (stk src : Nat) (s : State) : Host.Outcome State Fault Refusal :=
  ifUnit (isStack stk && isStack src) <|
  if !s.beaconIsLate stk src then s
  else ((s.modStack stk fun t => { t with beaconLate := src :: t.beaconLate }).pfb stk 0x10 60 0 0 0
    (BitVec.ofNat 64 src) (BitVec.ofNat 64 ((s.stack stk).beaconAt.look src 0))).count stk 0x58 1

/-! ## Compaction (R253, R262) -/

/-- The oldest line of a log can be reclaimed: its records are published and applied. -/
def Log.reclaimable (l : Log) : Bool :=
  let n := nextLine l.reclaim
  decide (seqDist l.reclaim n ≤ seqDist l.reclaim l.pt) && (l.recs.all fun r => r.applied || seqLe n r.seq)

/-- A line reclaimed: its records leave the log for its past, where acquires find their sectors, and the owner's core drops
the shared sectors that they write. -/
def execCompaction (log : Nat) (s : State) : Host.Outcome State Fault Refusal :=
  let l := s.log log
  .next <|
  if !l.reclaimable then s
  else
    let n := nextLine l.reclaim
    let out := l.recs.filter fun r => seqLt r.seq n
    let secs := out.filterMap fun r => match r.body with | .store sec _ _ => some sec | .publish .. => none
    let s := (s.modLog log fun l => { l with recs := l.recs.filter fun r => seqLe n r.seq, reclaim := n }).modPast log fun p =>
      { p with recs := p.recs ++ out.filterMap fun r => match r.body, r.key with
          | .store sec _ _, some k => some (r.seq, k, sec)
          | _, _ => none }
    let s := match s.ctx log with
      | some h => s.modCore h.core fun c => { c with view := c.view.filter fun x => !(x.pin == none && secs.contains x.addr) }
      | none => s
    s.freeLog log

/-! ## The ends of waits at home -/

/-- A context that waits for room in its log is entered again when compaction has made room (R271). -/
def execLogSpaceFreed (h : Nat) (s : State) : Host.Outcome State Fault Refusal :=
  .next <| if (s.log h).room false 1 then s.modCtx h fun x =>
    if x.phase = .retry ∨ x.phase = .ordering then { x with tried := false } else x else s

/-- A pinned sector is dropped when its home's applied point passes its pin key (R266), and with it a shared copy, which may be
older: the next read fills the sector again. -/
def execPinDrop (core slot sector : Nat) (s : State) : Host.Outcome State Fault Refusal :=
  let a := (s.stack (homeOf sector)).applied
  ifUnit (isCore core && decide (slot < 4)) <|
  s.modCore core fun c =>
    if c.view.any fun x => x.addr == sector && x.pin == some slot && x.key.le a then
      { c with view := c.view.filter fun x => !(x.addr == sector && (x.pin == some slot || x.pin == none)) }
    else c

/-- Home can answer a read of a sector by the selected context; one of a walk waits for the release of a lock of its own gang too. -/
def State.canServe (s : State) (sec : Nat) : Bool :=
  match s.served sec with
  | .wait | .ownWait | .cut => false
  | .inPlace | .ownBad => !(s.owner sec == 0xFF)
  | .yes | .poisoned => s.paid sec

/-- A read that waits is entered again when home can serve it: the bank work of the reader's gang is over (R311), or the lock
is gone. -/
def execMemoryReply (core sector : Nat) (s : State) : Host.Outcome State Fault Refusal :=
  ifUnit (decide (core < 1152 + Config.stackCount)) <|
  match s.harts.find? fun h => h.core == core && h.phase == .deferredRead sector with
  | none => s
  | some h =>
    let s' := s.select h.key
    if s'.hart.key = h.key ∧ s'.canServe sector then
      s'.modHart fun x => { x with phase := .retry, tried := false }
    else s

end Sys2Proof.Machine
end

