-- ==== Sys2Proof/Machine/BankRun.lean ====
section
/-! DEFINITION. What the bank command processor does with the members sent to it (R309 to R316, R323 to R331): channels,
completion with the check, refresh, row locks, release, expiry and reset. -/

namespace Sys2Proof.Machine

/-! ## Status bits (R318) -/

/-- SAT. -/
def stSat : BitVec 6 := 1
/-- CONFLICT. -/
def stConflict : BitVec 6 := 2
/-- ABORT. -/
def stAbort : BitVec 6 := 4
/-- TORN. -/
def stTorn : BitVec 6 := 8
/-- CHECK. -/
def stCheck : BitVec 6 := 16
/-- MEMERR. -/
def stMemerr : BitVec 6 := 32

/-- Status bits set in a log's bank record. -/
def State.bankStatus (s : State) (l : Nat) (f : BitVec 6) : State :=
  if s.logs.any fun e => e.1 == l then s.modLog l fun x => { x with status := x.status ||| f } else s

/-! ## Rows read and written -/

/-- A row as a gang's member reads it, and its columns that give no datum: zeros with CONFLICT when another gang has locked it, else
with MEMERR no datum in a torn row or in a poisoned sector (R314, R318). -/
def State.bankRow (s : State) (stk gang f : Nat) : Row × Row × BitVec 6 :=
  let t := s.stack stk
  if (t.locks.any fun e => e.2.effective && e.2.covers f && !(e.2.gang == gang)) then (0, 0, stConflict)
  else if t.rows.look f .whole = .torn then (0, BitVec.allOnes 524288, stMemerr)
  else
    let bad := if s.poison.isEmpty then [] else (List.range 1024).filter fun i => s.poison.contains (frameAddr stk f + 64 * i)
    (s.mem.row stk f, bad.foldl (fun (r : Row) i => r ||| (BitVec.ofNat 524288 (2 ^ 512 - 1) <<< (512 * i))) 0,
      if bad.isEmpty then 0 else stMemerr)

/-- The rows of a plane in the `i`-th group of a member's grant: an element any bit of which gives no datum reads as zero
(R318). -/
def State.bankPlane (s : State) (c : BankCmd) (p : BitVec 128) (i : Nat) : List Row × BitVec 6 :=
  let rs := (planeRows p).map fun r => s.bankRow c.stk c.gang (frameNo (c.a0 + planeOff p + i) r)
  let lost := rs.foldl (fun (m : Row) r => m ||| r.2.1) 0
  (rs.map fun r => r.1 &&& ~~~lost, rs.foldl (fun a r => a ||| r.2.2) 0)

/-- A frame that bank computation wrote: unsealed, and written during its lock (R274, R312). Its column ECC, with the poison
marks that it carried, covers it no longer. -/
def State.markWritten (s : State) (stk gang f : Nat) : State :=
  let s : State := { s with poison := s.poison.filter fun x => !(homeOf x == stk && frameOf x == f) }
  s.modStack stk fun t => { t with
    rows := t.rows.put f .unsealed
    locks := t.locks.map fun e =>
      if e.2.gang = gang ∧ e.2.covers f ∧ ¬ e.2.written.contains f then (e.1, { e.2 with written := f :: e.2.written }) else e }

/-- Frames torn: the notice of the gang and TORN in the log are set (R314). -/
def State.tear (s : State) (stk gang log : Nat) (fs : List Nat) : State :=
  if fs.isEmpty then s
  else
    let s := s.modStack stk fun t => { t with rows := fs.foldl (fun m f => m.put f .torn) t.rows }
    ((s.modGang gang fun g => { g with torn := true }).bankStatus log stTorn).count stk 0x28 fs.length

/-- Rows written from a base row of a group on. -/
def State.writeRows (s : State) (stk gang g : Nat) : Nat → List Row → State
  | _, [] => s
  | r, x :: xs =>
    let f := frameNo g r
    let s : State := { s with mem := s.mem.setRow stk f x }
    State.writeRows (s.markWritten stk gang f) stk gang g (r + 1) xs

/-- The shared sectors of frames dropped from the view caches of a gang's cores (R311). -/
def State.dropRows (s : State) (stk gang : Nat) (fs : List Nat) : State :=
  let cores := (s.harts.filter fun h => h.gangKey == gang && h.stk == stk).map Hart.core
  { s with cores := s.cores.map fun c => if cores.contains c.1 then
      (c.1, { c.2 with view := c.2.view.filter fun x =>
        !(x.pin == none && homeOf x.addr == stk && fs.contains (frameOf x.addr)) }) else c }

/-! ## What a member computes -/

/-- The result rows of one group from the rows of its planes; `xs` are the elements that a transfer places. -/
def bankResult (c : BankCmd) (a b cc d : List Row) (col : Nat) (xs : List Nat) : List Row × Bool :=
  match c.instr with
  | .bnot .. => (a.map fun (r : Row) => ~~~r, false)
  | .band .. => (List.zipWith (fun (p q : Row) => p &&& q) a b, false)
  | .bor .. => (List.zipWith (fun (p q : Row) => p ||| q) a b, false)
  | .bxor .. => (List.zipWith (fun (p q : Row) => p ^^^ q) a b, false)
  | .bmaj .. => ((List.range a.length).map fun k => maj3 (a.getD k 0) (b.getD k 0) (cc.getD k 0), false)
  | .bsel .. => (selRows a b (cc.getD 0 0), false)
  | .badd _ _ _ sgn sat => addSub a b false sgn sat
  | .bsub _ _ _ sgn sat => addSub a b true sgn sat
  | .bcmp _ _ _ k sgn => ([cmpRows a b k sgn], false)
  | .bmulc _ _ _ sgn => (mulcRows a (planeWidth c.d) c.x sgn, false)
  | .bmac _ _ _ sgn => (macRows d a b sgn, false)
  | .bmact _ _ _ sgn => (mactRows d a c.x sgn, false)
  | .bshl _ _ k col => (shlRows a k.toNat col, false)
  | .bshr _ _ k col sgn => (shrRows a k.toNat col sgn, false)
  | _ => (placeRows d col xs, false)

/-- A member also reads the plane it writes. -/
def BankCmd.readsDest (c : BankCmd) : Bool :=
  match c.instr with
  | .bmac .. | .bmact .. | .bldp .. | .vtob .. => true
  | _ => false

/-- The bits of element `e` of a tag's width in memory, at byte addresses given by `at_`. -/
def memElem (m : Memory) (at_ : Nat → Nat) (w e : Nat) : Nat :=
  if w = 4 then (m.read (at_ (e / 2))).toNat / (if e % 2 = 0 then 1 else 16) % 16
  else (List.range (w / 8)).foldr (fun i n => 256 * n + (m.read (at_ (e * (w / 8) + i))).toNat) 0

/-- An element of BLDP's source: its bits, and what reading it raised (R318, R324). -/
def State.bldpElem (s : State) (c : BankCmd) (t : Tag) (e : Nat) : Nat × BitVec 6 :=
  let w := tagWidth t
  let at_ := granuleByte c.elems c.x.toNat
  let p := at_ (e * w / 8)
  if (s.stack c.stk).locks.any fun l => l.2.effective && l.2.covers (frameOf p) && !(l.2.gang == c.gang) then (0, stConflict)
  else if s.badSector (sectorOf p) then (0, stMemerr)
  else (memElem s.mem at_ w e, 0)

/-- The elements that a transfer into a plane places: the first element, the values as the plane holds them, and what
computing them raised. -/
def State.bankElems (s : State) (c : BankCmd) : Nat × List (Nat × BitVec 6) :=
  match c.instr with
  | .vtob .. => (c.x.toNat, c.elems.map fun x => (x.toNat, if c.sat then stSat else 0))
  | .bldp _ _ _ sgn sat =>
    let t := planeTag c.d
    (0, (List.range c.y.toNat).map fun e =>
      let b := s.bldpElem c t e
      let v := toPlane t (planeWidth c.d) sgn sat b.1
      (v.1, b.2 ||| (if v.2 then stSat else 0)))
  | _ => (0, [])

/-- Status bits of a list. -/
def orBits (l : List (BitVec 6)) : BitVec 6 := l.foldl (fun a b => a ||| b) 0

/-- Status bits of a group set in the log; an uncorrectable error among them is counted (R393). -/
def State.groupStatus (s : State) (c : BankCmd) (f : BitVec 6) : State :=
  let s := s.bankStatus c.log f
  if f &&& stMemerr = 0 then s else s.count c.stk 0x08 1

/-- One group of a member that writes a plane: an error read in the group tears the rows that it writes there (R318). -/
def State.runGroup (c : BankCmd) (first : Nat) (xs : List (Nat × BitVec 6)) (s : State) (i : Nat) : State :=
  let a := s.bankPlane c c.a i
  let b := s.bankPlane c c.b i
  let k := s.bankPlane c c.c i
  let d := if c.readsDest then s.bankPlane c c.d i else ([], 0)
  let sl := sliceOf first i (xs.map Prod.fst)
  let fl := sliceOf first i (xs.map fun x => x.2.toNat)
  let r := bankResult c a.1 b.1 k.1 d.1 sl.1 sl.2
  let sat := (match c.instr with | .badd .. | .bsub .. => r.2 | _ => false)
  let f := a.2 ||| b.2 ||| k.2 ||| d.2 ||| orBits (fl.2.map fun n => BitVec.ofNat 6 n) ||| (if sat then stSat else 0)
  let g := c.a0 + planeOff c.d + i
  let s := (s.writeRows c.stk c.gang g (planeBase c.d) r.1).groupStatus c f
  if f &&& stMemerr = 0 then s else s.tear c.stk c.gang c.log ((planeRows c.d).map fun r => frameNo g r)

/-- BSTP (R324): the element as memory takes it. -/
def storeElem (m : Memory) (at_ : Nat → Nat) (w e v : Nat) : Memory :=
  if w = 4 then
    let p := at_ (e / 2)
    let old := (m.read p).toNat
    m.write p (BitVec.ofNat 8 (if e % 2 = 0 then old / 16 * 16 + v % 16 else v % 16 * 16 + old % 16))
  else (List.range (w / 8)).foldl (fun m i => m.write (at_ (e * (w / 8) + i)) (BitVec.ofNat 8 (v / 256 ^ i))) m

/-- One group of BSTP. -/
def State.storeGroup (c : BankCmd) (sgn : Bool) (s : State) (i : Nat) : State :=
  let p := s.bankPlane c c.a i
  let t := planeTag c.a
  let w := tagWidth t
  let at_ := granuleByte c.elems c.x.toNat
  let es := (List.range (Nat.min groupCols (c.y.toNat - i * groupCols))).map fun k => i * groupCols + k
  let m := es.foldl (fun m e => storeElem m at_ w e (ofPlane t (planeWidth c.a) sgn (columnOf p.1 (e % groupCols)))) s.mem
  let fs := (es.map fun e => frameOf (at_ (e * w / 8))).eraseDups
  let s : State := { s with mem := m }
  let s := (fs.foldl (fun s f => s.markWritten c.stk c.gang f) s).groupStatus c p.2
  if p.2 &&& stMemerr = 0 then s else s.tear c.stk c.gang c.log fs

/-- BSEAL (R331): the rows that the gang has locked, also under a lock whose release has begun, are sealed, and a torn mark is
cleared. -/
def State.sealGroup (c : BankCmd) (s : State) (i : Nat) : State :=
  let fs := ((planeRows c.a).map fun r => frameNo (c.a0 + planeOff c.a + i) r).filter fun f => (s.stack c.stk).ownRow c.gang f
  s.modStack c.stk fun t => { t with rows := fs.foldl (fun m f => Tbl.drop m f) t.rows }

/-- The frames that a member writes in the `i`-th group of its grant. -/
def BankCmd.writes (c : BankCmd) (i : Nat) : List Nat :=
  match c.instr with
  | .bstp .. =>
    let at_ := granuleByte c.elems c.x.toNat
    let w := tagWidth (planeTag c.a)
    ((List.range (Nat.min groupCols (c.y.toNat - i * groupCols))).map fun k =>
      frameOf (at_ ((i * groupCols + k) * w / 8))).eraseDups
  | .bseal .. | .bred .. | .btov .. | .brlk .. | .brul .. => []
  | _ => (planeRows c.d).map fun r => frameNo (c.a0 + planeOff c.d + i) r

/-- The first plane of a member, which gives its groups. -/
def BankCmd.plane (c : BankCmd) : BitVec 128 := if planeWidth c.d = 0 then c.a else c.d

/-- The results of a member that answers its hart: BTOV's elements, BRED's sum (R325). -/
def State.bankAnswer (s : State) (c : BankCmd) : List Word :=
  match c.instr with
  | .btov _ _ _ sgn =>
    let ps := (List.range c.grant).map fun i => (s.bankPlane c c.a i).1
    (List.range c.vlen).map fun e =>
      let n := c.x.toNat + e
      BitVec.ofNat 64 (ofPlane (planeTag c.a) (planeWidth c.a) sgn (columnOf (ps.getD (n / groupCols) []) (n % groupCols)))
  | .bred .. =>
    let sum (rs : List Row) : Nat := rs.foldr (fun r n => 2 * n + r.ones) 0
    [BitVec.ofNat 64 (((List.range c.grant).map fun i => sum (s.bankPlane c c.a i).1).foldl (· + ·) 0)]
  | _ => []

/-- The row work of a member on its groups. -/
def State.runBank (s : State) (c : BankCmd) : State :=
  let gs := List.range c.grant
  match c.instr with
  | .btov .. | .bred .. => gs.foldl (fun s i => s.groupStatus c (s.bankPlane c c.a i).2) s
  | .bseal .. => gs.foldl (State.sealGroup c) s
  | .bstp _ _ _ sgn => gs.foldl (State.storeGroup c sgn) s
  | _ =>
    let e := s.bankElems c
    gs.foldl (State.runGroup c e.1 e.2) s

/-! ## Completion -/

/-- The end of a member (R318): the record, hart.event, and the answer to a hart that waits for one. -/
def State.finishBank (s : State) (c : BankCmd) (f : BitVec 6) (xs : List Word) : State :=
  let s := (s.bankStatus c.log f).modLog c.log fun l => { l with bankOut := l.bankOut - 1 }
  let s := s.signal fun h => h.key == c.log
  let s := match c.instr with
    | .btov .. | .bred .. | .bsetl .. => s.modCtx c.log fun h =>
      { h with results := ((List.range xs.length).foldl (fun m i => m.put (bankResults + i) (xs.getD i 0)) h.results)
               awaiting := h.awaiting - 1 }
    | _ => s
  s.freeLog c.log

/-- A group retired (R313): every grant that holds it shrinks to the groups before it. -/
def State.retireGroup (s : State) (stk g : Nat) : State :=
  let s := s.modStack stk fun t => { t with groups := t.groups.put g { (t.groups.look g {}) with retired := true } }
  let s := (s.pfb stk 0x03 48 0 0 0 (BitVec.ofNat 64 (3 + g * 2 ^ 32)) 0).count stk 0x18 1
  let cut := (s.gangs.filter fun e => e.2.stk == stk && decide (e.2.a0 ≤ g) && decide (g < e.2.a0 + e.2.grant)).map
    fun e => (e.1, g - e.2.a0)
  cut.foldl (fun s e =>
    (s.modStack stk fun t =>
      let mine := (List.range 128).filter fun n => t.slots.look n 0 == e.1 + 1
      { t with slots := t.slots.filter fun x => !((mine.drop e.2).contains x.1) }).modGang e.1 fun x => { x with grant := e.2 }) s

/-- A mismatch of the check subarray of one group (R313). -/
def State.checkFails (c : BankCmd) (first : Nat) (s : State) (g : Nat) : State :=
  let m := (s.stack c.stk).groups.look g {}
  let i := m.count - 1
  let s := (s.tear c.stk c.gang c.log (c.writes (g - first))).bankStatus c.log stCheck
  let s := (s.pfb c.stk 0x0B 48 0 c.log 0 (BitVec.ofNat 64 g) (BitVec.ofNat 64 i)).count c.stk 0x10 1
  let s := s.modStack c.stk fun t => { t with groups := t.groups.put g { m with mismatches := m.mismatches + 1, last := i } }
  if 0 < m.mismatches ∧ i - m.last < 2 ^ 20 ∧ ¬ m.retired then s.retireGroup c.stk g else s

/-- The comparison of the check subarrays (R313): in the groups of `bad` the results differ. -/
def State.checkBank (s : State) (c : BankCmd) (bad : List Nat) : State :=
  let first := c.a0 + planeOff c.plane
  let s := s.modStack c.stk fun t => { t with groups := (List.range c.grant).foldl (fun m i =>
    let g := m.look (first + i) {}
    m.put (first + i) { g with count := g.count + 1 }) t.groups }
  (((List.range c.grant).map fun i => first + i).filter fun g => bad.contains g).foldl (State.checkFails c first) s

/-- The row operations of a member's microprogram (R317, R330). -/
def BankCmd.cycles (c : BankCmd) : Nat := rowCycles c.instr (planeWidth c.plane) (planeWidth c.a) (planeWidth c.b) c.x

/-- The yield points that a microprogram of `n` row cycles can use (R310). -/
def BankCmd.yieldPoints (c : BankCmd) (n : Nat) : Nat := if c.sprint then 0 else (n - 1) / 8

/-- A microprogram ends: its rows are written, the check is compared, and the member completes; what the channel reports is an
input. -/
def execBankCompletion (stk die : Nat) (e : BankEnd) (s : State) : Host.Outcome State Fault Refusal :=
  ifUnit (isStack stk && decide (die < 12)) <|
  let ch := (s.stack stk).channels.look die {}
  match if ch.hung.isSome then none else ch.run with
  | none => s
  | some c =>
    let s := s.modStack stk fun t => { t with channels := Tbl.drop t.channels die }
    let xs := s.bankAnswer c
    let s := s.runBank c
    let fs := (List.range c.grant).flatMap c.writes
    let n := c.cycles
    let s := (((s.dropRows stk c.gang fs).checkBank c e.bad).count stk 0x120 n).count stk 0x130 (Nat.min e.yields (c.yieldPoints n))
    s.finishBank c 0 xs

/-! ## Channels (R309) -/

/-- A member that is carried out on a channel: BRLK and BRUL are not. -/
def BankCmd.onChannel (c : BankCmd) : Bool :=
  match c.instr with
  | .brlk .. | .brul .. => false
  | _ => true

/-- The first member of its gang on its die. -/
def Stack.firstOfGang (t : Stack) (c : BankCmd) : Bool :=
  t.bcpq.all fun x => !(x.gang == c.gang && x.die == c.die) || decide (c.seq ≤ x.seq)

/-- The member that a die's channel takes next: a sprint gang's first, then in commit order. -/
def Stack.nextBank (t : Stack) (die : Nat) : Option BankCmd :=
  let es := t.bcpq.filter fun c => c.die == die && c.onChannel && t.firstOfGang c
  match es.find? fun c => c.sprint with
  | some c => some c
  | none => es.head?

/-- The queue without a member. -/
def Stack.dequeue (t : Stack) (c : BankCmd) : Stack := { t with bcpq := t.bcpq.filter fun x => !(x.seq == c.seq) }

/-- A member that changed the gang's bank state at its commit point: the queue only carries its completion (R306, R320). -/
def BankCmd.isGrant (c : BankCmd) : Bool :=
  match c.instr with
  | .bsetl .. | .balloc .. => true
  | _ => false

/-- The frames that a member reads in its planes and in memory. -/
def BankCmd.reads (c : BankCmd) : List Nat :=
  ((List.range c.grant).flatMap fun i => [c.a, c.b, c.c, c.d].flatMap fun p =>
    (planeRows p).map fun r => frameNo (c.a0 + planeOff p + i) r) ++
  match c.instr with
  | .bldp .. => c.elems.map fun x => frameOf x.toNat
  | _ => []

/-- The groups that compute on a stack's channels now. -/
def Stack.computing (t : Stack) : Nat := (t.channels.map fun c => match c.2.run with | some r => r.grant | none => 0).sum

/-- The member that a die's channel takes now: at most 128 groups of a stack compute at once (R15, R309). -/
def Stack.nextStart (t : Stack) (die : Nat) : Option BankCmd :=
  if (t.channels.look die {}).run.isSome || t.bcpReset.isSome then none
  else (t.nextBank die).filter fun c => c.isGrant || decide (t.computing + c.grant ≤ 128)

/-- The end of the refresh slot that a die is in, as far as it is still to come. -/
def Stack.slotEnd (t : Stack) (now die : Nat) : Nat := Nat.max now (match t.refreshed.look die 0 with | 0 => now | r => r - 1 + 108)

/-- A channel takes its next member, and the stack cache writes back the rows that it reads (R310): the first row operation waits
for the end of a refresh slot. BSETL and BALLOC complete at once, and with a grant of zero a member completes at once and changes
nothing (R318). -/
def execBankMicroprogramStart (stk die : Nat) (s : State) : Host.Outcome State Fault Refusal :=
  let t := s.stack stk
  ifUnit (isStack stk && decide (die < 12)) <|
  match t.nextStart die with
  | none => s
  | some c =>
    let s := s.modStack stk fun t => (t.dequeue c).cacheWriteBack fun f => c.reads.contains f && !(t.lockedBy c.gang f)
    if c.isGrant then s.finishBank c 0 [c.y]
    else if c.grant = 0 then s.finishBank c 0 []
    else
      let now := (s.time stk).toNat
      let ch : Channel := { run := some c, left := c.cycles, clock := t.slotEnd now die }
      let s := s.modStack stk fun t => { t with channels := t.channels.put die ch }
      if t.slotEnd now die = now then s else s.count stk 0x128 (t.slotEnd now die - now)

/-- A refresh slot of a die begins at this TIME (R310). -/
def Stack.slotDue (t : Stack) (now die : Nat) : Bool :=
  (now % 2340 == 195 * die % 2340 || (t.hot.contains die && now % 2340 == (195 * die + 1170) % 2340)) &&
  !(t.refreshed.look die 0 == now + 1)

/-- A channel at the start of a refresh slot: row operations that end by then have ended, and the others wait for the end of the
slot; with the ticks of that lock-step stall (R310). -/
def Channel.stall (c : Channel) (now : Nat) : Channel × Nat :=
  let k := Nat.min c.left ((now - c.clock) / 28)
  if c.run.isNone || c.hung.isSome || k = c.left then (c, 0)
  else ({ c with left := c.left - k, clock := now + 108 }, now + 108 - (c.clock + 28 * k))

/-- A microprogram has run its row operations, and its check is compared in 4 ticks more (R313). -/
def Channel.ended (c : Channel) (now : Nat) : Bool := c.run.isSome && c.hung.isNone && decide (c.clock + 28 * c.left + 4 ≤ now)

/-- A die's refresh slot: a microprogram that runs stalls (R310). -/
def execRefreshSlot (stk die : Nat) (s : State) : Host.Outcome State Fault Refusal :=
  let t := s.stack stk
  let now := (s.time stk).toNat
  ifUnit (isStack stk && decide (die < 12)) <|
  if !t.slotDue now die then s
  else
    let s := s.modStack stk fun t => { t with refreshed := t.refreshed.put die (now + 1) }
    let c := (t.channels.look die {}).stall now
    if c.2 = 0 then s else (s.modStack stk fun t => { t with channels := t.channels.put die c.1 }).count stk 0x128 c.2

/-- Every 1.0 ms the BCP reads the sensor of every DRAM die: refresh doubles above 85 °C, and ends doubling at 83 °C (R310). -/
def execDramSensorRead (stk : Nat) (s : State) : Host.Outcome State Fault Refusal :=
  let now := (s.time stk).toNat
  ifUnit (isStack stk) <|
  if now % 600000 ≠ 0 ∨ (s.stack stk).sensed = some now then s
  else s.modStack stk fun t => { t with
    sensed := some now
    hot := (List.range 12).filter fun d =>
      decide (85 < t.temps.look (2 + d) 0) || (t.hot.contains d && decide (83 < t.temps.look (2 + d) 0)) }

/-! ## Locks (R323, R274, R314, R316) -/

/-- Bank work of a gang that precedes a member: queued earlier, or on a channel. -/
def Stack.workBefore (t : Stack) (g seq : Nat) : Bool :=
  (t.bcpq.any fun x => x.gang == g && decide (x.seq < seq)) ||
  (t.channels.any fun c => match c.2.run with | some r => r.gang == g | none => false)

/-- A pending lock can take effect: BRLK's turn has come, the records below Kl are applied, and no other gang's lock
overlaps the rows. -/
def Stack.lockReady (t : Stack) (n : Nat) : Option BankCmd :=
  match t.locks.find? fun e => e.1 == n && !e.2.effective with
  | none => none
  | some (_, l) =>
    match t.bcpq.find? fun c => c.lock == n && (match c.instr with | .brlk .. => true | _ => false) with
    | none => none
    | some c =>
      if t.workBefore c.gang c.seq || !(Key.le (Key.pred l.kl) t.applied) || t.bcpReset.isSome ||
        (t.locks.any fun e => !(e.2.gang == l.gang) && e.2.overlaps l && (e.2.effective || e.2.kl.lt l.kl)) then none
      else some c

/-- The lock takes effect, and its lease counts from this tick (R323). -/
def execRowLockEffective (stk n : Nat) (s : State) : Host.Outcome State Fault Refusal :=
  ifUnit (isStack stk && decide (n < lockSlots)) <|
  match (s.stack stk).lockReady n with
  | none => s
  | some c =>
    let now := (s.time stk).toNat
    let s := s.modStack stk fun t => { (t.dequeue c).cacheDrop fun f => (t.locks.any fun e => e.1 == n && e.2.covers f) with
      locks := t.locks.map fun e => if e.1 = n then (n, { e.2 with effective := true, lease := now + e.2.lease }) else e }
    s.finishBank c 0 []

/-- The BCP's source can give a key now. -/
def State.bankKeyReady (s : State) (stk : Nat) : Bool := s.keyFree stk (s.stack stk).bankKey

/-- The key that the BCP gives now (R254). -/
def State.bankNextKey (s : State) (stk : Nat) : Key := Key.mk (s.time stk).toNat (sourceOf stk 48 0)

/-- The BCP's key taken. -/
def State.takeBankKey (s : State) (stk : Nat) : State := s.modStack stk fun t => { t with bankKey := s.bankNextKey stk }

/-- A read of the deferred-request queue is held at a sector that meets a condition. -/
def DEntry.readsIn (d : DEntry) (c : Nat → Bool) : Bool :=
  match d with
  | .entry _ => false
  | .read _ sec _ | .load _ _ sec _ | .prefetch _ sec _ | .copyRead _ _ _ sec _ => c sec

/-- The key of a deferred request (R353). -/
def DEntry.key : DEntry → Key
  | .entry e => e.key
  | .read _ _ k | .load _ _ _ k | .prefetch _ _ k | .copyRead _ _ _ _ k => k

/-- The part of a deferred request in rows that are released, and what stays: the writes in key order, the reads in key order, the
rest. -/
def splitDeferred (inRows : DEntry → Nat → Bool) (ds : List DEntry) : List MEntry × List DEntry × List DEntry :=
  ( (ds.filterMap fun d => match d with | .entry e => e.part (inRows d) | _ => none).foldl (fun q e => mqInsert e q) [],
    ((ds.filter fun d => d.readsIn (inRows d)).foldl (fun l d => insertByKey (d.key, d) l) []).map Prod.snd,
    ds.filterMap fun d => match d with
      | .entry e => (e.part fun p => !(inRows d p)).map DEntry.entry
      | _ => if d.readsIn (inRows d) then none else some d )

/-- The row-lock table without an entry. -/
def Stack.dropLock (t : Stack) (n : Nat) : Stack := { t with locks := Tbl.drop t.locks n }

/-- The merge queue without the entry of a lock's release (R351). -/
def Stack.dropRelease (t : Stack) (n : Nat) : Stack :=
  let mine (e : MEntry) : Bool := e.body == .release n
  { t with mq := t.mq.filter fun e => !mine e, inbound := t.inbound.filter fun e => !mine e,
           refused := t.refused.filter fun e => !mine e.2 }

/-- The context of a read that home has answered: it goes on, or takes the error of a sector that gave no good datum (R314). -/
def Hart.served (h : Hart) (core sec : Nat) (bad : Bool) : Hart :=
  if h.core = core ∧ h.phase = .deferredRead sec then { h with phase := if bad then .readError sec else .retry, tried := false } else h

/-- A shared sector of a core filled from home; a service core has no view, and page tables are in no view (R236). -/
def State.fillView (s : State) (core sec : Nat) : State :=
  if 1152 ≤ core || s.badSector sec || s.owner sec == 0xFF then s
  else if (s.core core).view.any fun x => x.addr == sec && x.pin == none then s
  else s.fill core sec true

/-- A deferred read served: a sector of a read from outside goes to the reader, a hart's fills its view and lets it go on, a prefetch
fills the view, and a copy keeps the sector for its chunk; one that gives no good datum the engine finds when it reads the chunk. -/
def State.serveRead (s : State) (d : DEntry) : State :=
  match d with
  | .entry _ => s
  | .read id sec _ => s.readSector id sec
  | .load core ctx sec _ => (s.fillView core sec).modCtx ctx fun h => h.served core sec (s.badSector sec)
  | .prefetch core sec _ => s.fillView core sec
  | .copyRead core serial _ sec _ =>
    if s.badSector sec then s
    else (s.cacheRead sec).modCore core fun k => { k with
      copies := k.copies.map fun c => if c.serial = serial then { c with got := c.got.put sec (s.homeSector sec) } else c }

/-- Reads that backed up behind a full queue: those whose rows are free are served, and the others enter as there is room
(R354). -/
def State.drainBacklog (s : State) (stk : Nat) : State :=
  let ds := (s.stack stk).backlog
  let s := s.modStack stk fun t => { t with backlog := [] }
  ds.foldl (fun s d =>
    if !(d.readsIn fun p => ((s.stack (homeOf p)).lockOn (frameOf p)).isSome) then s.serveRead d
    else if deferDepth ≤ (s.stack stk).deferred.length then s.modStack stk fun t => { t with backlog := t.backlog ++ [d] }
    else (s.modStack stk fun t => { t with deferred := t.deferred ++ [d] }).count stk 0x118 1) s

/-- The part of an entry in the rows of a lock that its release serves: what no other lock sets aside. -/
def DEntry.freed (d : DEntry) (t : Stack) (stk : Nat) (l : RowLock) (p : Nat) : Bool :=
  homeOf p == stk && l.covers (frameOf p) &&
    match d with
    | .entry e => !(t.defers e.key p)
    | _ => (t.lockOn (frameOf p)).isNone

/-- The deferred requests in the rows of a lock served (R274, R353): records and operations in key order, then the reads. -/
def State.serveDeferred (s : State) (stk : Nat) (l : RowLock) : State :=
  let t := s.stack stk
  let d := splitDeferred (fun d p => d.freed t stk l p) t.deferred
  let s := s.modStack stk fun t => { t with deferred := d.2.2, deferStall := t.deferStall && decide (deferDepth ≤ d.2.2.length) }
  let s := d.1.foldl (fun s e => s.applyEntry stk e) s
  (d.2.1.foldl State.serveRead s).drainBacklog stk

/-- A lock released under a key (R274): its rows are sealed, or torn; the lock and the release's entry are gone; and the
deferred requests are served. -/
def State.releaseLock (s : State) (stk n : Nat) (k : Key) (torn : Bool) : State :=
  match (s.stack stk).locks.find? fun e => e.1 == n with
  | none => s
  | some (_, l) =>
    let fs := l.frames
    let unsealed := fs.filter fun f => (s.stack stk).rows.look f .whole == .unsealed
    let s := if torn then s.tear stk l.gang l.log fs
      else (s.modStack stk fun t => { t with rows := unsealed.foldl (fun m f => Tbl.drop m f) t.rows }).count stk 0x120 unsealed.length
    let s := s.modStack stk fun t => (t.dropRelease n).dropLock n
    let s := (s.modStack stk fun t =>
      { t with released := if l.written.isEmpty then t.released else (k, l.written) :: t.released }).serveDeferred stk l
    let s := s.modStack stk Stack.forgetReleases
    match l.launchAt with
    | none => s
    | some (home, idx) => s.modStack home fun t => { t with
        launches := t.launches.map fun e => if e.1 = idx then (e.1, { e.2 with pubKey := e.2.pubKey.max k }) else e }

/-- BRUL's turn at the BCP. -/
def Stack.brulOf (t : Stack) (n : Nat) : Option BankCmd :=
  match t.bcpq.find? fun c => c.lock == n && (match c.instr with | .brul .. => true | _ => false) with
  | some c => if t.workBefore c.gang c.seq || t.bcpReset.isSome then none else some c
  | none => none

/-- The gang of a lock ended, and its bank instructions are over (R316). -/
def Stack.endedLock (t : Stack) (n : Nat) : Option RowLock :=
  match t.locks.find? fun e => e.1 == n && e.2.ending && e.2.releasing == none with
  | some (_, l) =>
    if (t.bcpq.any fun x => x.gang == l.gang) || (t.channels.any fun c => (c.2.run.map fun r => r.gang) == some l.gang) then none
    else some l
  | none => none

/-- A release at the BCP: BRUL's under Ku, or that of a gang that ended under a BCP key. -/
def execRowRelease (stk n : Nat) (s : State) : Host.Outcome State Fault Refusal :=
  let t := s.stack stk
  ifUnit (isStack stk && decide (n < lockSlots)) <|
  match t.brulOf n with
  | some c =>
    let torn := match t.locks.find? fun e => e.1 == n with | some e => e.2.tear | none => false
    ((s.modStack stk fun t => t.dequeue c).releaseLock stk n c.key torn).finishBank c 0 []
  | none =>
    match t.endedLock n with
    | none => s
    | some l => if s.bankKeyReady stk then (s.takeBankKey stk).releaseLock stk n (s.bankNextKey stk) l.tear else s

/-- A member carried out without effect (R314, R315): the lock of a BRLK is given up, and what waited for it goes on; that of
a BRUL is held on. -/
def State.abortBank (s : State) (c : BankCmd) : State :=
  let s := s.modStack c.stk fun t => t.dequeue c
  let s : State := match c.instr with
    | .brlk .. =>
      (match (s.stack c.stk).locks.find? fun e => e.1 == c.lock with
      | some (_, l) => (s.modStack c.stk fun t => t.dropLock c.lock).serveDeferred c.stk l
      | none => s)
    | .brul .. => s.modStack c.stk fun t =>
      { t.dropRelease c.lock with
        locks := t.locks.map fun e => if e.1 = c.lock then (e.1, { e.2 with releasing := none }) else e }
    | _ => s
  s.finishBank c stAbort []

/-- A member acts on rows of a lock. -/
def BankCmd.touches (c : BankCmd) (l : RowLock) : Bool :=
  (List.range c.grant).any fun i =>
    (c.writes i).any l.covers || match c.instr with
      | .bseal .. => (planeRows c.a).any fun r => l.covers (frameNo (c.a0 + planeOff c.a + i) r)
      | _ => false

/-- The lease of a lock is over, no release has begun, and no microprogram runs on the lock's rows (R314): the rows are to be torn,
or, when they are, the lock to be released under a key. -/
def State.leaseOver (s : State) (stk n : Nat) : Option RowLock :=
  match (s.stack stk).locks.find? fun e => e.1 == n with
  | some (_, l) =>
    if l.effective && l.releasing == none && !l.ending && decide (l.lease ≤ (s.time stk).toNat) &&
      !((s.stack stk).channels.any fun c => match c.2.run with | some r => r.touches l || r.reads.any l.covers | none => false) &&
      (!l.expired || s.bankKeyReady stk) then some l else none
  | none => none

/-- Lease expiry (R314): the gang's queued members that would write the rows complete with ABORT, the rows become torn, and
the lock is released under a BCP key, for which it may have to wait. -/
def execLeaseExpiry (stk n : Nat) (s : State) : Host.Outcome State Fault Refusal :=
  ifUnit (isStack stk && decide (n < lockSlots)) <|
  match s.leaseOver stk n with
  | none => s
  | some l =>
    let out := (s.stack stk).bcpq.filter fun c => c.gang == l.gang && c.touches l
    let s := out.foldl (fun s c => s.abortBank c) s
    let s := if l.expired then s else s.tear stk l.gang l.log l.frames
    if s.bankKeyReady stk then (s.takeBankKey stk).releaseLock stk n (s.bankNextKey stk) false
    else s.modStack stk fun t => { t with locks := t.locks.map fun e => if e.1 = n then (n, { e.2 with expired := true }) else e }

/-! ## The reset of the BCP (R315) -/

/-- A channel hangs: it makes no more progress. -/
def State.hangChannel (s : State) (stk die : Nat) : State :=
  s.modStack stk fun t => { t with channels := t.channels.map fun c =>
    if c.1 = die ∧ c.2.hung.isNone then (die, { c.2 with hung := some (s.time stk).toNat }) else c }

/-- A channel has made no progress for 65,536 ticks. -/
def State.channelStuck (s : State) (stk die : Nat) : Bool :=
  let c := (s.stack stk).channels.look die {}
  c.run.isSome && (match c.hung with | some t => decide (t + 65536 ≤ (s.time stk).toNat) | none => false) && (s.stack stk).bcpReset.isNone && s.bankKeyReady stk

/-- The row cycles that a channel has broadcast of its microprogram by a TIME; one that hangs has broadcast none since (R310). -/
def Channel.cast (c : Channel) (now : Nat) : Nat :=
  match c.run with
  | none => 0
  | some r => r.cycles - (c.left - Nat.min c.left ((c.hung.getD now - c.clock) / 28))

/-- The BCP resets: queued members complete with ABORT, the rows of running microprograms are torn and their locks released
under a BCP key. The row cycles that they broadcast are counted. -/
def State.resetBcp (s : State) (stk : Nat) (stuck : Nat) : State :=
  let t := s.stack stk
  let running := t.channels.filterMap fun c => c.2.run
  let s := t.bcpq.foldl (fun s c => s.abortBank c) s
  let s := s.modStack stk fun t => { t with channels := [], bcpReset := some ((s.time stk).toNat + 4096) }
  let s := s.count stk 0x120 (t.channels.map fun c => c.2.cast (s.time stk).toNat).sum
  let s := (s.pfb stk 0x0C 48 0 0 0 (BitVec.ofNat 64 stuck) 0).count stk 0x30 1
  let k := s.bankNextKey stk
  let s := s.takeBankKey stk
  running.foldl (fun s c =>
    let fs := (List.range c.grant).flatMap c.writes
    let s := s.tear stk c.gang c.log fs
    let ls := (s.stack stk).locks.filter fun e => e.2.gang == c.gang && fs.any e.2.covers
    let s := ls.foldl (fun s e => s.releaseLock stk e.1 k false) s
    s.finishBank c stAbort []) s

/-- R315. -/
def execBcpWatchdogReset (stk die : Nat) (s : State) : Host.Outcome State Fault Refusal :=
  ifUnit (isStack stk && decide (die < 12)) <|
  if !(s.channelStuck stk die) then s
  else s.resetBcp stk (((List.range 12).filter fun d => s.channelStuck stk d).map fun d => 2 ^ d).sum

/-- Members that come during the reset of the BCP complete with ABORT too; it is over after 4,096 ticks (R315). -/
def execBcpResetEnd (stk : Nat) (s : State) : Host.Outcome State Fault Refusal :=
  ifUnit (isStack stk) <|
  match (s.stack stk).bcpReset with
  | some u =>
    let s := (s.stack stk).bcpq.foldl (fun s c => s.abortBank c) s
    if u ≤ (s.time stk).toNat then s.modStack stk fun t => { t with bcpReset := none } else s
  | none => s

end Sys2Proof.Machine
end

