-- ==== Sys2Proof/Machine/Beacon.lean ====
section
/-! DEFINITION. Time beacons (R387), the freeze of the photo-finish buffers (R397), the residency command (R243), and the
writes of the service core's stack control space as steps of their own (R214). -/

namespace Sys2Proof.Machine

/-! ## TIME (R387) -/

/-- A TIME beacon is due: the master's TIME is 0 modulo 65,536 and none has been sent for it. -/
def State.timeDue (s : State) : Bool :=
  decide ((s.time 0).toNat % 65536 = 0) && !((s.stack 0).timeSent == some (s.time 0).toNat)

/-- R387: stack 0 sends its TIME to every other stack; the message arrives after 6 ticks a hop. -/
def execTimeBeacon (s : State) : Host.Outcome State Fault Refusal :=
  .next <|
  if !s.timeDue then s
  else
    let t := s.time 0
    (s.modStack 0 fun x => { x with timeSent := some t.toNat }).post
      (((List.range Config.stackCount).drop 1).map fun j => Msg.time j t (s.ticks + BitVec.ofNat 64 (6 * hopsFromMaster j)))
where
  /-- Hops of a minimal path from stack 0 (R6). -/
  hopsFromMaster (k : Nat) : Nat := k % 6 + k / 6

/-- R387: a beacon is compared with the stack's copy of TIME, which catches up or waits by one tick on the next. -/
def execTimeBeaconReceive (stk : Nat) (t : Word) (s : State) : Host.Outcome State Fault Refusal :=
  ifUnit (isStack stk) <|
  let want := (t + BitVec.ofNat 64 (6 * (stk % 6 + stk / 6))).toNat
  let have_ := (s.time stk).toNat
  let s := s.modStack stk fun x => { x with
    timeBeacon := have_, timeLate := false
    adjust := if have_ < want then 1 else if want < have_ then -1 else 0 }
  if want = have_ then s else s.count stk 0x50 1

/-- No time beacon for 131,072 ticks. -/
def State.timeIsLate (s : State) (stk : Nat) : Bool :=
  let t := s.stack stk
  decide (0 < stk) && !t.timeLate && decide (t.timeBeacon + 131072 ≤ (s.time stk).toNat)

/-- R387. -/
def execTimeBeaconOverdue (stk : Nat) (s : State) : Host.Outcome State Fault Refusal :=
  ifUnit (isStack stk) <|
  if !s.timeIsLate stk then s
  else ((s.modStack stk fun t => { t with timeLate := true }).pfb stk 0x10 62 0 0 0 (BitVec.ofNat 64 256)
    (BitVec.ofNat 64 (s.stack stk).timeBeacon)).count stk 0x58 1

/-! ## Freezing (R397) -/

/-- A fatal error of a stack, or a request of the host at it, which reaches a module that is up (R447), freezes its buffer and the
others'. -/
def execPfbFreeze (stk cause detail : Nat) (s : State) : Host.Outcome State Fault Refusal :=
  ifUnit (isStack stk) (if cause = 5 then (if s.bringUp = 6 ∧ !s.stopped then s.freezeAll stk cause detail else s) else if 1 ≤ cause ∧ cause ≤ 5 then s.freeze stk cause detail true else s)

/-- A freeze message arrives. -/
def execFreezeMessage (stk cause detail : Nat) (s : State) : Host.Outcome State Fault Refusal :=
  ifUnit (isStack stk) (s.freeze stk cause detail false)

/-! ## Residency (R243) -/

/-- A residency command written; one that finds another busy is lost. -/
def execResidencyCommand (stk : Nat) (v : Word) (s : State) : Host.Outcome State Fault Refusal :=
  ifUnit (isStack stk) ((s.controlWrite stk 0x2000 v).getD s)

/-- The frame marked, in the lowest free entry, or unmarked; it fails for a frame that is not home memory of the stack,
without a free entry, and for an unmark of a frame that is not resident. -/
def Stack.moveResident (t : Stack) (stk : Nat) (v : Word) : Option (Tbl Word) :=
  let frame := (v.extractLsb' 16 32).toNat
  let entry : Word := BitVec.ofNat 64 (frame * 65536 + 1)
  let here := frame / (Config.stackSlot / 65536) == stk && decide (frame % (Config.stackSlot / 65536) < Config.homeBytes / 65536)
  match t.residency.find? fun e => e.2 == entry with
  | some e => if v.getLsbD 0 then some t.residency else some (Tbl.drop t.residency e.1)
  | none =>
    if !v.getLsbD 0 || !here then none
    else ((List.range 4608).find? fun i => !((t.residency.look i 0).getLsbD 0)).map fun i => t.residency.put i entry

/-- The move is over, and the stack cache holds none of the frame; merges of the frame go on in its new place. -/
def execResidencyDone (stk : Nat) (s : State) : Host.Outcome State Fault Refusal :=
  ifUnit (isStack stk) <|
  match (s.stack stk).resCmd with
  | none => s
  | some v => s.modStack stk fun t =>
      match t.moveResident stk v with
      | some r =>
        let frame := (v.extractLsb' 16 32).toNat
        { (t.cacheDrop fun f => f == frame % (Config.stackSlot / 65536)) with residency := r, resCmd := none }
      | none => { t with resCmd := none, resFailed := true }

/-! ## Control-space writes (R214) -/

/-- A write of the control space of a stack; one that the map does not allow has no effect. -/
def execServiceControlWrite (stk off : Nat) (v : Word) (s : State) : Host.Outcome State Fault Refusal :=
  ifUnit (isStack stk) ((s.controlWrite stk off v).getD s)

/-- A core of a stack. -/
def coreOf (stk c : Nat) : Bool := isStack stk && decide (c < Config.coresPerStack)

/-- R214. -/
def execCapmaskWrite (stk c : Nat) (v : Word) (s : State) : Host.Outcome State Fault Refusal :=
  ifUnit (coreOf stk c) (s.writeCapmask stk (48 * stk + c) v)

/-- R214. -/
def execFirmwareCapmaskWrite (stk c : Nat) (v : Word) (s : State) : Host.Outcome State Fault Refusal :=
  ifUnit (coreOf stk c) (s.writeFwCapmask stk (48 * stk + c) v)

/-- R218. -/
def execHaltRelease (stk c : Nat) (v : Word) (s : State) : Host.Outcome State Fault Refusal :=
  ifUnit (coreOf stk c) (s.releaseHalts (48 * stk + c) v)

/-- R214, R219. -/
def execStackPtinv (stk : Nat) (v : Word) (s : State) : Host.Outcome State Fault Refusal :=
  ifUnit (isStack stk) (s.stackInvalidate stk v)

/-- R394. -/
def execPfbClearFrozen (stk : Nat) (s : State) : Host.Outcome State Fault Refusal :=
  ifUnit (isStack stk) (s.modStack stk fun t => { t with pfb := { t.pfb with frozen := false } })

/-- R214, R449: the last doubleword of a key-wrapping key. -/
def execKeyWrapKeyWrite (stk : Nat) (v : Word) (s : State) : Host.Outcome State Fault Refusal :=
  ifUnit (isStack stk) (s.writeKwk stk 3 v)

/-- R405, R406. -/
def execChannelBindingWrite (stk n : Nat) (v : Word) (s : State) : Host.Outcome State Fault Refusal :=
  ifUnit (isStack stk && decide (n < 64)) (if s.bindingOk stk n v then s.bindChannel stk n v else s)

/-- R393. -/
def execCounterClear (stk off : Nat) (s : State) : Host.Outcome State Fault Refusal :=
  ifUnit (isStack stk) ((s.controlWrite stk (0x20000 + off) 0).getD s)

end Sys2Proof.Machine
end

