-- ==== Sys2Proof/Machine/Crypto.lean ====
section
/-! DEFINITION. The published algorithms the manual names: AES-256 (FIPS 197), GCM (SP 800-38D), AES key unwrap (RFC 3394),
SHA-256 (FIPS 180-4) and ECDSA P-256 verification (FIPS 186-4), for R344, R346 and R446 to R448. -/

namespace Sys2Proof.Machine

/-! ## Big-endian numbers -/

/-- The number of big-endian bytes. -/
def ofBytesBE (bs : List Byte) : Nat := bs.foldl (fun n b => 256 * n + b.toNat) 0
/-- The `n` big-endian bytes of a number. -/
def bytesBE (n x : Nat) : List Byte := (bytesOf x n).reverse
/-- A list cut into pieces of `n`, at most `fuel` of them. -/
def pieces {α : Type} (n : Nat) : (fuel : Nat) → List α → List (List α)
  | 0, _ => []
  | f + 1, l => if l.isEmpty then [] else l.take n :: pieces n f (l.drop n)
/-- The bytewise exclusive or. -/
def xorBytes (a b : List Byte) : List Byte := List.zipWith (fun x y => x ^^^ y) a b

/-! ## AES-256 -/

/-- Multiplication by x in GF(2^8). -/
def xtime (a : Byte) : Byte := (a <<< 1) ^^^ (if a.getLsbD 7 then 0x1B else 0)
/-- Multiplication in GF(2^8). -/
def gfMul (a b : Byte) : Byte :=
  ((List.range 8).foldl (fun (r : Byte × Byte) i => (xtime r.1, if b.getLsbD i then r.2 ^^^ r.1 else r.2)) (a, 0)).2
/-- The rows of the S-box (FIPS 197, Figure 7): sixteen values each, the first the most significant byte. -/
def sboxRows : List Nat :=
  [0x637c777bf26b6fc53001672bfed7ab76, 0xca82c97dfa5947f0add4a2af9ca472c0, 0xb7fd9326363ff7cc34a5e5f171d83115,
   0x04c723c31896059a071280e2eb27b275, 0x09832c1a1b6e5aa0523bd6b329e32f84, 0x53d100ed20fcb15b6acbbe394a4c58cf,
   0xd0efaafb434d338545f9027f503c9fa8, 0x51a3408f929d38f5bcb6da2110fff3d2, 0xcd0c13ec5f974417c4a77e3d645d1973,
   0x60814fdc222a908846eeb814de5e0bdb, 0xe0323a0a4906245cc2d3ac629195e479, 0xe7c8376d8dd54ea96c56f4ea657aae08,
   0xba78252e1ca6b4c6e8dd741f4bbd8b8a, 0x703eb5664803f60e613557b986c11d9e, 0xe1f8981169d98e949b1e87e9ce5528df,
   0x8ca1890dbfe6426841992d0fb054bb16]
/-- The rows of the inverse S-box (FIPS 197, Figure 14). -/
def sboxInvRows : List Nat :=
  [0x52096ad53036a538bf40a39e81f3d7fb, 0x7ce339829b2fff87348e4344c4dee9cb, 0x547b9432a6c2233dee4c950b42fac34e,
   0x082ea16628d924b2765ba2496d8bd125, 0x72f8f66486689816d4a45ccc5d65b692, 0x6c704850fdedb9da5e154657a78d9d84,
   0x90d8ab008cbcd30af7e45805b8b34506, 0xd02c1e8fca3f0f02c1afbd0301138a6b, 0x3a9111414f67dcea97f2cfcef0b4e673,
   0x96ac7422e7ad3585e2f937e81c75df6e, 0x47f11a711d29c5896fb7620eaa18be1b, 0xfc563e4bc6d279209adbc0fe78cd5af4,
   0x1fdda8338807c731b11210592780ec5f, 0x60517fa919b54a0d2de57a9f93c99cef, 0xa0e03b4dae2af5b0c8ebbb3c83539961,
   0x172b047eba77d626e169146355210c7d]
/-- The value of a table in the row of the high digit and the column of the low one. -/
def substitute (rows : List Nat) (a : Byte) : Byte :=
  BitVec.ofNat 8 (rows.getD (a.toNat / 16) 0 / 256 ^ (15 - a.toNat % 16))
/-- The S-box. -/
def sbox (a : Byte) : Byte := substitute sboxRows a
/-- The inverse S-box. -/
def sboxInv (a : Byte) : Byte := substitute sboxInvRows a

/-- The words of the key schedule from the last eight on, latest first; `n` more words follow, the next being word `i`. -/
def expandKey : (n i : Nat) → Byte → List (List Byte) → List (List Byte)
  | 0, _, _, w => w
  | n + 1, i, rcon, w =>
    let t := w.headD []
    let t := if i % 8 = 0 then xorBytes ((t.drop 1 ++ t.take 1).map sbox) [rcon, 0, 0, 0] else if i % 8 = 4 then t.map sbox else t
    expandKey n (i + 1) (if i % 8 = 0 then xtime rcon else rcon) (xorBytes (w.getD 7 []) t :: w)

/-- The fifteen round keys. -/
def roundKeys (key : List Byte) : List (List Byte) :=
  pieces 16 15 (expandKey 52 8 1 (pieces 4 8 key).reverse).reverse.flatten

/-- A column times the circulant matrix of a first row. -/
def mixColumn (m : List Byte) (c : List Byte) : List Byte :=
  (List.range 4).map fun r => (List.range 4).foldl (fun x k => x ^^^ gfMul (c.getD k 0) (m.getD ((k + 4 - r) % 4) 0)) 0
/-- MixColumns, or its inverse. -/
def mixColumns (m s : List Byte) : List Byte := (pieces 4 4 s).flatMap (mixColumn m)
/-- ShiftRows by `d` times the row. -/
def shiftRows (d : Nat) (s : List Byte) : List Byte := (List.range 16).map fun i => s.getD (i % 4 + 4 * ((i / 4 + d * (i % 4)) % 4)) 0

/-- One block encrypted under round keys. -/
def aesEncrypt (rk : List (List Byte)) (b : List Byte) : List Byte :=
  let s := (List.range 13).foldl (fun s r => xorBytes (mixColumns [2, 3, 1, 1] (shiftRows 1 (s.map sbox))) (rk.getD (r + 1) []))
    (xorBytes b (rk.getD 0 []))
  xorBytes (shiftRows 1 (s.map sbox)) (rk.getD 14 [])

/-- One block decrypted. -/
def aesDecrypt (rk : List (List Byte)) (b : List Byte) : List Byte :=
  let s := (shiftRows 3 (xorBytes b (rk.getD 14 []))).map sboxInv
  (List.range 13).foldl (fun s r =>
    (shiftRows 3 (mixColumns [14, 11, 13, 9] (xorBytes s (rk.getD (13 - r) [])))).map sboxInv) s |> fun s => xorBytes s (rk.getD 0 [])

/-- The bytes of a 256-bit key, most significant first. -/
def keyBytes (k : BitVec 256) : List Byte := bytesBE 32 k.toNat

/-! ## GCM -/

/-- The product in GF(2^128), bit 0 of a block being its leftmost bit. -/
def ghashMul (x y : Nat) : Nat :=
  ((List.range 128).foldl (fun (r : Nat × Nat) i =>
    (if r.1 % 2 = 1 then r.1 / 2 ^^^ 0xE1000000000000000000000000000000 else r.1 / 2,
     if x / 2 ^ (127 - i) % 2 = 1 then r.2 ^^^ r.1 else r.2)) (y, 0)).2

/-- GHASH of whole blocks. -/
def ghash (h : Nat) (bs : List (List Byte)) : Nat := bs.foldl (fun y b => ghashMul (y ^^^ ofBytesBE b) h) 0

/-- The counter block `n` after J0 of a 96-bit IV. -/
def gcmBlock (iv : List Byte) (n : Nat) : List Byte := iv ++ bytesBE 4 ((1 + n) % 2 ^ 32)

/-- AES-256-GCM of a ciphertext of whole blocks with no additional data (R344): the plaintext, none when the tag does not
verify. -/
def gcmOpen (key : BitVec 256) (iv ct tag : List Byte) : Option (List Byte) :=
  let rk := roundKeys (keyBytes key)
  let h := ofBytesBE (aesEncrypt rk (List.replicate 16 0))
  let bs := pieces 16 ct.length ct
  let g := ghash h (bs ++ [bytesBE 8 0 ++ bytesBE 8 (8 * ct.length)])
  if xorBytes (bytesBE 16 g) (aesEncrypt rk (gcmBlock iv 0)) = tag then
    some ((List.range bs.length).flatMap fun i => xorBytes (bs.getD i []) (aesEncrypt rk (gcmBlock iv (i + 1))))
  else none

/-! ## AES key unwrap -/

/-- RFC 3394 unwrap of a wrapped 256-bit key of 40 bytes; none when the integrity check fails. -/
def keyUnwrap (kek : BitVec 256) (c : List Byte) : Option (BitVec 256) :=
  let rk := roundKeys (keyBytes kek)
  let start := (c.take 8, pieces 8 4 (c.drop 8))
  let r := (List.range 24).foldl (fun (s : List Byte × List (List Byte)) q =>
    let t := 24 - q
    let i := (t - 1) % 4
    let b := aesDecrypt rk (bytesBE 8 (ofBytesBE s.1 ^^^ t) ++ s.2.getD i [])
    (b.take 8, s.2.set i (b.drop 8))) start
  if r.1 = List.replicate 8 0xA6 then some (BitVec.ofNat 256 (ofBytesBE r.2.flatten)) else none

/-! ## SHA-256 -/

/-- The integer cube root's fractional bits, or the square root's: floor of the `d`-th root of p × 2^(32 d), low 32 bits. -/
def rootBits (d p : Nat) : BitVec 32 :=
  BitVec.ofNat 32 ((List.range 40).foldl (fun r i => if (r + 2 ^ (39 - i)) ^ d ≤ p * 2 ^ (32 * d) then r + 2 ^ (39 - i) else r) 0)

/-- The first 64 primes. -/
def primes64 : List Nat :=
  [2, 3, 5, 7, 11, 13, 17, 19, 23, 29, 31, 37, 41, 43, 47, 53, 59, 61, 67, 71, 73, 79, 83, 89, 97, 101, 103, 107, 109, 113,
   127, 131] ++ [137, 139, 149, 151, 157, 163, 167, 173, 179, 181, 191, 193, 197, 199, 211, 223, 227, 229, 233, 239, 241, 251,
   257, 263, 269, 271, 277, 281, 283, 293, 307, 311]

/-- The message schedule, latest first, extended by `n` words. -/
def shaSchedule : Nat → List (BitVec 32) → List (BitVec 32)
  | 0, w => w
  | n + 1, w =>
    let a := w.getD 14 0
    let b := w.getD 1 0
    let s0 := a.rotateRight 7 ^^^ a.rotateRight 18 ^^^ (a >>> 3)
    let s1 := b.rotateRight 17 ^^^ b.rotateRight 19 ^^^ (b >>> 10)
    shaSchedule n ((w.getD 15 0 + s0 + w.getD 6 0 + s1) :: w)

/-- One round on a to h. -/
def shaRound (v : List (BitVec 32)) (k w : BitVec 32) : List (BitVec 32) :=
  match v with
  | [a, b, c, d, e, f, g, h] =>
    let t1 := h + (e.rotateRight 6 ^^^ e.rotateRight 11 ^^^ e.rotateRight 25) + ((e &&& f) ^^^ (~~~e &&& g)) + k + w
    let t2 := (a.rotateRight 2 ^^^ a.rotateRight 13 ^^^ a.rotateRight 22) + ((a &&& b) ^^^ (a &&& c) ^^^ (b &&& c))
    [t1 + t2, a, b, c, d + t1, e, f, g]
  | _ => v

/-- SHA-256. -/
def sha256 (m : List Byte) : List Byte :=
  let pad := m ++ [0x80] ++ List.replicate ((119 - m.length % 64) % 64) 0 ++ bytesBE 8 (8 * m.length)
  let ks := primes64.map (rootBits 3)
  let h0 := (primes64.take 8).map (rootBits 2)
  let h := (pieces 64 pad.length pad).foldl (fun h b =>
    let w0 := (pieces 4 16 b).map fun x => BitVec.ofNat 32 (ofBytesBE x)
    let w := (shaSchedule 48 w0.reverse).reverse
    List.zipWith (· + ·) h ((List.zip ks w).foldl (fun v x => shaRound v x.1 x.2) h)) h0
  h.flatMap fun x => bytesBE 4 x.toNat

/-! ## ECDSA P-256 -/

/-- The field prime. -/
def p256 : Nat := 2 ^ 256 - 2 ^ 224 + 2 ^ 192 + 2 ^ 96 - 1
/-- The group order. -/
def n256 : Nat := 0xFFFFFFFF00000000FFFFFFFFFFFFFFFFBCE6FAADA7179E84F3B9CAC2FC632551
/-- The coefficient b. -/
def b256 : Nat := 0x5AC635D8AA3A93E7B3EBBD55769886BC651D06B0CC53B0F63BCE3C3E27D2604B
/-- The base point. -/
def g256 : Nat × Nat :=
  (0x6B17D1F2E12C4247F8BCE6E563A440F277037D812DEB33A0F4A13945D898C296,
   0x4FE342E2FE1A7F9B8EE7EB4A7C0F9E162BCE33576B315ECECBB6406837BF51F5)

/-- x^e modulo m for exponents below 2^256. -/
def powMod (x e m : Nat) : Nat :=
  (List.range 256).foldl (fun r i => let q := r * r % m; if e / 2 ^ (255 - i) % 2 = 1 then q * x % m else q) 1

/-- The inverse modulo a prime. -/
def invMod (x m : Nat) : Nat := powMod (x % m) (m - 2) m

/-- A point: none at infinity. -/
abbrev Point := Option (Nat × Nat)

/-- The sum of two points of the curve. -/
def addPoint : Point → Point → Point
  | none, q => q
  | p, none => p
  | some (x1, y1), some (x2, y2) =>
    if x1 = x2 ∧ (y1 + y2) % p256 = 0 then none
    else
      let l := if x1 = x2 then (3 * x1 * x1 + p256 - 3) * invMod (2 * y1) p256 % p256
        else (y2 + p256 - y1) * invMod (x2 + p256 - x1) p256 % p256
      let x3 := (l * l + 2 * p256 - x1 - x2) % p256
      some (x3, (l * (x1 + p256 - x3) + p256 - y1) % p256)

/-- A multiple of a point. -/
def mulPoint (k : Nat) (p : Point) : Point :=
  (List.range 256).foldl (fun r i => let q := addPoint r r; if k / 2 ^ (255 - i) % 2 = 1 then addPoint q p else q) none

/-- A signature verifies on a hash under a public key (x, y). -/
def ecdsaVerify (x y r s : Nat) (hash : List Byte) : Bool :=
  if r = 0 ∨ n256 ≤ r ∨ s = 0 ∨ n256 ≤ s ∨ p256 ≤ x ∨ p256 ≤ y then false
  else if (y * y) % p256 ≠ (x * x * x + (p256 - 3) * x + b256) % p256 then false
  else
    let w := invMod s n256
    match addPoint (mulPoint (ofBytesBE hash * w % n256) (some g256)) (mulPoint (r * w % n256) (some (x, y))) with
    | none => false
    | some (x1, _) => x1 % n256 == r

end Sys2Proof.Machine
end

