-- ==== Sys2Proof/Machine/Copy.lean ====
section
/-! DEFINITION. The copy members (R332 to R348), the copy engine with its chunks, the crypto channel and the remote table as
copies use it (R410). -/

namespace Sys2Proof.Machine

/-! ## The remote table (R214, R410) -/

/-- Word `w` of remote table entry `i`. -/
def Stack.remoteWord (t : Stack) (i w : Nat) : Word := t.remote.look (4 * i + w) 0
/-- An entry is in force. -/
def remoteValid (x : Word) : Bool := x.getLsbD 0
/-- Its domain. -/
def remoteDomain (x : Word) : Nat := (x.extractLsb' 8 6).toNat
/-- Its rights: put, get, add. -/
def remoteRight (x : Word) (n : Nat) : Bool := x.getLsbD (16 + n)

/-! ## Checks (R336) -/

/-- A copy fault unless every condition of R336 holds; the list is in rising order. -/
def copyChecks (s : State) (rs : List (Bool × Nat)) (k : Res State) : Res State :=
  match rs.find? fun r => r.1 with
  | some r => .trap 0x21 (classVal s.hart.cv.idx r.2)
  | none => k

/-- The slot is queued or running. -/
def CopyStatus.busy (b : CopyStatus) : Bool := b.state == 1 || b.state == 2

/-- Slot `k` of the selected context is busy. -/
def State.slotBusy (s : State) (k : BitVec 5) : Bool := ((s.log s.hart.key).copies.look k.toNat {}).busy

/-- A length outside 1 to 2^32. -/
def badLength (n : Nat) : Bool := n == 0 || decide (2 ^ 32 < n)

/-- A byte range that passes 2^64, has a bit of [63:54] set at an end, or meets the private window, which ends the virtual
space. -/
def badRange (lo n : Int) : Bool := decide (0 < n) && (decide (lo < 0) || decide ((Config.window : Int) < lo + n))

/-- Entries of the core copy queue (R332). -/
def copyDepth : Nat := 128

/-- The copies that a core's queue holds: one that has ended has left it (R334). -/
def CoreS.queued (c : CoreS) : Nat := (c.copies.filter fun x => !x.ended).length

/-- A copy member past its checks: it waits for an entry of the queue; then pk is written all false and bound, and the
entry goes to the queue at the commit point. -/
def copyMember (s : State) (i : Instr) (k : BitVec 5) (pk : PReg) (code : BitVec 3) (checks : State → List (Bool × Nat))
    (cmd : State → CopyCmd → CopyCmd) : Host.Outcome State Fault Refusal :=
  member s i fun s =>
    copyChecks s ((s.slotBusy k, 1) :: checks s) <|
    if copyDepth ≤ (s.core s.hart.core).queued then .wait s .ordering
    else
      let c := cmd s { instr := i, serial := s.serial + 1, log := s.hart.key, slot := k.toNat, domain := s.hart.domain.toNat,
                       sprint := s.hart.sprint, stk := s.stk }
      let s : State := { s with serial := s.serial + 1 }
      let bound : PRegS := { dirty := true, bind := some { base := c.dst, code := code, copy := c.serial } }
      let s := if pk = 0 then s else s.modRegs fun r => { r with p := r.p.put pk.toNat bound }
      .ok (s.effect (.copy c))

/-- R339. -/
def execCpy (k : BitVec 5) (sdst ssrc slen : SReg) (c : BitVec 3) (pk : PReg) (s : State) : Host.Outcome State Fault Refusal :=
  copyMember s (.cpy k sdst ssrc slen c pk) k pk c
    (fun s =>
      let n := (s.src.rs slen).toNat
      [(badLength n, 2), (badRange (s.src.rs ssrc).toNat n || badRange (s.src.rs sdst).toNat n, 3)])
    fun s x => { x with dst := s.src.rs sdst, src := s.src.rs ssrc, len := s.src.rs slen }

/-- The row strides of CPY2D: source, destination (R340). -/
def strides (y : Word) : Int × Int := ((y.extractLsb' 0 32).toInt, (y.extractLsb' 32 32).toInt)

/-- R340. With no row the range of one row is checked for reason 3 (R336; notes/assumptions/128.md). -/
def execCpy2d (k : BitVec 5) (sdst ssrc slen : SReg) (c : BitVec 3) (srows sstr : SReg) (pk : PReg) (s : State) :
    Host.Outcome State Fault Refusal :=
  copyMember s (.cpy2d k sdst ssrc slen c srows sstr pk) k pk c
    (fun s =>
      let n := (s.src.rs slen).toNat
      let rows := (s.src.rs srows).toNat % 2 ^ 32
      let (a, b) := strides (s.src.rs sstr)
      let last : Int := (rows - 1 : Nat)
      let span (x d : Int) : Bool := badRange (x + min 0 (last * d)) (n + max 0 (last * d) - min 0 (last * d))
      [ (badLength n || decide (2 ^ 32 < rows * n), 2),
        (span (s.src.rs ssrc).toNat a || span (s.src.rs sdst).toNat b, 3),
        (rows == 0 || decide (65536 < rows) || !((s.src.rs srows).extractLsb' 32 32 == 0) || decide (b < n), 4) ])
    fun s x => { x with dst := s.src.rs sdst, src := s.src.rs ssrc, len := s.src.rs slen, x := s.src.rs srows,
                        y := s.src.rs sstr }

/-- R344. -/
def execCpyd (k : BitVec 5) (sdst ssrc slen snonce sidx : SReg) (pk : PReg) (s : State) : Host.Outcome State Fault Refusal :=
  copyMember s (.cpyd k sdst ssrc slen snonce sidx pk) k pk 3
    (fun s =>
      let n := (s.src.rs slen).toNat
      let x := s.src.rs sidx
      let key := (s.stack s.stk).keySlots.look (x.extractLsb' 32 6).toNat {}
      [ (badLength n, 2),
        (badRange (s.src.rs ssrc).toNat (4112 * ceilDiv n 4096) || badRange (s.src.rs sdst).toNat n, 3),
        (!(n % 4096 == 0) || decide (2 ^ 32 ≤ x.toNat % 2 ^ 32 + n / 4096 - 1) || !(x.extractLsb' 38 26 == 0), 5),
        (!key.valid || !(key.domain == s.hart.domain.toNat), 6) ])
    fun s x => { x with dst := s.src.rs sdst, src := s.src.rs ssrc, len := s.src.rs slen, x := s.src.rs snonce,
                        y := s.src.rs sidx }

/-- R341. -/
def execCpye (k : BitVec 5) (sdst ssrc slen : SReg) (c : BitVec 3) (srem : SReg) (pk : PReg) (s : State) :
    Host.Outcome State Fault Refusal :=
  copyMember s (.cpye k sdst ssrc slen c srem pk) k pk c
    (fun s =>
      let n := (s.src.rs slen).toNat
      let d := s.src.rs srem
      let get := d.getLsbD 16
      let e := d.toNat % 65536
      let w := (s.stack s.stk).remoteWord e 0
      [ (badLength n, 2), (badRange (s.src.rs ssrc).toNat n || badRange (s.src.rs sdst).toNat n, 3),
        (!(d.extractLsb' 17 47 == 0) || decide (4096 ≤ e) || !remoteValid w || !(remoteDomain w == s.hart.domain.toNat) ||
          !(remoteRight w (if get then 1 else 0)), 7) ])
    fun s x => { x with dst := s.src.rs sdst, src := s.src.rs ssrc, len := s.src.rs slen, x := s.src.rs srem
                        entry := (List.range 4).map ((s.stack s.stk).remoteWord ((s.src.rs srem).toNat % 65536)) }

/-- R346. The range at ssrc is checked for reason 3 also where the slot is cleared and nothing is read (R336;
notes/assumptions/128.md). -/
def execCkey (k : BitVec 5) (ssrc sslot : SReg) (s : State) : Host.Outcome State Fault Refusal :=
  copyMember s (.ckey k ssrc sslot) k 0 0
    (fun s =>
      let x := s.src.rs sslot
      [ (badRange (s.src.rs ssrc).toNat 40, 3), (!(x.extractLsb' 15 49 == 0) || !(x.extractLsb' 6 2 == 0), 8) ])
    fun s x => { x with src := s.src.rs ssrc, len := 40, x := s.src.rs sslot }

/-- R347. -/
def execCwait (sd smask : SReg) (s : State) : Host.Outcome State Fault Refusal :=
  member s (.cwait sd smask) fun s =>
    let l := s.log s.hart.key
    let ks := (List.range 32).filter fun k => (s.src.rs smask).getLsbD k
    let blk (k : Nat) : CopyStatus := l.copies.look k {}
    if ks.any fun k => (blk k).busy then .wait s .copyWait
    else
      let failed := (ks.filter fun k => 4 ≤ (blk k).state).foldl (fun (m : Word) k => m ||| 1#64 <<< k) 0
      let top := (ks.flatMap fun k => (blk k).keys).foldl Key.max 0
      .ok ((s.modLog s.hart.key fun l => { l with floor := l.floor.max top }).memberLate sd failed)

/-- A word of a status block (R333). -/
def CopyStatus.word (b : CopyStatus) (n : Nat) : Word :=
  match n with
  | 0 => BitVec.ofNat 64 (b.chunks % 2 ^ 32 * 2 ^ 32 + b.flags.toNat * 16 + b.state)
  | 1 => b.erraddr
  | 2 => BitVec.ofNat 64 (b.tagfails % 2 ^ 32 * 2 ^ 32 + b.firstFail)
  | _ => b.endTime

/-- R348. -/
def execCstat (sd : SReg) (k : BitVec 5) (word : BitVec 2) (s : State) : Host.Outcome State Fault Refusal :=
  member s (.cstat sd k word) fun s =>
    .ok (s.memberLate sd (((s.log s.hart.key).copies.look k.toNat {}).word word.toNat))

/-! ## The commit point (R336) -/

/-- A copy at its commit point: the status block is reset and the entry joins the queue. -/
def State.commitCopy (s : State) (c : CopyCmd) : Res State :=
  if copyDepth ≤ (s.core s.hart.core).queued then .wait s .ordering
  else
    let gen := match c.instr with
      | .cpyd .. => ((s.stack c.stk).keySlots.look (c.y.extractLsb' 32 6).toNat {}).gen
      | _ => 0
    let b : CopyStatus := { state := 1, owner := c.serial }
    let n := s.serial + 1
    let s : State := { s with serial := n }
    .ok ((s.modLog c.log fun l => { l with copies := l.copies.put c.slot b }).modCore s.hart.core fun k =>
      { k with copies := k.copies ++ [{ c with gen := gen, order := n }] })

/-! ## Chunks (R337 to R341, R344) -/

/-- The chunk size of a copy. -/
def CopyCmd.size (c : CopyCmd) : Nat :=
  match c.instr with
  | .cpy _ _ _ _ k _ => 512 * 2 ^ k.toNat
  | .cpy2d _ _ _ _ k _ _ _ => 512 * 2 ^ k.toNat
  | .cpye _ _ _ _ k _ _ => 512 * 2 ^ k.toNat
  | _ => 4096

/-- The destination bytes from the base to the end of the copy. -/
def CopyCmd.extent (c : CopyCmd) : Nat :=
  match c.instr with
  | .cpy2d .. => (c.x.toNat % 2 ^ 32 - 1) * (strides c.y).2.toNat + c.len.toNat
  | _ => c.len.toNat

/-- The number of chunks. -/
def CopyCmd.total (c : CopyCmd) : Nat := match c.instr with | .ckey .. => 0 | _ => ceilDiv c.extent c.size

/-- The parts of chunk `j`: source address, destination address and bytes of each. -/
def CopyCmd.parts (c : CopyCmd) (j : Nat) : List (Nat × Nat × Nat) :=
  let lo := j * c.size
  let hi := Nat.min (lo + c.size) c.extent
  match c.instr with
  | .cpy2d .. =>
    let a := (strides c.y).1
    let b := (strides c.y).2.toNat
    let n := c.len.toNat
    let rows := c.x.toNat % 2 ^ 32
    ((List.range ((hi - 1) / b + 1 - lo / b)).map fun i => lo / b + i).filterMap fun i =>
      let from_ := Nat.max lo (i * b)
      let stop := Nat.min hi (i * b + n)
      if i < rows ∧ from_ < stop then
        some (((c.src.toNat : Int) + i * a + (from_ - i * b : Nat)).toNat, c.dst.toNat + from_, stop - from_) else none
  | .cpyd .. => [(c.src.toNat + 4112 * j, c.dst.toNat + lo, hi - lo)]
  | _ => [(c.src.toNat + lo, c.dst.toNat + lo, hi - lo)]

/-- A chunk with no byte of the copy (R340). -/
def CopyCmd.gap (c : CopyCmd) (j : Nat) : Bool := (c.parts j).isEmpty

/-- Source and destination ranges overlap (R338). -/
def CopyCmd.overlaps (c : CopyCmd) : Bool :=
  let d := c.dst.toNat
  let meet (lo n : Int) : Bool := decide (lo < d + c.extent) && decide ((d : Int) < lo + n)
  match c.instr with
  | .cpy2d .. =>
    let w := ((c.x.toNat % 2 ^ 32 - 1 : Nat) : Int) * (strides c.y).1
    meet (c.src.toNat + min 0 w) (c.len.toNat + max 0 w - min 0 w)
  | .cpyd .. => meet c.src.toNat (4112 * ceilDiv c.len.toNat 4096 : Nat)
  | .cpye .. | .ckey .. => false
  | _ => meet c.src.toNat c.len.toNat

/-- Flags of a status block. -/
def cfTag : BitVec 6 := 1
/-- FAULT. -/
def cfFault : BitVec 6 := 2
/-- MEMERR. -/
def cfMemerr : BitVec 6 := 4
/-- DOMAINERR. -/
def cfDomain : BitVec 6 := 8
/-- KEYFAIL. -/
def cfKey : BitVec 6 := 16
/-- REMOTE. -/
def cfRemote : BitVec 6 := 32

/-- A change of the status block of a copy, while the block is still its own. -/
def State.modBlock (s : State) (c : CopyCmd) (f : CopyStatus → CopyStatus) : State :=
  let b := (s.log c.log).copies.look c.slot {}
  if b.owner = c.serial then s.modLog c.log fun l => { l with copies := l.copies.put c.slot (f b) } else s

/-- A change of a queue entry; an ended copy with nothing in flight leaves the queue. -/
def State.modCopy (s : State) (g serial : Nat) (f : CopyCmd → CopyCmd) : State :=
  s.modCore g fun k => { k with copies :=
    (k.copies.map fun c => if c.serial = serial then f c else c).filter fun c => !(c.ended && c.fly.isEmpty) }

/-- The end of a copy, in a state with a flag and an error address (R337). -/
def State.endCopy (s : State) (g : Nat) (c : CopyCmd) (st : Nat) (f : BitVec 6) (va : Option Word) : State :=
  let s := s.modBlock c fun b => { b with state := st, flags := b.flags ||| f, endTime := s.time c.stk,
                                          erraddr := if b.erraddr = 0 then va.getD 0 else b.erraddr }
  (s.modCopy g c.serial fun x => { x with ended := true }).signal fun h => h.key == c.log

/-- A chunk resolved; after the last one the copy ends, in state 4 when a tag failed. -/
def State.resolve (s : State) (g : Nat) (c : CopyCmd) (j n : Nat) : State :=
  let s := s.modCopy g c.serial fun x => { x with resolved := x.resolved + n, fly := x.fly.filter fun y => !(y.chunk == j) }
  match (s.core g).copies.find? fun x => x.serial == c.serial with
  | none => s
  | some x =>
    if x.resolved < x.total || x.ended then s
    else s.endCopy g x (if ((s.log c.log).copies.look c.slot {}).flags &&& cfTag = 0 then 3 else 4) 0 none

/-- The completed chunks set in the bound predicates of a context (R126, R337). -/
def Regs.setChunks (r : Regs) (cs : List (Nat × Nat × Key)) : Regs :=
  let put (p : PRegS) (c : Nat × Nat × Key) : PRegS :=
    match p.bind with
    | some b =>
      if b.copy = c.1 ∧ c.2.1 < 256 * r.lanes then
        { bits := p.bits ||| 1#16384 <<< c.2.1, dirty := true, bind := some { b with keys := b.keys.put c.2.1 c.2.2 } } else p
    | none => p
  { r with p := r.p.map fun e => (e.1, cs.foldl put e.2) }

/-- The predicates of a context stand as its convoy sampled them, or in its saved image: chunks that complete are set later. -/
def Hart.sampled (h : Hart) : Bool :=
  h.cv.active || h.slot == .saving || h.slot == .saved ||
  match h.phase with
  | .requested _ | .returned _ _ | .ordering => true
  | .retry | .deferredRead _ => h.att.issued
  | _ => false

/-- The chunks noted for a context set in its predicates. -/
def Hart.flushChunks (h : Hart) : Hart := { h with regs := h.regs.setChunks h.chunks, chunks := [] }

/-- A completed chunk sets its bit in the predicate that is bound to the copy (R126), or is noted while the predicates
stand. -/
def State.noteChunk (s : State) (c : CopyCmd) (j : Nat) (k : Key) : State :=
  s.modCtx c.log fun h =>
    let h := { h with chunks := h.chunks ++ [(c.serial, j, k)] }
    if h.sampled then h else h.flushChunks

/-- A translation by the copy engine, in the scalar bank of its core (R337). -/
def State.copyAddr (s : State) (g : Nat) (c : CopyCmd) (k : Access) (a : Nat) : Except MemFault Nat × State :=
  let r := translate s c.stk (s.core g).walks 1 c.domain k (BitVec.ofNat 64 a)
  (r.1.map Prod.fst, s.setWalks g r.2)

/-- The granules of a byte range translated: the address and canonical address of the first byte in each, and the bytes
there. -/
def State.copyPages (s : State) (g : Nat) (c : CopyCmd) (k : Access) (a n : Nat) :
    Except (MemFault × Nat) (List (Nat × Nat × Nat)) × State :=
  (granuleStarts a n).foldl (fun (r : Except (MemFault × Nat) (List (Nat × Nat × Nat)) × State) x =>
    match r.1 with
    | .error e => (.error e, r.2)
    | .ok l =>
      let t := r.2.copyAddr g c k x
      match t.1 with
      | .error f => (.error (f, x), t.2)
      | .ok p => (.ok (l ++ [(x, p, Nat.min (a + n) ((x / 4096 + 1) * 4096) - x)]), t.2)) (.ok [], s)

/-- The engine's answer to reading or placing a chunk. -/
inductive Chunk (α : Type) where
  | ok (a : α) (s : State)
  | wait (sec : Nat)                   -- a row that is read is locked (R311)
  | stop (f : BitVec 6) (va : Nat) (s : State)

/-- The flag of a fault of the engine; CPYD reports a destination of another domain as DOMAINERR (R344). -/
def copyFlag (f : MemFault) (dom : Bool) : BitVec 6 :=
  match f with
  | .poison _ => cfMemerr
  | .domain => if dom then cfDomain else cfFault
  | _ => cfFault

/-- A fault of the engine: the copy stops, or waits for a table entry in a locked row. An uncorrectable error is counted
(R393). -/
def copyStop {α : Type} (f : MemFault) (dom : Bool) (va : Nat) (s : State) : Chunk α :=
  match f with
  | .held sec => .wait sec
  | .poison sec => .stop cfMemerr va (s.count (homeOf sec) 0x08 1)
  | _ => .stop (copyFlag f dom) va s

/-- Bytes of home memory as a copy reads them: of a sector that was held at a locked row as its home answered (R353), of the others
as they stand. -/
def CopyCmd.readList (c : CopyCmd) (m : Memory) (a : Nat) (n : Nat) : List Byte :=
  if c.got.isEmpty then m.readList a n
  else (List.range n).map fun i =>
    match c.got.find? fun e => e.1 == sectorOf (a + i) with
    | some e => e.2.extractLsb' (8 * ((a + i) % 64)) 8
    | none => m.read (a + i)

/-- A byte range read at home as it stands (R273). -/
def State.copyRead (s : State) (g : Nat) (c : CopyCmd) (a n : Nat) : Chunk (List Byte) :=
  match s.copyPages g c .read a n with
  | (.error e, s) => copyStop e.1 false e.2 s
  | (.ok ps, s) =>
    let secs := ps.flatMap fun p => (List.range (p.2.2 / 64 + 2)).filterMap fun i =>
      let x := sectorOf p.2.1 + 64 * i
      if x < p.2.1 + p.2.2 then some (x, Nat.max p.1 (p.1 + x - p.2.1)) else none
    let ask := secs.filter fun x => !(c.got.any fun e => e.1 == x.1)
    match ask.find? fun x => !s.connected c.stk (homeOf x.1) || ((s.stack (homeOf x.1)).lockOn (frameOf x.1)).isSome with
    | some x => .wait x.1
    | none =>
      match ask.find? fun x => s.badSector x.1 with
      | some x => copyStop (.poison x.1) false x.2 s
      | none => .ok (ps.flatMap fun p => c.readList s.mem p.2.1 p.2.2) (ask.foldl (fun s x => s.cacheRead x.1) s)

/-- Bytes placed into records of their sectors. -/
def placeBytes : Nat → List Byte → List (Nat × BitVec 64 × BitVec 512) → List (Nat × BitVec 64 × BitVec 512)
  | _, [], r => r
  | p, b :: bs, r => placeBytes (p + 1) bs (stageByte r p b)

/-- A chunk's bytes turned into records at their destinations (R337). -/
def State.copyPlace (s : State) (g : Nat) (c : CopyCmd) (dom : Bool) (a : Nat) (bs : List Byte)
    (r : List (Nat × BitVec 64 × BitVec 512)) : Chunk (List (Nat × BitVec 64 × BitVec 512)) :=
  match s.copyPages g c .write a bs.length with
  | (.error e, s) => copyStop e.1 dom e.2 s
  | (.ok ps, s) => .ok (ps.foldl (fun r p => placeBytes p.2.1 ((bs.drop (p.1 - a)).take p.2.2) r) r) s

/-- The parts of a chunk read, then placed. -/
def State.copyParts (s : State) (g : Nat) (c : CopyCmd) : List (Nat × Nat × Nat) → List (Nat × BitVec 64 × BitVec 512) →
    Chunk (List (Nat × BitVec 64 × BitVec 512))
  | [], r => .ok r s
  | (a, d, n) :: ps, r =>
    match s.copyRead g c a n with
    | .wait x => .wait x
    | .stop f va s => .stop f va s
    | .ok bs s =>
      match s.copyPlace g c false d bs r with
      | .wait x => .wait x
      | .stop f va s => .stop f va s
      | .ok r s => State.copyParts s g c ps r

/-- A chunk's records sent to their homes; it takes its key when they are delivered (R273). -/
def State.sendChunk (s : State) (g : Nat) (c : CopyCmd) (j : Nat) (r : List (Nat × BitVec 64 × BitVec 512)) : State :=
  let fl : Flight := { chunk := j, sectors := r.map fun x => x.1 }
  (s.modCopy g c.serial fun x => { x with fly := (x.fly.filter fun y => !(y.chunk == j)) ++ [fl] }).deliver
    (r.map fun x => (homeOf x.1, { key := noKey, body := .record x.1 x.2.1 x.2.2, origin := .chunk c.serial j }))

/-- A chunk that failed: the copy ends with the flag. -/
def State.stopCopy (s : State) (g : Nat) (c : CopyCmd) (j : Nat) (f : BitVec 6) (va : Option Word) : State :=
  (s.modCopy g c.serial fun x => { x with fly := x.fly.filter fun y => !(y.chunk == j) }).endCopy g c 4 f va

/-- A chunk of CPYD (R344, R345): the key slot as it stands, the tag before any byte, and the destination in the hart's
domain. -/
def State.cryptChunk (s : State) (g : Nat) (c : CopyCmd) (j : Nat) : Except (Option Nat) State :=
  let key := (s.stack c.stk).keySlots.look (c.y.extractLsb' 32 6).toNat {}
  if !key.valid || !(key.gen == c.gen) then .ok (s.stopCopy g c j cfKey none)
  else match s.copyRead g c (c.src.toNat + 4112 * j) 4112 with
    | .wait x => .error (some x)
    | .stop f va s => .ok (s.stopCopy g c j f (some (BitVec.ofNat 64 va)))
    | .ok bs s =>
      let iv := bytesBE 8 c.x.toNat ++ bytesBE 4 ((c.y.toNat % 2 ^ 32 + j) % 2 ^ 32)
      match gcmOpen key.key iv (bs.take 4096) (bs.drop 4096) with
      | none =>
        let slot := (match s.ctx c.log with | some h => h.slotNo | none => 0)
        let hid := (match s.ctx c.log with | some h => h.loc | none => 0)
        let s := s.modBlock c fun b => { b with flags := b.flags ||| cfTag, tagfails := b.tagfails + 1,
                                                firstFail := if b.tagfails = 0 ∨ j < b.firstFail then j else b.firstFail }
        let s := (s.pfb c.stk 0x0E (g % 48) slot c.log hid (BitVec.ofNat 64 c.slot) (BitVec.ofNat 64 j)).count c.stk 0x48 1
        .ok (s.resolve g c j 1)
      | some pt =>
        match s.copyPlace g c true (c.dst.toNat + 4096 * j) pt [] with
        | .wait x => .error (some x)
        | .stop f va s => .ok (s.stopCopy g c j f (some (BitVec.ofNat 64 va)))
        | .ok r s => .ok (s.sendChunk g c j r)

/-- The path of a copy's remote table entry (R410): 0 to 7 a peer port, every other value a far module over Ethernet. -/
def CopyCmd.path (c : CopyCmd) : Nat := (c.entry.getD 1 0).toNat

/-- A chunk of CPYE (R341, R410): a range past the length of the entry, or a path that has failed, ends the copy; a put sends
the bytes, a get asks for them. While no way leads over the mesh to the port it waits (R402). -/
def State.remoteChunk (s : State) (g : Nat) (c : CopyCmd) (j : Nat) : Except (Option Nat) State :=
  let get := c.x.getLsbD 16
  let word (w : Nat) : Nat := (c.entry.getD w 0).toNat
  let peer := c.path
  let at_ := (if get then c.src.toNat else c.dst.toNat) + j * c.size
  let n := Nat.min c.size (c.len.toNat - j * c.size)
  let fly (s : State) : State :=
    s.modCopy g c.serial fun x => { x with fly := x.fly ++ [{ chunk := j, remote := true }] }
  if word 3 < (if get then c.src.toNat else c.dst.toNat) + c.len.toNat ∨ (s.conn peer).failed then .ok (s.stopCopy g c j cfRemote none)
  else if !s.connected c.stk (pathStack peer) then .error none
  else if get then
    .ok ((fly s).sendPacket peer { kind := .get, serial := c.serial, chunk := j, entry := word 2 % 65536, off := at_, len := n })
  else match s.copyRead g c (c.src.toNat + j * c.size) n with
    | .wait x => .error (some x)
    | .stop f va s => .ok (s.stopCopy g c j f (some (BitVec.ofNat 64 va)))
    | .ok bs s =>
      let pack (x : List Byte) : Packet :=
        { kind := if c.len.toNat % 8 = 0 then .putWords else .put, serial := c.serial, chunk := j, entry := word 2 % 65536
          off := at_, len := n, bytes := x }
      .ok ((piecesOf bs).foldl (fun s x => s.sendPacket peer (pack x)) (fly s))

/-- The start of a copy: state 2, and the chunks that hold no byte complete with no key (R337). -/
def State.startCopy (s : State) (g : Nat) (c : CopyCmd) : State :=
  let gaps := (List.range c.total).filter c.gap
  let s := s.modBlock c fun b => { b with state := 2, chunks := b.chunks + gaps.length }
  let s := s.modCopy g c.serial fun x => { x with started := true, resolved := gaps.length }
  let s := gaps.foldl (fun s j => s.noteChunk c j 0) s
  if gaps.isEmpty then s else s.signal fun h => h.key == c.log

/-- The chunk that a copy starts next, past chunks that hold no byte. -/
def CopyCmd.nextChunk (c : CopyCmd) : Option Nat :=
  ((List.range (c.total - c.next)).find? fun i => !(c.gap (c.next + i))).map fun i => c.next + i

/-- A copy can start a chunk: 8 in flight at once, one at a time when its ranges overlap (R338). -/
def CopyCmd.canStart (c : CopyCmd) : Bool :=
  !c.ended && c.nextChunk.isSome && decide (c.fly.length < if c.overlaps then 1 else 8)

/-- Copies of a stack's crypto channel: chunks in flight, at most 16 (R332). -/
def State.cryptFlying (s : State) (stk : Nat) : Nat :=
  (s.cores.map fun e => if e.1 / 48 = stk ∧ e.1 < 1152 then
    ((e.2.copies.filter fun c => match c.instr with | .cpyd .. => true | _ => false).map fun c => c.fly.length).sum else 0).sum

/-- Chunk `j` of a copy begun: the copy has started, the next chunk follows, and its class goes on after it (R338). -/
def State.beginChunk (s : State) (g : Nat) (c : CopyCmd) (j : Nat) : State :=
  let s := if c.started then s else s.startCopy g c
  (s.modCopy g c.serial fun x => { x with next := j + 1, got := [] }).modCore g fun k =>
    if c.sprint then { k with copyRrSprint := c.order } else { k with copyRr := c.order }

/-- The next chunk of a copy started: the state, or what it waits for, the sector of a locked row or a way. -/
def State.tryChunk (s : State) (g : Nat) (c : CopyCmd) (j : Nat) : Except (Option Nat) State :=
  let s := s.beginChunk g c j
  match c.instr with
  | .cpyd .. => s.cryptChunk g c j
  | .cpye .. => s.remoteChunk g c j
  | _ =>
    match s.copyParts g c (c.parts j) [] with
    | .wait x => .error (some x)
    | .stop f va s => .ok (s.stopCopy g c j f (some (BitVec.ofNat 64 va)))
    | .ok r s => .ok (s.sendChunk g c j r)

/-- One chunk of a copy started; none while it waits. -/
def State.startChunk (s : State) (g : Nat) (c : CopyCmd) : Option State :=
  c.nextChunk.bind fun j => (s.tryChunk g c j).toOption

/-- Copies in round-robin order, from the one after the copy served last (R338). -/
def roundRobin (rr : Nat) (cs : List CopyCmd) : List CopyCmd :=
  (cs.filter fun c => decide (rr < c.order)) ++ cs.filter fun c => !(decide (rr < c.order))

/-- The copies that may start a chunk, in the order in which the engine serves them: sprint copies first, then round robin
in order of commit (R332, R338). -/
def State.copyOrder (s : State) (g : Nat) : List CopyCmd :=
  let k := s.core g
  let ok := k.copies.filter fun c => c.canStart && match c.instr with
    | .cpyd .. => decide (s.cryptFlying (g / 48) < 16)
    | _ => true
  roundRobin k.copyRrSprint (ok.filter fun c => c.sprint) ++ roundRobin k.copyRr (ok.filter fun c => !c.sprint)

/-- The copy that the engine serves next: the first whose next chunk does not wait for a locked row. -/
def State.pickCopy (s : State) (g : Nat) : Option CopyCmd := (s.copyOrder g).find? fun c => (s.startChunk g c).isSome

/-- The read of a locked row by the engine, with its home, when its home does not hold it yet (R353). -/
def State.copyHold (s : State) (g : Nat) (c : CopyCmd) (j sec : Nat) : Option (Nat × DEntry) :=
  let k := homeOf sec
  let d := DEntry.copyRead g c.serial j sec (s.readKey k (sourceOf (g / 48) (g % 48) 4))
  if ((s.stack k).lockOn (frameOf sec)).isNone || (s.stack k).holds d then none else some (k, d)

/-- The engine's reads of locked rows that their homes do not hold yet (R353). -/
def State.copyHolds (s : State) (g : Nat) : List (Nat × DEntry) :=
  (s.copyOrder g).filterMap fun c =>
    match c.nextChunk with
    | none => none
    | some j =>
      match s.tryChunk g c j with
      | .ok _ | .error none => none
      | .error (some sec) =>
        s.copyHold g c j sec

/-- The copy engine starts the next chunk; when every chunk waits for a locked row, its reads are held at home. -/
def execCopyChunkStart (core : Nat) (s : State) : Host.Outcome State Fault Refusal :=
  ifUnit (isCore core) <|
  match s.pickCopy core with
  | none => (s.copyHolds core).foldl (fun s x => s.hold x.1 x.2) s
  | some c => (s.startChunk core c).getD s

/-- No record of a chunk is left to apply. -/
def State.chunkApplied (s : State) (serial j : Nat) : Bool :=
  !(s.chunkOnWay serial j) && s.stackTab.all fun t =>
    (t.2.mq.all fun e => !(e.ofChunk serial j)) && t.2.deferred.all fun d =>
      match d with
      | .entry e => !(e.ofChunk serial j)
      | _ => true

/-- A chunk all of whose records are applied, as their homes can report (R402). -/
def State.doneChunk (s : State) (core : Nat) : Option (CopyCmd × Flight) :=
  (s.core core).copies.findSome? fun c =>
    (c.fly.find? fun f => !f.remote && f.key.isSome && s.chunkApplied c.serial f.chunk &&
      f.sectors.all fun x => s.reaches (homeOf x) c.stk).map fun f => (c, f)

/-- A chunk completes (R273, R337): views are dropped, the count advances, the bit is set, and hart.event. -/
def execCopyChunkComplete (core : Nat) (s : State) : Host.Outcome State Fault Refusal :=
  ifUnit (isCore core) <|
  match s.doneChunk core with
  | none => s
  | some (c, f) =>
    let k := f.key.getD 0
    let s := s.modCore core fun x => { x with view := x.view.filter fun v =>
      !(f.sectors.contains v.addr && match v.pin with | none => true | some _ => v.key.lt k) }
    let s := (s.modBlock c fun b => { b with chunks := b.chunks + 1, keys := k :: b.keys }).noteChunk c f.chunk k
    (s.resolve core c f.chunk 1).signal fun h => h.key == c.log

/-- The answer of a far module to a chunk of CPYE (R341): a put is applied, or bytes of a get arrive, which go on as records
when all are here; a flag ends the copy. A chunk of a copy that has ended is over with its answer (R337). None when the answer
has to come again, because a locked row holds a table entry that its translation reads, or no way leads over the mesh from its
port to its core (R402). -/
def State.remoteAnswer (s : State) (serial j : Nat) (flag : Option (BitVec 6)) (bytes : List Byte) : Option State :=
  match s.cores.findSome? fun e => (e.2.copies.find? fun c => c.serial == serial).map fun c => (e.1, c) with
  | none => some s
  | some (g, c) =>
    match c.fly.find? fun f => f.chunk == j && f.remote with
    | none => some s
    | some f =>
      let got := f.data ++ bytes
      let n := Nat.min c.size (c.len.toNat - j * c.size)
      if !s.reaches (pathStack c.path) c.stk then none
      else if c.ended && (flag.isSome || c.x.getLsbD 16) then
        some (s.modCopy g serial fun x => { x with fly := x.fly.filter fun y => !(y.chunk == j) })
      else if flag.isSome then some (s.stopCopy g c j (flag.getD 0) none)
      else if c.x.getLsbD 16 then
        (if got.length < n then some (s.modCopy g serial fun x =>
          { x with fly := x.fly.map fun y => if y.chunk = j then { y with data := got } else y })
         else match s.copyPlace g c false (c.dst.toNat + j * c.size) (got.take n) [] with
          | .ok r s => some (s.sendChunk g c j r)
          | .stop f va s => some (s.stopCopy g c j f (some (BitVec.ofNat 64 va)))
          | .wait _ => none)
      else
        let s := (s.modBlock c fun b => { b with chunks := b.chunks + 1 }).noteChunk c j 0
        some ((s.resolve g c j 1).signal fun h => h.key == c.log)

/-! ## Key slots (R343, R346) -/

/-- A key slot changed, its generation advanced. -/
def State.setKeySlot (s : State) (stk n : Nat) (f : KeySlot → KeySlot) : State :=
  s.modStack stk fun t => { t with keySlots := t.keySlots.put n (let k := f (t.keySlots.look n {}); { k with gen := k.gen + 1 }) }

/-- A key slot cleared. -/
def State.clearKeySlot (s : State) (stk n : Nat) : State := s.setKeySlot stk n fun k => { k with valid := false }

/-- A CKEY of a stack whose slot no chunk in flight uses. -/
def State.readyCkey (s : State) (stk : Nat) : Option (Nat × CopyCmd) :=
  let here := s.cores.filter fun e => decide (e.1 < 1152) && e.1 / 48 == stk
  here.findSome? fun e => (e.2.copies.find? fun c => !c.ended && match c.instr with
    | .ckey .. =>
      !(here.any fun f => f.2.copies.any fun d => (match d.instr with | .cpyd .. => true | _ => false) &&
        !d.fly.isEmpty && (d.y.extractLsb' 32 6) == c.x.extractLsb' 0 6)
    | _ => false).map fun c => (e.1, c)

/-- CKEY changes its key slot (R346). While it waits at the channel its state stays 1 (notes/assumptions/130.md). -/
def execCkeyApply (stk : Nat) (s : State) : Host.Outcome State Fault Refusal :=
  ifUnit (isStack stk) <|
  match s.readyCkey stk with
  | none => s
  | some (g, c) =>
    let n := (c.x.extractLsb' 0 6).toNat
    if c.x.getLsbD 14 then (s.clearKeySlot stk n).endCopy g c 3 0 none
    else match s.copyRead g c c.src.toNat 40 with
      | .wait x =>
        (match s.copyHold g c 0 x with | some d => s.hold d.1 d.2 | none => s)
      | .stop f va s => s.endCopy g c 4 f (some (BitVec.ofNat 64 va))
      | .ok bs s =>
        match (s.stack stk).kwk.bind fun kek => keyUnwrap kek bs with
        | some key =>
          (s.setKeySlot stk n fun k => { k with valid := true, domain := (c.x.extractLsb' 8 6).toNat, key := key }).endCopy g c 3 0 none
        | none => (s.clearKeySlot stk n).endCopy g c 4 cfKey none

end Sys2Proof.Machine
end

