-- ==== Sys2Proof/Machine/Launch.lean ====
section
/-! DEFINITION. Launch records and tables (R355 to R361), walkers and their splits (R362 to R367), placement (R24, R364), the
launch words (R377 to R383, R386), and completion counters (R389, R390). -/

namespace Sys2Proof.Machine

/-! ## The launch record (R355, R356) -/

/-- A field of a word. -/
def fieldOf (x : Word) (lo n : Nat) : Nat := x.toNat / 2 ^ lo % 2 ^ n

/-- A word of a launch record. -/
def recWord (ws : List Word) (n : Nat) : Word := ws.getD n 0
/-- Control A. -/
def recA (ws : List Word) (lo n : Nat) : Nat := fieldOf (recWord ws 7) lo n
/-- Control B. -/
def recB (ws : List Word) (lo n : Nat) : Nat := fieldOf (recWord ws 8) lo n
/-- The use mask. -/
def recUse (ws : List Word) : Word := recWord ws 2
/-- The extent of dimension `d`. -/
def recExtent (ws : List Word) (d : Nat) : Nat := fieldOf (recWord ws (3 + d / 2)) (d % 2 * 32) 32
/-- The tile size of dimension `d`. -/
def recTile (ws : List Word) (d : Nat) : Nat := fieldOf (recWord ws (5 + d / 2)) (d % 2 * 32) 32
/-- The number of dimensions. -/
def recDims (ws : List Word) : Nat := recA ws 18 2 + 1
/-- The launch id. -/
def recId (ws : List Word) : BitVec 16 := BitVec.ofNat 16 (recA ws 48 16)
/-- Stack `k` takes part. -/
def recStack (ws : List Word) (k : Nat) : Bool := (recWord ws 7).getLsbD (24 + k)
/-- Class sprint. -/
def recSprint (ws : List Word) : Bool := (recWord ws 7).getLsbD 17
/-- The priority. -/
def recPrio (ws : List Word) : Nat := recA ws 14 3
/-- Harts per core. -/
def recHarts (ws : List Word) : Nat := recA ws 12 2 + 1
/-- The gang size; 0 and 1 mean no gang. -/
def recGang (ws : List Word) : Nat := recA ws 5 7
/-- The clusters of the lane request. -/
def recClusters (ws : List Word) : Nat := 2 ^ (recA ws 0 3 - 1)
/-- The register cap. -/
def recCap (ws : List Word) : Nat := 16 * (recA ws 3 2 + 1)
/-- The log size in the code of LOGSZ. -/
def recLogSize (ws : List Word) : Nat := if recB ws 43 5 = 0 then 20 else recB ws 43 5
/-- The core limit. -/
def recLimit (ws : List Word) : Nat := if recB ws 37 6 = 0 then 48 else recB ws 37 6
/-- The tile counts. -/
def recTiles (ws : List Word) : List Nat := (List.range (recDims ws)).map fun d => ceilDiv (recExtent ws d) (recTile ws d)

/-- ceil (log2 n). -/
def log2Up (n : Nat) : Nat := if n ≤ 1 then 0 else Nat.log2 (n - 1) + 1

/-- N of the traversal (R357). -/
def recRange (ws : List Word) : Nat :=
  if recA ws 20 2 = 2 then 2 ^ (((recTiles ws).map log2Up).foldl (· + ·) 0) else (recTiles ws).foldl (· * ·) 1

/-- A record keeps the limits of R355 to R357; `service` says whose record it is. -/
def recValid (ws : List Word) (service : Bool) : Bool :=
  (recWord ws 0).toNat % 4 == 0 &&
  ((List.range 4).all fun d =>
    if d < recDims ws then decide (1 ≤ recExtent ws d) && decide (1 ≤ recTile ws d)
    else recExtent ws d == 0 && recTile ws d == 0) &&
  decide (recA ws 24 24 ≠ 0) && (decide (1 ≤ recA ws 0 3) && decide (recA ws 0 3 ≤ 5)) && decide (recGang ws ≤ 64) &&
  recB ws 60 4 == 0 && decide (recB ws 48 10 ≤ 1019) &&
  (recB ws 43 5 == 0 || (decide (18 ≤ recB ws 43 5) && decide (recB ws 43 5 ≤ 26))) && decide (recB ws 37 6 ≤ 48) &&
  fieldOf (recWord ws 11) 6 58 == 0 && (service || recWord ws 11 == 0) &&
  ((List.range 4).all fun i => recWord ws (12 + i) == 0) &&
  decide (recHarts ws * recClusters ws ≤ 16) && decide (recGang ws < 2 ∨ recGang ws ≤ 16 * recHarts ws) &&
  ((recTiles ws).all fun t => decide (t ≤ 65535)) && decide (recRange ws < 2 ^ 48)

/-- The sprint reservation that a core belongs to. -/
def Stack.reservationOf (t : Stack) (core : Nat) : Option (Nat × Sprint) :=
  t.sprints.find? fun e => e.2.valid && e.2.cores.getLsbD core

/-- The reason of the launch fault of a record (R378). -/
def State.recFault (s : State) (ws : List Word) (service : Bool) : Option Nat :=
  if !recValid ws service then some 1
  else if recUse ws &&& ~~~Config.allCaps ≠ 0 then some 2
  else if recSprint ws && (List.range Config.stackCount).any fun k =>
    recStack ws k && !((s.stack k).sprints.any fun e => e.2.valid) then some 3
  else none

/-! ## Tiles (R357) -/

/-- Mixed radix, the first digit fastest. -/
def mixedRadix : List Nat → Nat → List Nat
  | [], _ => []
  | t :: r, n => n % t :: mixedRadix r (n / t)

/-- The digits of a Morton code: bits dealt in rounds to the dimensions that still have them. -/
def mortonDigits (ps : List Nat) (n : Nat) : List Nat :=
  let turns := (List.range 16).flatMap fun r => (List.range ps.length).filterMap fun d =>
    if r < ps.getD d 0 then some (r, d) else none
  (turns.zipIdx.filter fun x => n / 2 ^ x.2 % 2 == 1).foldl
    (fun c x => c.modify x.1.2 (· + 2 ^ x.1.1)) (List.replicate ps.length 0)

/-- The coordinates of index `n`, none where a Morton code names no tile. -/
def tileOf (ws : List Word) (n : Nat) : Option (List Nat) :=
  let ts := recTiles ws
  let row := (mixedRadix ts.reverse n).reverse
  let d := ts.length
  match recA ws 20 2 with
  | 0 => some row
  | 1 => some (mixedRadix ts n)
  | 2 =>
    let c := mortonDigits (ts.map log2Up) n
    if (c.zip ts).all fun x => decide (x.1 < x.2) then some c else none
  | _ =>
    if 2 ≤ d ∧ row.getD (d - 2) 0 % 2 = 1 then some (row.set (d - 1) (ts.getD (d - 1) 0 - 1 - row.getD (d - 1) 0)) else some row

/-- The word of tile coordinates (R380). -/
def tileWord (c : List Nat) : Word := BitVec.ofNat 64 ((c.zipIdx.map fun x => x.1 * 2 ^ (16 * x.2)).foldl (· + ·) 0)

/-- The first index from `n` that names a tile, with its coordinates, looking at `fuel` indices. -/
def firstTile (ws : List Word) (n : Nat) : Nat → Option (Nat × List Nat)
  | 0 => none
  | fuel + 1 =>
    match tileOf ws n with
    | some c => some (n, c)
    | none => firstTile ws (n + 1) fuel

/-! ## Walkers -/

/-- Unissued indices. -/
def Walker.rest (w : Walker) : Nat := w.stop - w.next

/-- An instance without work left is Spent (R366). -/
def Walker.settle (w : Walker) : Walker :=
  if w.state = .active ∧ w.next = w.stop ∧ w.out = 0 then { w with state := .spent } else w

/-- A walker entry is an instance of a launch. -/
def Walker.of (w : Walker) (home idx : Nat) : Bool :=
  (w.state == .active || w.state == .spent) && w.home == home && w.launch == idx

/-- A walker entry changed. -/
def State.modWalker (s : State) (stk w : Nat) (f : Walker → Walker) : State :=
  s.modStack stk fun t => { t with walkers := t.walkers.map fun e => if e.1 = w then (e.1, (f e.2).settle) else e }

/-- The walker entry of a context's instance. -/
def State.walkerOf (s : State) (h : Hart) : Option (Nat × Walker) :=
  (s.stack h.instStack).walkers.find? fun e => e.2.of h.home h.launch && e.2.serial == h.serial

/-- The launch table entry of a launch at its home. -/
def State.launchAt (s : State) (home idx : Nat) : Launch := (s.stack home).launches.look idx {}

/-- A free index below `n` of a table whose entries in use are listed. -/
def freeIndex {α : Type} (t : Tbl α) (n : Nat) : Option Nat := (List.range n).find? fun i => !(t.any fun e => e.1 == i)

/-- The launch has an entry in a stack: its home entry or a member entry. -/
def State.hasEntry (s : State) (stk home idx : Nat) : Bool :=
  stk == home || (s.stack stk).launches.any fun e => e.2.state == .member && e.2.home == home && e.2.homeIdx == idx

/-- A member entry made where the launch has none, when there is a free one. -/
def State.holdEntry (s : State) (stk home idx : Nat) : Option State :=
  if s.hasEntry stk home idx then some s
  else match freeIndex (s.stack stk).launches 256 with
    | none => none
    | some i =>
      let l := s.launchAt home idx
      some (s.modStack stk fun t => { t with
        launches := t.launches.put i { state := .member, words := l.words, arrival := l.arrival, domain := l.domain, home := home, homeIdx := idx } })

/-- Live instances of a launch in a stack's member entry changed; a member entry with none, no context and no split on its way is
free. -/
def State.modMember (s : State) (stk home idx : Nat) (f : Launch → Launch) : State :=
  if stk = home then s
  else s.modStack stk fun t => { t with
    launches := (t.launches.map fun e =>
      if e.2.state = .member ∧ e.2.home = home ∧ e.2.homeIdx = idx then (e.1, f e.2) else e).filter
        fun e => !(e.2.state == .member && e.2.live == 0 && e.2.ctxs == 0 && e.2.holds == 0 && e.2.home == home && e.2.homeIdx == idx) }

/-- The home entry of a launch changed. -/
def State.modHome (s : State) (home idx : Nat) (f : Launch → Launch) : State :=
  s.modStack home fun t => { t with launches := t.launches.map fun e => if e.1 = idx then (e.1, f e.2) else e }

/-- A new instance at a free walker entry of a stack whose launch entry is held: counted at its home (R361, R367). -/
def State.newInstance (s : State) (stk w home idx first stop : Nat) (serial : BitVec 16) (counted : Bool) : State :=
  let l := s.launchAt home idx
  let x : Walker :=
    { state := .active, home := home, launch := idx, launchId := recId l.words, serial := serial, next := first, stop := stop }
  let s := s.modStack stk fun t => { t with walkers := t.walkers.put w x }
  let s := if counted then s else s.modHome home idx fun l => { l with live := l.live + 1 }
  s.modMember stk home idx fun l => { l with live := l.live + 1 }

/-- The next serial of a launch. -/
def State.takeSerial (s : State) (home idx : Nat) : BitVec 16 × State :=
  (BitVec.ofNat 16 (s.launchAt home idx).nextSerial, s.modHome home idx fun l => { l with nextSerial := l.nextSerial + 1 })

/-! ## Splits (R367) -/

/-- The core covers a launch's use mask and matches its class (R364, R370). -/
def State.covers (s : State) (g : Nat) (ws : List Word) : Bool :=
  recUse ws &&& ~~~(s.core g).capmask == 0 && (((s.stack (g / 48)).reservationOf (g % 48)).isSome == recSprint ws)

/-- The launch's policy admits the requesting stack. -/
def admits (ws : List Word) (owner req : Nat) : Bool :=
  match recA ws 22 2 with
  | 0 => true
  | 1 => recStack ws req
  | 2 => owner == req
  | _ => false

/-- The instances of a launch may be split: while it runs, and by the contexts that a failed one still has (R360, R367). -/
def Launch.splits (l : Launch) : Bool := l.state == .running || l.state == .failed

/-- Instances that a core of a stack may split: stack, entry, launch, walker. -/
def State.splittable (s : State) (req g : Nat) : List (Nat × Nat × Launch × Walker) :=
  s.stackTab.flatMap fun t => t.2.walkers.filterMap fun e =>
    let l := s.launchAt e.2.home e.2.launch
    if e.2.state = .active ∧ 2 ≤ e.2.rest ∧ l.splits ∧ admits l.words t.1 req ∧ s.covers g l.words
    then some (t.1, e.1, l, e.2) else none

/-- The upper half of an instance cut off into a free walker entry of a stack that holds it; none when it has too little
left. -/
def State.splitInto (s : State) (own w stk free : Nat) : Option State :=
  let x := (s.stack own).walkers.look w {}
  if x.state ≠ .active ∨ x.rest < 2 ∨ !(s.launchAt x.home x.launch).splits then none
  else
    let mid := x.next + ceilDiv x.rest 2
    let (serial, s) := s.takeSerial x.home x.launch
    let s := s.newInstance stk free x.home x.launch mid x.stop serial false
    some ((s.modWalker own w fun x => { x with stop := mid }).count own 0x138 1)

/-- The splits on their way that hold a launch's member entry changed. -/
def State.modHolds (s : State) (stk home idx : Nat) (k : Key) (f : Nat → Nat) : State :=
  s.modStack stk fun t => { t with launches := t.launches.map fun e =>
    if e.2.state = .member ∧ e.2.home = home ∧ e.2.homeIdx = idx ∧ e.2.arrival = k then (e.1, { e.2 with holds := f e.2.holds }) else e }

/-- Who asks for a split over the mesh: a core, or a context in WNEXT. -/
def splitter (ctx : Nat) : Nat := 0x10000 + ctx

/-- A split asked of another stack (R367): a walker entry and a launch table entry are held, and a control message goes. The hold
names the instance: its launch with the launch's arrival key, and its serial. -/
def State.askSplit (s : State) (stk free : Nat) (x : Nat × Nat × Launch × Walker) (who : Nat) : Option State :=
  let w := x.2.2.2
  (s.holdEntry stk w.home w.launch).map fun s =>
    let hold : Walker :=
      { state := .held, home := w.home, launch := w.launch, serial := w.serial, next := x.2.2.1.arrival.toNat, bound := [x.1, x.2.1, who] }
    ((s.modHolds stk w.home w.launch x.2.2.1.arrival (· + 1)).modStack stk fun t =>
      { t with walkers := t.walkers.put free hold }).post [.split x.1 stk x.2.1]

/-- The choice among instances: the first that none precedes. -/
def chooseBy {α : Type} (before : α → α → Bool) : List α → Option α
  | [] => none
  | x :: r => match chooseBy before r with
    | some y => some (if before y x then y else x)
    | none => some x

/-- Lexicographic order of lists of numbers. -/
def lexLt : List Nat → List Nat → Bool
  | x :: xs, y :: ys => decide (x < y) || (x == y && lexLt xs ys)
  | _, _ => false

/-- The order of ties (R367): the requesting stack, the earliest arrival, the lowest stack, the lowest serial. -/
def tieOf (req : Nat) (x : Nat × Nat × Launch × Walker) : List Nat :=
  [if x.1 = req then 0 else 1, x.2.2.1.arrival.toNat, x.1, x.2.2.2.serial.toNat]

/-! ## The launch words -/

/-- A run-history entry, written in the ring of the core in home memory once firmware has set the ring aside (R371). -/
def State.logRun (s : State) (g slot : Nat) (id : BitVec 16) (n : Nat) : State :=
  let c := s.core g
  let entry := bytesOf (s.time (g / 48)).toNat 8 ++ bytesOf (id.toNat * 2 ^ 48 + slot * 2 ^ 46 + n % 2 ^ 46) 8
  let s := match c.histBase with
    | some b => s.putHome (b.toNat + 16 * (c.histIdx % 65536)) entry
    | none => s
  s.modCore g fun c => { c with histIdx := c.histIdx + 1 }

/-- The next tile of the selected context's instance, taken and held; none when no unissued index names a tile. -/
def State.takeTile (s : State) : State × Option Word :=
  let h := s.hart
  match s.walkerOf h with
  | none => (s, none)
  | some (w, x) =>
    let ws := (s.launchAt h.home h.launch).words
    if x.state ≠ .active then (s, none)
    else match firstTile ws x.next x.rest with
      | none => (s.modWalker h.instStack w fun x => { x with next := x.stop }, none)
      | some (n, c) =>
        let s := s.modWalker h.instStack w fun x => { x with next := n + 1, out := x.out + 1 }
        let s := s.modHart fun h => { h with tile := some n }
        (s.logRun h.core h.slotNo h.launchId n, some (tileWord c))

/-- A context bound to another instance, in its own stack (R380). -/
def State.rebind (s : State) (h : Hart) (w : Nat) (serial : BitVec 16) : State :=
  let s := s.unbind h false
  let s := s.modWalker h.stk w fun x => { x with bound := x.bound ++ [h.key] }
  (s.modCtx h.key fun h => { h with instStack := h.stk, serial := serial }).freezeSaved h.instStack

/-- The split of WNEXT (R380): of the launch's instance with the most unissued tiles, into the hart's stack, to which the
hart is then bound. An instance of another stack is asked for over the mesh (R367), and the answer says that it waits. -/
def State.splitFor (s : State) : Option (State × Bool) :=
  let h := s.hart
  let xs := (s.splittable h.stk h.core).filter fun x => x.2.2.2.of h.home h.launch
  match chooseBy (fun a b => lexLt ((2 ^ 48 - a.2.2.2.rest) :: tieOf h.stk a) ((2 ^ 48 - b.2.2.2.rest) :: tieOf h.stk b)) xs,
      freeIndex (s.stack h.stk).walkers 32 with
  | some x, some free =>
    if x.1 = h.stk then
      (s.splitInto h.stk x.2.1 h.stk free).map fun s => (s.rebind h free ((s.stack h.stk).walkers.look free {}).serial, false)
    else
      (s.askSplit h.stk free x (splitter h.key)).map fun s => (s.modHart fun h => { h with results := [], awaiting := 1 }, true)
  | _, _ => none

/-- R380: a split of another stack's instance is waited for, and its reply says whether the hart has a new instance. -/
def execWnext (sd : SReg) (s : State) : Host.Outcome State Fault Refusal :=
  word s (.wnext sd) fun s =>
    check s.hart.tile.isNone 0x22 4 <|
    let last (s : State) : Res State :=
      match s.takeTile with
      | (s, some x) => s.setLate sd x
      | (s, none) => s.setLate sd (BitVec.allOnes 64)
    match s.hart.phase with
    | .requested k => .wait s (.requested k)
    | .returned _ xs => if xs.headD 0 = 0 then s.setLate sd (BitVec.allOnes 64) else last s
    | _ =>
      match s.takeTile with
      | (s, some x) => s.setLate sd x
      | (s, none) =>
        match s.splitFor with
        | some (s, true) => .wait s (.requested 0)
        | some (s, false) => last s
        | none => s.setLate sd (BitVec.allOnes 64)

/-- R381. -/
def execWsplit (sd : SReg) (s : State) : Host.Outcome State Fault Refusal :=
  word s (.wsplit sd) fun s =>
    let h := s.hart
    match s.walkerOf h, freeIndex (s.stack h.instStack).walkers 32 with
    | some (w, x), some free =>
      let ws := (s.launchAt h.home h.launch).words
      (match if admits ws h.instStack h.instStack && s.covers h.core ws then s.splitInto h.instStack w h.instStack free else none with
        | some s => s.setLate sd (BitVec.ofNat 64 (x.stop - (x.next + ceilDiv x.rest 2)))
        | none => s.setLate sd 0)
    | _, _ => s.setLate sd 0

/-- The held tile released (R382). -/
def State.dropTile (s : State) : State :=
  let h := s.hart
  if h.tile.isNone then s
  else
    let s := match s.walkerOf h with
      | some (w, _) => s.modWalker h.instStack w fun x => { x with out := x.out - 1 }
      | none => s
    s.modHart fun h => { h with tile := none }

/-- R382. -/
def execWdone (s : State) : Host.Outcome State Fault Refusal :=
  word s .wdone fun s => check s.hart.tile.isSome 0x22 5 (.ok s.dropTile.next)

/-! ### Completion counters (R390) -/

/-- An advance of a counter of a stack under a key. -/
def State.advanceCounter (s : State) (stk c : Nat) (n : Word) (k : Key) : State :=
  let s := s.modStack stk fun t =>
    let x := t.ccs.look c {}
    { t with ccs := t.ccs.put c { value := x.value + n, key := x.key.max k } }
  s.signal fun h => h.stk == stk

/-- A counter of the selected context's stack. -/
def State.counter (s : State) (c : Nat) : Counter := (s.stack s.stk).ccs.look c {}

/-- R383. -/
def execCtwait (sd sa sb : SReg) (s : State) : Host.Outcome State Fault Refusal :=
  word s (.ctwait sd sa sb) fun s =>
    check (decide ((s.rs sa).toNat ≤ 4095)) 0x22 6 <|
    let c := s.counter (s.rs sa).toNat
    if decide ((s.rs sb).toNat ≤ c.value.toNat) && c.key.le s.settled then
      ((s.refreshAll s.hart.core c.key).raiseFloor c.key).setLate sd c.value
    else .wait s .counter

/-- R383: the publication, then the advance under the source's next key. -/
def execCtinc (sd sa sb : SReg) (s : State) : Host.Outcome State Fault Refusal :=
  word s (.ctinc sd sa sb) fun s =>
    check (decide ((s.rs sa).toNat ≤ 4095)) 0x22 6 <|
    let n := (s.rs sa).toNat
    match s.hart.phase with
    | .published k =>
      if s.rs sb = 0 then s.setLate sd (s.counter n).value
      else if !s.canKey then .wait s (.published k)
      else
        let s := (s.takeKey).advanceCounter s.stk n (s.rs sb) s.nextKey
        s.setLate sd (s.counter n).value
    | _ => (s.publish 0 false).then fun s => .wait s (.published (s.log s.hart.key).ptKey)

/-! ### LAUNCH and EXIT -/

/-- The doublewords from an address, read as LD reads them. -/
def State.loadWords (s : State) (a : Word) : Nat → Res (State × List Word)
  | 0 => .ok (s, [])
  | n + 1 =>
    (s.load a 8).andThen (fun x => (x.1, [])) fun x =>
      (State.loadWords x.1 (a + 8) n).andThen id fun y => .ok (y.1, BitVec.ofNat 64 x.2 :: y.2)

/-- A record entered in the launch table of a stack (R359). -/
def State.enterLaunch (s : State) (stk idx : Nat) (ws : List Word) (k : Key) (dom : BitVec 6) : State :=
  let l : Launch :=
    { state := .waiting, words := ws, arrival := k, domain := dom, home := stk, homeIdx := idx, nextLog := 64 * recB ws 48 10 }
  s.modStack stk fun t => { t with launches := t.launches.put idx l }

/-- R379: the record is read and checked; at the commit point LAUNCH publishes and the record enters the home table. -/
def execLaunch (sa : SReg) (s : State) : Host.Outcome State Fault Refusal :=
  word s (.launch sa) fun s =>
    let a := s.rs sa
    let h := s.hart
    check (a.toNat % 128 == 0) 0x0B a <|
    (s.loadWords a 16).andThen Prod.fst fun x =>
    let ws := x.2
    match x.1.recFault ws h.service with
    | some r => .trap 0x22 (BitVec.ofNat 64 r)
    | none =>
      match freeIndex (x.1.stack h.stk).launches 256 with
      | none => .wait x.1 .ordering
      | some idx =>
        if h.service then
          (if !x.1.canKey then .wait x.1 .ordering
           else .ok ((x.1.takeKey).enterLaunch h.stk idx ws x.1.nextKey (BitVec.ofNat 6 (fieldOf (recWord ws 11) 0 6))).next)
        else (x.1.publish 0 false).then fun s =>
          .ok (s.enterLaunch h.stk idx ws (s.log h.key).ptKey h.domain).next

/-- The end of the selected context after its last publication (R386). -/
def State.leave (s : State) : State :=
  let h := s.hart
  let s := s.freeLanes h
  let s := s.unbind h false
  let s := s.modLaunch h Launch.leave Launch.leave
  let s := s.modLog h.key fun l => { l with alive := false }
  let last := !h.inGang || decide ((s.gang h.gangKey).size ≤ (s.gang h.gangKey).gone + 1)
  let s := if last then s.endGang h.stk h.gangKey false (some (h.home, h.launch)) else s
  let s := (s.dropCtx h.key).modHart fun x => if x.key = h.key then { x with npSince := none, tile := none } else x
  let s := if h.inGang then s.leaveGang h else s
  (s.freezeSaved h.instStack).freeLog h.key

/-- R386: the home stack of the launch hears of it, so it waits while no path leads there (R402). -/
def execExit (s : State) : Host.Outcome State Fault Refusal :=
  word s .exit fun s =>
    if !s.hart.service && !s.reaches s.stk s.hart.home then .wait s .ordering
    else (s.dropTile.publish 0 false).then fun s => .ok s.leave

/-! ## Cutting (R360, R361) -/

/-- The pieces of a range among the stacks of the mask. -/
def recPieces (ws : List Word) : List (Nat × Nat × Nat) :=
  let ks := (List.range Config.stackCount).filter (recStack ws)
  let n := recRange ws
  (ks.zipIdx.map fun x => (x.1, n * x.2 / ks.length, n * (x.2 + 1) / ks.length)).filter fun p => decide (p.2.1 < p.2.2)

/-- A piece made an instance when its stack has free entries and a path leads there (R402). -/
def State.makePiece (s : State) (home idx : Nat) (p : Nat × Nat × Nat) : Option State :=
  match freeIndex (s.stack p.1).walkers 32, if s.reaches home p.1 then s.holdEntry p.1 home idx else none with
  | some w, some s =>
    let (serial, s) := s.takeSerial home idx
    some (s.newInstance p.1 w home idx p.2.1 p.2.2 serial true)
  | _, _ => none

/-- The pieces of a cut made instances; those that find no entry wait. -/
def State.makePieces (s : State) (home idx : Nat) (ps : List (Nat × Nat × Nat)) : State :=
  let r := ps.foldl (fun (r : State × List (Nat × Nat × Nat)) p =>
    match r.1.makePiece home idx p with
    | some s => (s, r.2)
    | none => (r.1, r.2 ++ [p])) (s, [])
  r.1.modHome home idx fun l => { l with pieces := r.2 }

/-- A wait of a record holds. -/
def State.waitHolds (s : State) (home : Nat) (ws : List Word) (i : Nat) : Bool :=
  !(recWord ws 8).getLsbD (58 + i) ||
    decide ((recWord ws (9 + i)).toNat ≤ ((s.stack home).ccs.look (recB ws (12 * i) 12) {}).value.toNat)

/-- R360, R361: a Waiting record whose waits hold is cut, and pieces of a cut that waited for entries are made. -/
def execLaunchCut (stk idx : Nat) (s : State) : Host.Outcome State Fault Refusal :=
  let l := s.launchAt stk idx
  ifUnit (decide (stk < Config.stackCount)) <|
    if l.state = .waiting ∧ s.waitHolds stk l.words 0 ∧ s.waitHolds stk l.words 1 then
      let ps := recPieces l.words
      (s.modHome stk idx fun l => { l with state := .running, live := ps.length }).makePieces stk idx ps
    else if l.state = .running then s.makePieces stk idx l.pieces
    else s

/-- R366: a spent instance with no bound context becomes free; the last one of a launch lets it drain. The home stack hears of it, so
it waits while no path leads there (R402). -/
def execInstanceSpent (stk w : Nat) (s : State) : Host.Outcome State Fault Refusal :=
  let x := (s.stack stk).walkers.look w {}
  ifUnit (decide (stk < Config.stackCount)) <|
    if x.state ≠ .spent ∨ x.bound ≠ [] ∨ !s.reaches stk x.home then s
    else
      let s := s.modStack stk fun t => { t with walkers := Tbl.drop t.walkers w }
      let s := s.modHome x.home x.launch fun l =>
        { l with live := l.live - 1, state := if l.state = .running ∧ l.live ≤ 1 then .draining else l.state }
      s.modMember stk x.home x.launch fun l => { l with live := l.live - 1 }

/-- The key that a service-log source gives now, and whether it can give one (R254). -/
def State.serviceKey (s : State) (stk : Nat) : Key := Key.mk (s.time stk).toNat (sourceOf stk 63 0)

/-- The service-log source of a stack can give a key on this tick. -/
def State.serviceReady (s : State) (stk : Nat) : Bool :=
  let k := (s.log (65408 + stk)).lastKey
  !(s.stack stk).heldTick && (k == 0 || decide (k.time < (s.time stk).toNat))

/-- The key of the service-log source taken. -/
def State.takeServiceKey (s : State) (stk : Nat) : State := s.modLog (65408 + stk) fun l => { l with lastKey := s.serviceKey stk }

/-- A lock whose release a launch's completion waits for (R316). -/
def State.lockPending (s : State) (home idx : Nat) : Bool :=
  s.stackTab.any fun t => t.2.locks.any fun e => e.2.launchAt == some (home, idx)

/-- A launch's completion advances a counter. -/
def Launch.counts (l : Launch) : Bool := (recWord l.words 8).getLsbD 36

/-- R360: a Draining launch with no live context, its publications settled and its gangs' locks released. -/
def State.launchOver (s : State) (stk idx : Nat) : Bool :=
  let l := s.launchAt stk idx
  l.state == .draining && l.ctxs == 0 && l.pubKey.le (s.stack stk).settled && !s.lockPending stk idx &&
  (!l.counts || s.serviceReady stk)

/-- R360: the launch is done; its counter advances and its entry is free. -/
def execLaunchDone (stk idx : Nat) (s : State) : Host.Outcome State Fault Refusal :=
  let l := s.launchAt stk idx
  ifUnit (decide (stk < Config.stackCount)) <|
    if !s.launchOver stk idx then s
    else
      let s := if l.counts then
          (s.takeServiceKey stk).advanceCounter stk (recB l.words 24 12) 1 (s.serviceKey stk)
        else s
      s.modStack stk fun t => { t with launches := Tbl.drop t.launches idx }

/-! ## Placement (R364) -/

/-- The free slots of a core. -/
def State.freeSlotsOf (s : State) (g : Nat) : List Nat :=
  (List.range 4).filter fun i => !(s.harts.any fun h => !h.service && h.resident && h.core == g && h.slotNo == i)

/-- A core is eligible for a launch. -/
def State.eligible (s : State) (g : Nat) (ws : List Word) : Bool :=
  let c := s.core g
  s.covers g ws && decide (recHarts ws ≤ (s.freeSlotsOf g).length) &&
  decide (recHarts ws * recClusters ws ≤ popc c.freeClusters) && c.resetEnd.isNone && c.resetWait.isNone && !c.testBlock

/-- Cores of a stack that a launch holds: those of its resident contexts, and not those whose clusters are held for a saved one
alone (R364; notes/assumptions/133.md). -/
def State.coresHeld (s : State) (stk home idx : Nat) : Nat :=
  ((s.harts.filter fun h => !h.service && h.resident && h.stk == stk && h.home == home && h.launch == idx).map Hart.core).eraseDups.length

/-- The key that a launch's contexts wait for before their first instruction (R276). -/
def State.startKey (s : State) (home : Nat) (l : Launch) : Key :=
  (List.range 2).foldl (fun k i =>
    if (recWord l.words 8).getLsbD (58 + i) then k.max ((s.stack home).ccs.look (recB l.words (12 * i) 12) {}).key else k) l.arrival

/-- The cores that a placement of a launch needs at once (R24, R364). -/
def recCores (ws : List Word) : Nat := if 2 ≤ recGang ws then ceilDiv (recGang ws) (recHarts ws) else 1

/-- The cores of a stack. -/
def coresOf (stk : Nat) : List Nat := (List.range 48).map fun c => 48 * stk + c

/-- An instance has tiles to place contexts for, and its launch runs and holds fewer cores in the stack than its limit. That a
launch which has failed places none is this model's reading (R364, R360; notes/assumptions/132.md). -/
def State.wantsCores (s : State) (stk : Nat) (x : Walker) : Bool :=
  let l := s.launchAt x.home x.launch
  x.state == .active && decide (x.next < x.stop) && l.state == .running &&
  decide (s.coresHeld stk x.home x.launch < recLimit l.words)

/-- The cores that the next placement of an instance takes: none when it has to wait. -/
def State.placeCores (s : State) (stk : Nat) (x : Walker) : Option (List Nat) :=
  let ws := (s.launchAt x.home x.launch).words
  let cs := (coresOf stk).filter fun g => s.eligible g ws
  if s.wantsCores stk x ∧ recCores ws ≤ cs.length then some (cs.take (recCores ws)) else none

/-- The clusters that stay behind for a saved context: those whose slices VSSX wrote, in matrix mode all (R41, R187). -/
def State.heldOf (s : State) (h : Hart) : BitVec 16 :=
  if h.regs.mode then h.regs.grant
  else (onesList h.regs.grant).foldl (fun m c => if ((s.core h.core).lat.look c {}).written then m ||| 1#16 <<< c else m) 0

/-- Contexts of a core whose priority is below a launch's: the walker unit may ask them to make room for it (R38). -/
def State.below (s : State) (g : Nat) (ws : List Word) : List Hart :=
  s.harts.filter fun h => !h.service && h.resident && h.core == g && h.sprint == recSprint ws && decide (h.prio < recPrio ws)

/-- A core is eligible for a launch, or would be without the contexts of lower priority. -/
def State.roomOn (s : State) (g : Nat) (ws : List Word) : Bool :=
  let c := s.core g
  let out := s.below g ws
  let freed := (out.map fun h => popc (h.regs.grant &&& ~~~(s.heldOf h))).sum
  s.eligible g ws ||
  (s.covers g ws && decide (recHarts ws ≤ (s.freeSlotsOf g).length + out.length) &&
    decide (recHarts ws * recClusters ws ≤ popc c.freeClusters + freed) && c.resetEnd.isNone && c.resetWait.isNone && !c.testBlock)

/-- The log rings in use in a stack. -/
def State.ringsUsed (s : State) (stk : Nat) : List (Nat × Nat) :=
  (s.logs.filter fun l => l.2.used && l.2.stk == stk && decide (l.1 < 65280)).map fun l => (l.2.base, l.2.base + l.2.size)

/-- A ring of a size at a base overlaps none in use. -/
def ringFree (used : List (Nat × Nat)) (size base : Nat) : Bool :=
  used.all fun u => decide (u.2 ≤ base) || decide (base + size ≤ u.1)

/-- The places of rings of a size in a stack's log pool, the multiples of the size (R249): the first, and how many. -/
def State.ringPlaces (s : State) (stk size : Nat) : Nat × Nat :=
  match (s.stack stk).poolBase, (s.stack stk).poolSize with
  | some b, some n => (ceilDiv b.toNat size, (b.toNat + n.toNat) / size - ceilDiv b.toNat size)
  | _, _ => (0, 0)

/-- A free log ring of a size in the stack's log pool (R249): the lowest that overlaps no ring in use. -/
def State.freeRing (s : State) (stk size : Nat) : Option Nat :=
  let p := s.ringPlaces stk size
  let used := s.ringsUsed stk
  ((List.range p.2).find? fun i => ringFree used size ((p.1 + i) * size)).map fun i => (p.1 + i) * size

/-- The stack's log pool and the log ids have room for the contexts of a placement (R364). -/
def State.roomForLogs (s : State) (stk : Nat) (l : Launch) : Bool :=
  let n := if 2 ≤ recGang l.words then recGang l.words else recHarts l.words
  let size := 2 ^ recLogSize l.words
  let p := s.ringPlaces stk size
  let used := s.ringsUsed stk
  decide (n ≤ (List.range p.2).countP fun i => ringFree used size ((p.1 + i) * size)) &&
  decide (n ≤ (List.range (65280 - l.nextLog)).countP fun i => !(s.log (l.nextLog + i)).used)

/-- The cores that a placement of an instance waits for, when nothing else is lacking: enough of them are free, or hold contexts of lower priority in its
place. -/
def State.roomCores (s : State) (stk : Nat) (x : Walker) : Option (List Nat) :=
  let l := s.launchAt x.home x.launch
  let cs := (coresOf stk).filter fun g => s.roomOn g l.words
  if s.wantsCores stk x && (s.startKey x.home l).le (s.stack stk).settled && decide (recCores l.words ≤ cs.length) && s.roomForLogs stk l
  then some (cs.take (recCores l.words)) else none

/-- The lowest log id from `n` up that is not in use (R364). -/
def State.freeLogId (s : State) (n : Nat) : Option Nat :=
  ((List.range (65280 - n)).find? fun i => !(s.log (n + i)).used).map (n + ·)

/-- A context added to those the module holds. -/
def State.addCtx (s : State) (h : Hart) : State :=
  if s.hart.slot = .ended ∧ s.hart.key = h.key then { s with hart := h } else { s with others := s.others.put h.key h }

/-- One context placed in a slot of a core with its lanes, its log and its place in a gang (R364, R368). The next log id is that
of the home entry, also in a Member stack, and becomes the id taken plus one (notes/assumptions/131.md). -/
def State.placeHart (s : State) (g slot w : Nat) (x : Walker) (gang : Option (Nat × Nat × Nat)) : Option State :=
  let l := s.launchAt x.home x.launch
  let ws := l.words
  let stk := g / 48
  match s.freeLogId l.nextLog, s.freeRing stk (2 ^ recLogSize ws) with
  | some lid, some base =>
    let loc := 4 * g + slot
    let grant := takeLow (s.core g).freeClusters (recClusters ws)
    let regs : Regs :=
      { s := [(2, 0x10000), (3, recWord ws 1)], grant := grant, vlen := 32 * (4 * popc grant)
        rngs := Config.rngSeed ^^^ BitVec.ofNat 64 loc }
    let h : Hart :=
      { key := lid, loc := loc, pc := recWord ws 0, regs := regs, usemask := recUse ws, domain := l.domain, cap := recCap ws
        logsz := BitVec.ofNat 5 (recLogSize ws), sprint := recSprint ws, prio := recPrio ws, home := x.home, launch := x.launch
        launchId := x.launchId, instStack := stk, serial := x.serial
        gangIdx := match gang with | some (i, _, _) => BitVec.ofNat 10 i | none => 0
        gangRank := match gang with | some (_, r, _) => BitVec.ofNat 6 r | none => 0
        gangSize := match gang with | some (_, _, n) => BitVec.ofNat 7 n | none => 1 }
    let k := s.startKey x.home l
    let settled := (s.stack stk).settled
    let s := s.addCtx h
    let lg : Log := { stk := stk, base := base, size := 2 ^ recLogSize ws, used := true, floor := settled }
    let s : State := { s with logs := s.logs.put lid lg }
    let s := s.modCore g fun c => { c with lat := latAssign c.lat grant lid slot }
    let s := s.refreshAll g (k.max settled)
    let s := s.modStack stk fun t => { t with walkers := t.walkers.map fun e =>
      if e.1 = w then (e.1, { e.2 with bound := e.2.bound ++ [lid] }) else e }
    let s := s.modHome x.home x.launch fun l => { l with nextLog := lid + 1, ctxs := l.ctxs + 1 }
    let s := s.modMember stk x.home x.launch fun l => { l with ctxs := l.ctxs + 1 }
    let gg : Gang := match gang with
      | some (_, _, n) =>
        { (s.gang h.gangKey) with stk := stk, size := n, members := (s.gang h.gangKey).members ++ [lid], sprint := recSprint ws }
      | none => { stk := stk, members := [lid], sprint := recSprint ws }
    let s : State := { s with gangs := s.gangs.put h.gangKey gg }
    some (s.logRun g slot x.launchId (2 ^ 46 - 1))
  | _, _ => none

/-- Contexts placed in a list of places; none when a log is lacking for one. -/
def State.placeAll (s : State) (w : Nat) (x : Walker) (gang : Option (Nat × Nat)) (rank : Nat) :
    List (Nat × Nat) → Option State
  | [] => some s
  | p :: r =>
    match s.placeHart p.1 p.2 w x (gang.map fun g => (g.1, rank, g.2)) with
    | some s => State.placeAll s w x gang (rank + 1) r
    | none => none

/-- A gang index of a stack that no context and no bank work uses. -/
def State.freeGang (s : State) (stk : Nat) : Option Nat :=
  (List.range 1024).find? fun i =>
    let g := stk * 1024 + i
    !(s.harts.any fun h => h.inGang && h.gangKey == g) && !((s.stack stk).locks.any fun e => e.2.gang == g) &&
    !((s.stack stk).bcpq.any fun c => c.gang == g) && !((s.stack stk).channels.any fun c => (c.2.run.map fun r => r.gang) == some g)

/-- The next placement of an instance: harts of one core, or a whole gang; none when it has to wait. -/
def State.placeNext (s : State) (stk w : Nat) : Option State :=
  let x := (s.stack stk).walkers.look w {}
  let l := s.launchAt x.home x.launch
  let ws := l.words
  if !(s.startKey x.home l).le (s.stack stk).settled || !s.connected stk x.home then none
  else match s.placeCores stk x with
    | none => none
    | some cs =>
      let n := if 2 ≤ recGang ws then recGang ws else recHarts ws
      let places := (cs.flatMap fun g => ((s.freeSlotsOf g).take (recHarts ws)).map fun i => (g, i)).take n
      if 2 ≤ recGang ws then
        (match s.freeGang stk with
          | some i =>
            let s : State := { s with gangs := Tbl.drop s.gangs (stk * 1024 + i) }
            s.placeAll w x (some (i, n)) 0 places
          | none => none)
      else s.placeAll w x none 0 places

/-- R364: a context, the contexts of a core, or a gang placed; before their first instruction the settled point has reached
the keys of R276 and the core's view is refreshed to them. -/
def execPlacement (stk w : Nat) (s : State) : Host.Outcome State Fault Refusal :=
  ifUnit (decide (stk < Config.stackCount)) ((s.placeNext stk w).getD s)

/-! ## Splits of idle cores (R367) -/

/-- An Active instance of the core's stack can place on it. -/
def State.canPlaceOn (s : State) (g : Nat) (x : Walker) : Bool :=
  s.eligible g (s.launchAt x.home x.launch).words && (s.placeCores (g / 48) x).isSome

/-- The instance that an idle core asks for; none for a core that is not idle or finds none. -/
def State.idleChoice (s : State) (g : Nat) : Option (Nat × Nat × Launch × Walker) :=
  let stk := g / 48
  if (s.core g).splitting || (s.freeSlotsOf g).isEmpty || popc (s.core g).freeClusters == 0 ||
      (s.stack stk).walkers.any (fun e => s.canPlaceOn g e.2) then none
  else
    let xs := s.splittable stk g
    let rankOf (x : Nat × Nat × Launch × Walker) : List Nat :=
      (if x.1 = stk then 0 else 1) :: (if recSprint x.2.2.1.words then 0 else 1) :: (7 - recPrio x.2.2.1.words) ::
        (2 ^ 48 - x.2.2.2.rest) :: tieOf stk x
    chooseBy (fun a b => lexLt (rankOf a) (rankOf b)) xs

/-- R367: the split of an idle core. Within its stack it is served at once; to another stack a request goes, with a walker
entry and a launch entry held. -/
def execIdleSplit (core : Nat) (s : State) : Host.Outcome State Fault Refusal :=
  let stk := core / 48
  ifUnit (decide (core < 1152)) <|
    match s.idleChoice core, freeIndex (s.stack stk).walkers 32 with
    | some x, some free =>
      if x.1 = stk then (s.splitInto stk x.2.1 stk free).getD s
      else match s.askSplit stk free x core with
        | none => s
        | some s => s.modCore core fun c => { c with splitting := true }
    | _, _ => s

/-- The core of a split's requester, while it still asks. -/
def State.splitterCore (s : State) (who : Nat) : Option Nat :=
  if who < 0x10000 then some who else (s.ctx (who - 0x10000)).map Hart.core

/-- R367: a request from another stack is served by the walker unit that owns the instance, and a reply goes back to an entry that
is held for one and has had none. -/
def execSplitRequest (stk src w : Nat) (s : State) : Host.Outcome State Fault Refusal :=
  ifUnit (decide (stk < Config.stackCount) && decide (src < Config.stackCount)) <|
    match (s.stack src).walkers.find? fun e => e.2.state == .held && e.2.bound.length == 3 && e.2.bound.take 2 == [stk, w] with
    | none => s
    | some (free, hold) =>
      let x := (s.stack stk).walkers.look w {}
      let mid := x.next + ceilDiv x.rest 2
      let l := s.launchAt x.home x.launch
      let ok := x.state == .active && decide (2 ≤ x.rest) && x.of hold.home hold.launch && x.serial == hold.serial &&
        l.arrival.toNat == hold.next && l.splits && admits l.words stk src &&
        match s.splitterCore (hold.bound.getD 2 0) with | some g => s.covers g l.words | none => false
      let (serial, s') := s.takeSerial x.home x.launch
      let s := if ok then
          (((s'.modWalker stk w fun x => { x with stop := mid }).modHome x.home x.launch fun l => { l with live := l.live + 1 }).count
            stk 0x138 1).modStack src fun t => { t with
              walkers := t.walkers.put free { hold with bound := hold.bound ++ [0] }
              replies := t.replies ++ [(free, some { state := .active, home := x.home, launch := x.launch, launchId := x.launchId,
                                                     serial := serial, next := mid, stop := x.stop })] }
        else s.modStack src fun t => { t with
              walkers := t.walkers.put free { hold with bound := hold.bound ++ [0] }, replies := t.replies ++ [(free, none)] }
      s.post [.splitReply stk src]

/-- The walker entry that a split on its way holds. -/
def Stack.holdAt (t : Stack) (free : Nat) : Option Walker := (t.walkers.find? fun e => e.1 == free && e.2.state == .held).map Prod.snd

/-- A requester of a split hears: a core may ask again; a context in WNEXT is bound to the new instance, or has none, and goes on. -/
def State.splitHeard (s : State) (hold : Walker) (free : Nat) (r : Option Walker) : State :=
  let who := hold.bound.getD 2 0
  if who < 0x10000 then s.modCore who fun c => { c with splitting := false }
  else match s.ctx (who - 0x10000) with
    | none => s
    | some h =>
      if h.phase ≠ .requested 0 ∨ h.home ≠ hold.home ∨ h.launch ≠ hold.launch then s
      else
        let s := match r with | some w => s.rebind h free w.serial | none => s
        s.modCtx h.key fun h => { h with results := [(0, bit r.isSome 64)], awaiting := 0 }

/-- The reply to a request that a walker entry holds: the new instance takes the entry, or what was held is free. -/
def State.splitAnswered (s : State) (stk free : Nat) (r : Option Walker) : State :=
  let s := s.modStack stk fun t => { t with replies := t.replies.erase (free, r) }
  match (s.stack stk).holdAt free with
  | none => s
  | some hold =>
    let off (s : State) : State := s.modHolds stk hold.home hold.launch (BitVec.ofNat 78 hold.next) (· - 1)
    let s := match r with
      | some w =>
        off ((s.modStack stk fun t => { t with walkers := t.walkers.put free w }).modMember stk w.home w.launch
          fun l => { l with live := l.live + 1 })
      | none => (off (s.modStack stk fun t => { t with walkers := Tbl.drop t.walkers free })).modMember stk hold.home hold.launch id
    s.splitHeard hold free r

/-- A reply of a stack arrives (R367): of those on their way, its first. -/
def State.splitReplied (s : State) (own stk : Nat) : State :=
  match (s.stack stk).replies.find? fun r => match (s.stack stk).holdAt r.1 with | some h => h.bound.head? == some own | none => true with
  | some r => s.splitAnswered stk r.1 r.2
  | none => s

/-- R367: a reply arrives; the requester takes the new instance, or frees what it held. -/
def execSplitReply (stk : Nat) (s : State) : Host.Outcome State Fault Refusal :=
  ifUnit (decide (stk < Config.stackCount)) <|
    match (s.stack stk).replies with
    | [] => s
    | r :: _ => s.splitAnswered stk r.1 r.2

/-- R365: a frozen instance put back into a free walker entry. -/
def State.restoreInstance (s : State) (stk n : Nat) : State :=
  match (s.stack stk).frozen.find? fun e => e.1 == n, freeIndex (s.stack stk).walkers 32 with
  | some w, some i => s.modStack stk fun t => { t with walkers := t.walkers.put i w.2, frozen := Tbl.drop t.frozen n }
  | _, _ => s

/-- R365. -/
def execInstanceRestore (stk n : Nat) (s : State) : Host.Outcome State Fault Refusal :=
  ifUnit (decide (stk < Config.stackCount)) (s.restoreInstance stk n)

end Sys2Proof.Machine
end

