-- ==== Sys2Proof/Machine/Ports.lean ====
section
/-! DEFINITION. Host and peer ports (R16, R388, R404, R405) and host channels (R373, R406 to R409). -/

namespace Sys2Proof.Machine

/-! ## Ports -/

/-- Its log (R248). -/
def portLog (p : Nat) : Nat := 64 * 1023 + p
/-- A port number. -/
def isPort (p : Nat) : Bool := decide (p < 10)

/-- A port serves requests: bring-up has ended and the port is not in fundamental reset (R440, R445). -/
def State.portOpen (s : State) (p : Nat) : Bool := s.bringUp == 6 && !s.stopped && !(s.perst.contains p)

/-- The module takes part in traffic with others: bring-up has ended and clocks run (R445, R447). -/
def State.onNetwork (s : State) : Bool := s.bringUp == 6 && !s.stopped

/-- A request of a host can reach the module: one of its ports serves requests. -/
def State.anyHostPort (s : State) : Bool := s.portOpen 0 || s.portOpen 1

/-- The domain of a request: its function's on a host port, the port's own on a peer port (R404). -/
def State.domainOf (s : State) (p dom : Nat) : Nat := if p < 2 then dom % 64 else s.portDomain.look p 0

/-- The key slots of a domain cleared in every stack (R405). -/
def State.clearDomainKeys (s : State) (d : Nat) : State :=
  (s.stackTab.flatMap fun t => (t.2.keySlots.filter fun e => e.2.valid && e.2.domain == d).map fun e => (t.1, e.1)).foldl
    (fun s x => s.clearKeySlot x.1 x.2) s

/-- A TDI in a new state; leaving RUN clears its domain's key slots. -/
def State.setTdi (s : State) (d : Nat) (x : TdiState) : State :=
  let was := s.tdis.look d .unlocked
  let s : State := { s with tdis := s.tdis.put d x }
  if was = .run ∧ x ≠ .run then s.clearDomainKeys d else s

/-- A request outside the IDE stream of a TDI in RUN (R405). -/
def State.outsideStream (s : State) (p dom : Nat) (ide : Bool) : Bool :=
  decide (p < 2) && s.tdis.look (dom % 64) .unlocked == .run && !ide

/-- The canonical addresses of the bytes of a request, when a domain owns the frame of each (R234). -/
def State.portAddrs (s : State) (d pa n : Nat) : Option (List Nat) :=
  let as := (List.range n).filterMap fun i => canonical (pa + i)
  if as.length = n ∧ as.all fun p => s.owns d p then some as else none

/-- A port can give a key on this tick (R254, R387). -/
def State.portReady (s : State) (p : Nat) : Bool := s.sourceReady (portStack p) (portAgent p) (portSub p)

/-- The key of a port taken. -/
def State.takePortKey (s : State) (p : Nat) : Key × State :=
  (s.sourceKey (portStack p) (portAgent p) (portSub p), s.takeSourceKey (portStack p) (portAgent p) (portSub p))

/-- A bound channel's descriptor address. -/
def Chan.desc (c : Chan) : Option Nat := if c.binding.getLsbD 63 then canonical (c.binding.toNat % 0x1000000000000) else none

/-- Doorbells of a write (R407): each bound channel whose down produced it writes. -/
def State.ringDoorbells (s : State) (p : Nat) (k : Key) (bs : List (Nat × Byte)) : State :=
  let byteAt (a : Nat) : Option Byte := (bs.find? fun x => x.1 == a).map Prod.snd
  { s with stackTab := s.stackTab.map fun t => (t.1, { t.2 with chans := t.2.chans.map fun c =>
      match c.2.desc with
      | none => c
      | some d =>
        match byteAt (d + 0x20), byteAt (d + 0x21), byteAt (d + 0x22), byteAt (d + 0x23) with
        | some a, some b, some e, some f => (c.1, { c.2 with doorbells := c.2.doorbells ++ [(ofBytes [a, b, e, f], k, p)] })
        | _, _, _, _ => c }) }

/-- A write is a publication of its port's log under the port's key (R275). -/
def State.publishWrite (s : State) (p : Nat) (bs : List (Nat × Byte)) : State :=
  let (k, s) := s.takePortKey p
  (s.publishRecords (portLog p) k (recordsFor bs)).ringDoorbells p k bs

/-- A write of a port has arrived and waits. -/
def State.writeWaits (s : State) (p : Nat) : Bool :=
  (s.stack (portStack p)).arrivals.any fun a => match a with
    | .write q _ => q == p
    | .put path .. => path + 2 == p
    | .answer .. | .reply .. | .sector .. => false

/-- A write of a domain: a publication of the port's log, once the port can give its key, or dropped whole and counted
(R254, R405). -/
def State.portWrite (s : State) (p d pa : Nat) (bytes : List Byte) : State :=
  match s.portAddrs d pa bytes.length with
  | none => s.count (portStack p) 0x08 1
  | some as =>
    if s.portReady p && !s.writeWaits p then s.publishWrite p (as.zip bytes)
    else s.keepArrival (portStack p) (.write p (as.zip bytes))

/-- R405. -/
def execHostWrite (port dom pa : Nat) (ide : Bool) (bytes : List Byte) (s : State) : Host.Outcome State Fault Refusal :=
  ifUnit (isPort port) <|
  if !s.portOpen port then s
  else if s.outsideStream port dom ide then s.setTdi (dom % 64) .error
  else s.portWrite port (s.domainOf port dom) pa bytes

/-- R405: home memory, Unsupported Request, or a wait for a row lock; before the module is ready, a retry (R445). -/
def execHostRead (port dom pa n : Nat) (ide : Bool) (s : State) : Host.Outcome State Fault Refusal :=
  ifUnit (isPort port) <|
  if !s.portOpen port then (if s.stopped || s.perst.contains port then s else s.send (.retry port))
  else if s.outsideStream port dom ide then s.setTdi (dom % 64) .error
  else match s.portAddrs (s.domainOf port dom) pa n with
    | none => s.send (.unsupported port)
    | some _ => s.outsideRead (.port port) pa n

/-- R388: the local time in nanoseconds. -/
def execPtmRequest (port : Nat) (s : State) : Host.Outcome State Fault Refusal :=
  ifUnit (decide (port < 2)) <|
  if s.portOpen port then s.send (.ptm port (BitVec.ofNat 64 ((s.time (portStack port)).toNat * 5 / 3))) else s

/-- R405: a TDI stops; out of RUN, its domain's key slots are cleared. -/
def execTdiLeaveRun (d : Nat) (s : State) : Host.Outcome State Fault Refusal :=
  ifUnit (decide (d < 64)) (if s.anyHostPort then s.setTdi d .unlocked else s)

/-- R405: a TDI is locked, or a locked one runs. -/
def execTdiEnterRun (d : Nat) (run : Bool) (s : State) : Host.Outcome State Fault Refusal :=
  ifUnit (decide (d < 64)) <|
  if !s.anyHostPort then s
  else match s.tdis.look d .unlocked, run with
  | .unlocked, false => s.setTdi d .locked
  | .locked, true => s.setTdi d .run
  | _, _ => s

/-! ## Channels (R406) -/

/-- A channel as its descriptor gives it. -/
structure ChanView where
  desc : Nat
  down : Nat
  up : Nat
  n : Nat
  domain : Nat
  notify : Word
  consumed : Nat
  produced : Nat
  seen : Nat
  deriving DecidableEq, Repr

/-- A bound channel of a stack: its descriptor in home memory, with the counters that the engine writes as the engine has set
them, whose writes may be on their way home. -/
def State.channel (s : State) (stk ch : Nat) : Option ChanView :=
  ((s.stack stk).chans.look ch {}).desc.map fun d =>
    let x := (s.stack stk).chans.look ch {}
    { desc := d, down := s.mem.readN d 8, up := s.mem.readN (d + 8) 8, n := 2 ^ (s.mem.readN (d + 0x10) 1 % 16 + 4)
      domain := s.channelDomain d, notify := BitVec.ofNat 64 (s.mem.readN (d + 0x18) 8)
      consumed := x.consumed.getD (s.mem.readN (d + 0x28) 4), produced := x.sent.getD (s.mem.readN (d + 0x30) 4)
      seen := s.mem.readN (d + 0x38) 4 }

/-- A channel's engine changed. -/
def State.modChan (s : State) (stk ch : Nat) (f : Chan → Chan) : State :=
  s.modStack stk fun t => { t with chans := t.chans.put ch (f (t.chans.look ch {})) }

/-- A write of the channel engine: like every write it reaches home memory through the merge engine (R246). -/
def State.channelWrite (s : State) (stk : Nat) (bs : List (Nat × Byte)) : State :=
  s.publishRecords (65408 + stk) (s.serviceKey stk) (recordsFor bs)

/-- Bytes at consecutive addresses. -/
def bytesFrom (a : Nat) (bs : List Byte) : List (Nat × Byte) := bs.zipIdx.map fun x => (a + x.2, x.1)

/-- A stack and a channel number of it. -/
def isChannel (stk ch : Nat) : Bool := isStack stk && decide (ch < 64)

/-- R407: the host writes down produced. -/
def execDoorbell (stk ch port : Nat) (v : BitVec 32) (s : State) : Host.Outcome State Fault Refusal :=
  ifUnit (isChannel stk ch && decide (port < 2)) <|
  match s.channel stk ch with
  | none => s
  | some c => if s.portOpen port then s.portWrite port c.domain (c.desc + 0x20) (bytesOf v.toNat 4) else s

/-! ## Down (R407) -/

/-- A doorbell's messages reach sequence number `q`, modulo 2^32 (R406). -/
def doorbellCovers (q v : Nat) : Bool :=
  let waiting := (v + 2 ^ 32 - q) % 2 ^ 32
  decide (0 < waiting) && decide (waiting < 2 ^ 31)

/-- What the engine of a channel finds next, when it can write its counter: the channel, the message's sequence number, the
message when its tag is right, and the key and port of its doorbell, the first that reaches it. -/
def State.downNext (s : State) (stk ch : Nat) : Option (ChanView × Nat × Option (List Byte) × Key × Nat) :=
  let x := (s.stack stk).chans.look ch {}
  match s.channel stk ch with
  | none => none
  | some c =>
    let q := (c.consumed + (if x.head.isSome then 1 else 0)) % 2 ^ 32
    let i := q % c.n
    match x.doorbells.find? fun d => doorbellCovers q d.1 with
    | none => none
    | some (_, k, p) =>
      if !(k.le (s.stack stk).applied) ∨ !s.serviceReady stk then none
      else some (c, q, if s.mem.readN (c.down + 64 * c.n + 8 * i) 8 = q then some (s.mem.readList (c.down + 64 * i) 64) else none, k, p)

/-- What the engine of a channel reads at home for the next message: the descriptor, the tag and the message (R241, R406). -/
def State.readDown (s : State) (stk ch : Nat) : State :=
  match s.downNext stk ch with
  | none => s
  | some (c, q, _) =>
    let i := q % c.n
    s.readHome (sectorsIn c.desc 64 ++ sectorsIn (c.down + 64 * c.n + 8 * i) 8 ++ sectorsIn (c.down + 64 * i) 64)

/-- The type of a message. -/
def msgType (m : List Byte) : Nat := bytesAt m 0 1

/-- `m` messages consumed: down consumed advances, and the doorbells that reach no further are used up. -/
def State.consume (s : State) (stk ch : Nat) (c : ChanView) (m : Nat) : State :=
  let q := (c.consumed + m) % 2 ^ 32
  (s.modChan stk ch fun x => { x with
    head := none, consumed := some q, doorbells := x.doorbells.filter fun d => doorbellCovers q d.1 }).channelWrite stk (bytesFrom (c.desc + 0x28) (bytesOf q 4))

/-- An up message of a type with two doublewords. -/
def upWords (ty a b : Nat) : List Byte := bytesOf ty 8 ++ bytesOf a 8 ++ bytesOf b 8 ++ List.replicate 40 0

/-- An up message handed to the engine of a channel. -/
def State.queueUp (s : State) (stk ch : Nat) (m : List Byte) : State := s.modChan stk ch fun x => { x with up := x.up ++ [m] }

/-- Messages consumed as failed. -/
def State.failDown (s : State) (stk ch : Nat) (c : ChanView) (m q reason : Nat) : State :=
  (s.consume stk ch c m).queueUp stk ch (upWords 0x81 q reason)

/-- R407: a 0x01 message is held; one that no 0x02 follows fails, as does a message of unknown type, and an entry whose tag
is not yet right waits for the next doorbell. -/
def execDownLaunchHead (stk ch : Nat) (s : State) : Host.Outcome State Fault Refusal :=
  ifUnit (isChannel stk ch) <|
  match s.downNext stk ch with
  | none => s
  | some (_, _, none, k, _) => (s.readDown stk ch).modChan stk ch fun x => { x with doorbells := x.doorbells.filter fun d => !(d.2.1 == k) }
  | some (c, q, some m, _) =>
    let t := s.readDown stk ch
    if ((s.stack stk).chans.look ch {}).head.isSome then
      (if msgType m = 2 then s else t.failDown stk ch c 1 c.consumed 16)
    else if msgType m = 1 then t.modChan stk ch fun x => { x with head := some m }
    else if 2 ≤ msgType m ∧ msgType m ≤ 5 then s
    else t.failDown stk ch c 1 q 17

/-- The launch record of a pair of messages. -/
def pairRecord (a b : List Byte) : List Word :=
  ((List.range 6).map fun i => BitVec.ofNat 64 (bytesAt a (0x10 + 8 * i) 8)) ++
  ((List.range 6).map fun i => BitVec.ofNat 64 (bytesAt b (0x10 + 8 * i) 8)) ++ List.replicate 4 0

/-- R407: a 0x02 message with the 0x01 before it enters a launch record, once the table has room. -/
def execDownLaunchTail (stk ch : Nat) (s : State) : Host.Outcome State Fault Refusal :=
  ifUnit (isChannel stk ch) <|
  match s.downNext stk ch with
  | some (c, q, some m, k, _) =>
    if msgType m ≠ 2 then s
    else
      let t := s.readDown stk ch
      match ((s.stack stk).chans.look ch {}).head with
      | none => t.failDown stk ch c 1 q 16
      | some h =>
        let ws := pairRecord h m
        match s.recFault ws false with
        | some r => t.failDown stk ch c 2 q r
        | none =>
          match freeIndex (s.stack stk).launches 256 with
          | none => s
          | some idx => (t.enterLaunch stk idx ws k (BitVec.ofNat 6 c.domain)).consume stk ch c 2
  | _ => s

/-- A message of a type, no 0x01 being held. -/
def State.downOf (s : State) (stk ch ty : Nat) : Option (ChanView × Nat × List Byte × Nat) :=
  match s.downNext stk ch with
  | some (c, q, some m, _, p) =>
    if msgType m = ty ∧ ((s.stack stk).chans.look ch {}).head.isNone then some (c, q, m, p) else none
  | _ => none

/-- R407: a 0x03 message advances a counter under the port's key. -/
def execDownCounterAdvance (stk ch : Nat) (s : State) : Host.Outcome State Fault Refusal :=
  ifUnit (isChannel stk ch) <|
  match s.downOf stk ch 3 with
  | none => s
  | some (c, q, m, p) =>
    let t := s.readDown stk ch
    let n := bytesAt m 8 8
    let amount := BitVec.ofNat 64 (bytesAt m 0x10 8)
    if 4095 < n then t.failDown stk ch c 1 q 6
    else if amount = 0 then t.consume stk ch c 1
    else if !s.portReady p then s
    else
      let (k, t) := t.takePortKey p
      (t.advanceCounter stk n amount k).consume stk ch c 1

/-- R407: a 0x04 message sets hart.event of a hart of the channel's domain that its stack holds. -/
def execDownNotify (stk ch : Nat) (s : State) : Host.Outcome State Fault Refusal :=
  ifUnit (isChannel stk ch) <|
  match s.downOf stk ch 4 with
  | none => s
  | some (c, _, m, _) =>
    let s := s.readDown stk ch
    let id := bytesAt m 8 8
    (s.signal fun h => !h.service && h.resident && h.loc == id && h.stk == stk && h.domain.toNat == c.domain).consume stk ch c 1

/-- R407, R409: a 0x05 message is answered with the counters. -/
def execDownResync (stk ch : Nat) (s : State) : Host.Outcome State Fault Refusal :=
  ifUnit (isChannel stk ch) <|
  match s.downOf stk ch 5 with
  | none => s
  | some (c, _, _, _) =>
    ((s.readDown stk ch).consume stk ch c 1).queueUp stk ch (upWords 0x82 ((c.consumed + 1) % 2 ^ 32) c.produced)

/-! ## Up (R408) -/

/-- The host port that carries a notification: this model's choice, since the manual gives no routing (R16, R408;
notes/assumptions/127.md). -/
def notifyPort (addr : Word) : Nat := Config.notifyPort addr % 2

/-- What a channel does next with its first up message, when the module is up (R447) and it can write: the message can be sent,
because it has room in its ring, or the one on its way has been applied at home and a path leads to the host port of its
notification (R16, R402). -/
def State.upNext (s : State) (stk ch : Nat) : Option (ChanView × List Byte) :=
  let x := (s.stack stk).chans.look ch {}
  match s.channel stk ch, x.up with
  | some c, m :: _ =>
    let go := match x.upKey with
      | none => decide ((c.produced + 2 ^ 32 - c.seen) % 2 ^ 32 < c.n)
      | some k => ((s.log (65408 + stk)).recs.all fun r => r.applied || !(r.key == some k)) &&
        s.reaches stk (portStack (notifyPort c.notify))
    if go && s.onNetwork && s.serviceReady stk then some (c, m) else none
  | _, _ => none

/-- R408: the message and its tag; once both are applied at home, up produced, and the notification. -/
def execUpMessage (stk ch : Nat) (s : State) : Host.Outcome State Fault Refusal :=
  ifUnit (isChannel stk ch) <|
  match s.upNext stk ch with
  | none => s
  | some (c, m) =>
    let s := s.readHome (sectorsIn c.desc 64)
    let i := c.produced % c.n
    let q := (c.produced + 1) % 2 ^ 32
    match ((s.stack stk).chans.look ch {}).upKey with
    | none =>
      (s.modChan stk ch fun x => { x with upKey := some (s.serviceKey stk) }).channelWrite stk
        (bytesFrom (c.up + 64 * i) m ++ bytesFrom (c.up + 64 * c.n + 8 * i) (bytesOf c.produced 8))
    | some _ =>
      ((s.modChan stk ch fun x => { x with up := x.up.drop 1, upKey := none, sent := some q }).channelWrite stk
        (bytesFrom (c.desc + 0x30) (bytesOf q 4))).send (.notify (notifyPort c.notify) c.notify q)

/-- R373, R408: a report goes to the report channel; a stack without one sends none. Until the module is up its reports wait
(R447). -/
def execReport (stk : Nat) (s : State) : Host.Outcome State Fault Refusal :=
  ifUnit (isStack stk) <|
  match (s.stack stk).reports with
  | [] => s
  | r :: rest =>
    if !s.onNetwork then s
    else
    let s := s.modStack stk fun t => { t with reports := rest }
    match (s.stack stk).report with
    | some ch => if (s.channel stk ch).isSome then s.queueUp stk ch r else s
    | none => s

end Sys2Proof.Machine
end

