-- ==== Sys2Proof/Machine/Net.lean ====
section
/-! DEFINITION. Writes and reads of far modules, and the transport between modules (R341, R410, R411). -/

namespace Sys2Proof.Machine

/-! ## The far end of a remote copy (R410) -/

/-- An entry lets a path at a range of its window: it is valid, has the right and holds the range, and a peer port is of its
domain (R404). -/
def State.farAllows (s : State) (stk path entry right off n : Nat) : Bool :=
  let t := s.stack stk
  let w := t.remoteWord entry 0
  remoteValid w && remoteRight w right && decide (off + n ≤ (t.remoteWord entry 3).toNat) &&
    (decide (8 ≤ path) || remoteDomain w == s.domainOf (path + 2) 0)

/-- The canonical addresses of a window's bytes, when the entry allows it and its domain owns every frame. Word 2 of the entry
is the base. -/
def State.farAddrs (s : State) (stk path entry right off n : Nat) : Option (List Nat) :=
  if s.farAllows stk path entry right off n then
    s.portAddrs (remoteDomain ((s.stack stk).remoteWord entry 0)) (((s.stack stk).remoteWord entry 2).toNat % 2 ^ 48 + off) n
  else none

/-- A far write of bytes under its key: records, or additions of whole words as home operations. -/
def State.farPut (s : State) (stk : Nat) (path : Nat) (src : Nat × Nat) (add : Bool) (bs : List (Nat × Byte)) : Key × State :=
  let k := s.sourceKey stk src.1 src.2
  let s := s.takeSourceKey stk src.1 src.2
  let origin := Origin.port (sourceOf stk src.1 src.2)
  (k,
    if add then
      let els : List HomeEl := (List.range (bs.length / 8)).map fun i =>
        { idx := noReply + i, addr := (bs.getD (8 * i) (0, 0)).1, size := 8, fn := .add
          y := BitVec.ofNat 64 (bytesAt (bs.map Prod.snd) (8 * i) 8) }
      s.deliver (els.map fun e => (homeOf e.addr, { key := k, sub := e.idx, body := .op noReply [e], origin := origin }))
    else if src.1 = 57 then s.publishRecords (portLog (path + 2)) k (recordsFor bs)
    else s.deliver ((recordsFor bs).map fun r => (homeOf r.1, { key := k, body := .record r.1 r.2.1 r.2.2, origin := origin })))

/-- An incoming write of an entry's window: whether it adds, and its bytes with their addresses; none when it is refused. -/
def State.farWrite (s : State) (stk path entry off : Nat) (add : Bool) (bytes : List Byte) : Option (Bool × List (Nat × Byte)) :=
  let adds := add && remoteRight ((s.stack stk).remoteWord entry 0) 2 && bytes.length % 8 == 0
  (s.farAddrs stk path entry (if adds then 2 else 0) off bytes.length).map fun as => (adds, as.zip bytes)

/-- The number that no path has: a write that has no answer. -/
def noPath : Nat := 2 ^ 64

/-- A far write taken, once its source can give a key; the far module hears of it when it is applied. -/
def State.takePut (s : State) (stk path serial chunk : Nat) (add : Bool) (bs : List (Nat × Byte)) : State :=
  let (k, s) := s.farPut stk path (pathSource path) add bs
  if path = noPath then s
  else { s with farPuts := s.farPuts ++ [{ path := path, serial := serial, chunk := chunk, stk := stk, keys := [k],
                                              homes := (bs.map fun x => homeOf x.1).eraseDups }] }

/-- The source of a path's writes can give a key on this tick. -/
def State.pathReady (s : State) (stk path : Nat) : Bool := s.sourceReady stk (pathSource path).1 (pathSource path).2

/-- A put that waits has the same source as those of a path. -/
def State.putWaits (s : State) (stk path : Nat) : Bool :=
  (s.stack stk).arrivals.any fun a => match a with
    | .write p _ => decide (path < 8) && p == path + 2
    | .put q .. => pathSource q == pathSource path
    | .answer .. | .reply .. | .sector .. => false

/-- A far write taken, or kept until its source can give a key. -/
def State.arrivePut (s : State) (stk path serial chunk : Nat) (add : Bool) (bs : List (Nat × Byte)) : State :=
  if s.pathReady stk path && !s.putWaits stk path then s.takePut stk path serial chunk add bs
  else s.keepArrival stk (.put path serial chunk add bs)

/-- R410: an incoming remote write of an entry's window. -/
def execRemoteWrite (stk entry off : Nat) (add : Bool) (bytes : List Byte) (s : State) : Host.Outcome State Fault Refusal :=
  ifUnit (isStack stk && decide (entry < 4096)) <|
  if !s.onNetwork then s
  else match s.farWrite stk noPath entry off add bytes with
  | some (adds, bs) => s.arrivePut stk noPath 0 0 adds bs
  | none => s

/-! ## The transport (R411) -/

/-- An answer of a far module, kept while a locked row holds a table entry that its translation reads or no way leads to its core,
behind those to the same copy. -/
def State.arriveAnswer (s : State) (stk serial chunk : Nat) (flag : Option (BitVec 6)) (bytes : List Byte) : State :=
  let earlier := (s.stack stk).arrivals.any fun a => match a with
    | .answer n .. => n == serial
    | _ => false
  let kept := s.keepArrival stk (.answer serial chunk flag bytes)
  if earlier then kept else (s.remoteAnswer serial chunk flag bytes).getD kept

/-- The pieces of a put that have arrived, with one more; all of its bytes once they are here. -/
def State.gatherPut (s : State) (path : Nat) (p : Packet) : Option (List Byte) × State :=
  let mine (f : FarPart) : Bool := f.path == path && f.serial == p.serial && f.chunk == p.chunk
  let got := (match s.farParts.find? mine with | some f => f.bytes | none => []) ++ p.bytes
  let rest := s.farParts.filter fun f => !mine f
  if got.length < p.len then
    (none, { s with farParts := rest ++ [{ path := path, serial := p.serial, chunk := p.chunk, bytes := got }] })
  else (some (got.take p.len), { s with farParts := rest })

/-- A packet that arrives on a path: an answer to a copy of this module, a read of a window, or a piece of a put, which is
written or refused as a whole; one that a peer port refuses is counted (R405). -/
def State.deliverPacket (s : State) (path : Nat) (p : Packet) : State :=
  let stk := pathStack path
  let refuse (s : State) : State := s.sendPacket path { kind := .refused, serial := p.serial, chunk := p.chunk : Packet }
  match p.kind with
  | .done => s.arriveAnswer stk p.serial p.chunk none []
  | .data => s.arriveAnswer stk p.serial p.chunk none p.bytes
  | .refused => s.arriveAnswer stk p.serial p.chunk (some cfRemote) []
  | .poisoned => s.arriveAnswer stk p.serial p.chunk (some cfMemerr) []
  | .get =>
    (match s.farAddrs stk path p.entry 1 p.off p.len with
    | none => refuse s
    | some _ => s.outsideRead (.far path p.serial p.chunk) (((s.stack stk).remoteWord p.entry 2).toNat % 2 ^ 48 + p.off) p.len)
  | _ =>
    match s.gatherPut path p with
    | (none, s) => s
    | (some bytes, s) =>
      match s.farWrite stk path p.entry p.off (p.kind == .putWords) bytes with
      | none => refuse (if path < 8 then s.count stk 0x08 1 else s)
      | some (adds, bs) => s.arrivePut stk path p.serial p.chunk adds bs

/-- A transaction of a far module through a peer port (R411). -/
def State.peerPacket (s : State) (port : Nat) (bytes : List Byte) : State :=
  if !s.onNetwork || decide (8 ≤ port) then s
  else match packetOf bytes with
    | some p => s.deliverPacket port p
    | none => s

/-- What waits at a stack, in order, as far as its sources can give keys on this tick. -/
def State.serveArrivals (s : State) (stk : Nat) : State :=
  let as := (s.stack stk).arrivals
  as.foldl (fun s a => match a with
    | .write p bs => if s.portReady p && !s.writeWaits p then s.publishWrite p bs else s.keepArrival stk a
    | .put path serial chunk add bs => s.arrivePut stk path serial chunk add bs
    | .sector id sec d bad => s.sendSector stk id sec d bad
    | .answer serial chunk flag bs => s.arriveAnswer stk serial chunk flag bs
    | .reply ctx idx x => s.reply stk ctx idx x)
    (s.modStack stk fun t => { t with arrivals := [] })

/-- No record of a far put is left to apply. -/
def State.farApplied (s : State) (f : FarPut) : Bool :=
  let mine (e : MEntry) : Bool := f.keys.contains e.key
  s.stackTab.all fun t => (t.2.mq.all fun e => !mine e) && (t.2.inbound.all fun e => !mine e) &&
    (t.2.refused.all fun e => !mine e.2) && t.2.deferred.all fun d => match d with | .entry e => !mine e | _ => true

/-- Far puts that are applied, as their homes can report (R402), are reported to their module (R341). -/
def State.reportPuts (s : State) : State :=
  let told (f : FarPut) : Bool := s.farApplied f && f.homes.all fun k => s.reaches k f.stk
  let done := s.farPuts.filter told
  done.foldl (fun s f => s.sendPacket f.path { kind := .done, serial := f.serial, chunk := f.chunk : Packet })
    { s with farPuts := s.farPuts.filter fun f => !told f }

/-- R411: a frame arrives. Its acknowledgement frees the frames below it; its bytes are delivered once, in order, and
acknowledged. -/
def execEthernetFrame (peer seq : Nat) (ack : Nat) (bytes : List Byte) (s : State) : Host.Outcome State Fault Refusal :=
  .next <|
  if !s.onNetwork || (s.conn peer).failed then s
  else
    let now := (s.time (pathStack peer)).toNat
    let s := s.modConn peer fun c =>
      { c with unacked := c.unacked.filter fun f => decide (ack ≤ f.1)
               lastAck := if c.acked < ack then now else c.lastAck, acked := Nat.max c.acked ack }
    let c := s.conn peer
    let port := etherPort peer
    if bytes.isEmpty then s
    else if seq ≠ c.received then s.send (.frame port peer c.sent c.received [])
    else
      let s := s.modConn peer fun c => { c with received := c.received + 1 }
      let s := match packetOf bytes with
        | some p => s.deliverPacket peer p
        | none => s
      s.send (.frame port peer (s.conn peer).sent (s.conn peer).received [])

/-- Frames that have not been acknowledged within 6,000 ticks. -/
def Conn.stale (c : Conn) (now : Nat) : List (Nat × Nat × List Byte) := c.unacked.filter fun f => decide (f.2.1 + 6000 ≤ now)

/-- R411: they are sent again. -/
def execFrameResend (peer : Nat) (s : State) : Host.Outcome State Fault Refusal :=
  let now := (s.time (pathStack peer)).toNat
  let c := s.conn peer
  let old := c.stale now
  .next <|
  if c.failed || !s.onNetwork then s
  else old.foldl (fun s f => s.send (.frame (etherPort peer) peer f.1 c.received f.2.2)) <|
    s.modConn peer fun c => { c with unacked := c.unacked.map fun f => if f.2.1 + 6000 ≤ now then (f.1, now, f.2.2) else f }

/-- A connection with frames outstanding that has received no acknowledgement for 600,000 ticks. -/
def Conn.dead (c : Conn) (now : Nat) : Bool :=
  !c.failed && !c.unacked.isEmpty && decide (c.lastAck + 600000 ≤ now)

/-- R411: the connection fails, every copy on it ends with REMOTE, and no chunk waits for an answer on it any longer. -/
def execConnectionFail (peer : Nat) (s : State) : Host.Outcome State Fault Refusal :=
  .next <|
  if (s.conn peer).failed || !s.onNetwork then s
  else
    let on := s.cores.flatMap fun e => (e.2.copies.filter fun c => c.path == peer &&
      match c.instr with | .cpye .. => true | _ => false).map fun c => (e.1, c)
    let s := s.modConn peer fun c => { c with failed := true, unacked := [] }
    let s : State := { s with farParts := s.farParts.filter fun f => f.path != peer }
    on.foldl (fun s x =>
      let s := if x.2.ended then s else s.endCopy x.1 x.2 4 cfRemote none
      s.modCopy x.1 x.2.serial fun c => { c with fly := c.fly.filter fun f => !f.remote }) s

end Sys2Proof.Machine
end

