-- ==== Sys2Proof/Machine/Links.lean ====
section
/-! DEFINITION. The link modules of the mesh edges: registers (R401), link service (R402), the injector (R403), and their
steps. -/

namespace Sys2Proof.Machine

/-! ## Edges -/

/-- The stack beyond an edge: codes 0 to 3 for column + 1, column − 1, row + 1, row − 1; none where there is no neighbour
(R6, R401). -/
def neighbour (stk edge : Nat) : Option Nat :=
  let row := stk / 6
  let col := stk % 6
  match edge with
  | 0 => if col < 5 then some (stk + 1) else none
  | 1 => if 0 < col then some (stk - 1) else none
  | 2 => if row < 3 then some (stk + 6) else none
  | _ => if 0 < row then some (stk - 6) else none

/-- Hops of a minimal path (R6). -/
def hops (a b : Nat) : Nat :=
  ((a % 6 - b % 6) + (b % 6 - a % 6)) + ((a / 6 - b / 6) + (b / 6 - a / 6))

/-- A link module of a stack. -/
def Stack.link (t : Stack) (edge m : Nat) : Link := t.links.look (8 * edge + m) {}

/-- The module that LKCTL selects: edge, module. -/
def Stack.selected (t : Stack) : Nat × Nat := (t.lkctl.toNat / 1024 % 4, t.lkctl.toNat / 4096 % 8)

/-- The retry threshold of LKCTL. -/
def Stack.threshold (t : Stack) : Nat := t.lkctl.toNat / 2 ^ 32

/-- A link module changed. -/
def State.modLink (s : State) (stk edge m : Nat) (f : Link → Link) : State :=
  s.modStack stk fun t => { t with links := t.links.put (8 * edge + m) (f (t.link edge m)) }

/-- LKRETRY. -/
def Link.retryWord (l : Link) : Word := l.crc.setWidth 64 <<< 32 ||| l.retries.setWidth 64

/-- A link event (R402). -/
def State.linkEvent (s : State) (stk edge m old : Nat) : State :=
  let l := (s.stack stk).link edge m
  s.pfb stk 0x11 62 0 0 0
    (BitVec.ofNat 64 (edge + 4 * m + 32 * old + 256 * l.state + 2048 * (if l.threshold then 1 else 0))) l.retryWord

/-- A change of state with its event; an edge whose eight modules have all failed cannot be restored (R397, R402). -/
def State.linkState (s : State) (stk edge m new : Nat) : State :=
  let old := ((s.stack stk).link edge m).state
  if old = new then s
  else
    let s := (s.modLink stk edge m fun l => { l with state := new }).linkEvent stk edge m old
    if (List.range 8).all fun k => ((s.stack stk).link edge k).state == 5 then s.freeze stk 2 0 true else s

/-- Data lanes that a width uses (R401). -/
def widthLanes (w : Nat) : Word :=
  match w with
  | 1 => 0x00000000FFFFFFFF
  | 2 => 0xFFFFFFFF00000000
  | _ => BitVec.allOnes 64

/-- Ticks that a retraining takes: the most that it may (R402). -/
def retrainTicks : Nat := 6000

/-- A retraining begun from state 2 or 3: the module fails when more lanes are marked than there are spares, and otherwise
takes up LKMAP and the target width (R402). -/
def State.startRetrain (s : State) (stk edge m : Nat) : State :=
  let l := (s.stack stk).link edge m
  if l.state ≠ 2 ∧ l.state ≠ 3 then s
  else
    let lost := popc (l.map &&& widthLanes l.target)
    if 4 < lost then (s.modLink stk edge m fun l => { l with retrain := false }).linkState stk edge m 5
    else (s.modLink stk edge m fun l =>
      { l with retrain := true, spares := lost, current := l.target
               done := (s.time stk).toNat + retrainTicks }).linkState stk edge m 4

/-- Counters of LKRETRY cleared. -/
def State.clearRetry (s : State) (stk edge m : Nat) : State := s.modLink stk edge m fun l => { l with crc := 0, retries := 0 }

/-- LKINJ written; the count starts from this write (R403). -/
def State.armInjector (s : State) (stk edge m : Nat) (v : Word) : State :=
  s.modLink stk edge m fun l => { l with inject := v &&& 0xFFFFFFFFFFFF0001, flits := 0 }

/-- Pause ended: the module carries traffic again. -/
def State.unpause (s : State) (stk edge m : Nat) : State :=
  let s := s.modLink stk edge m fun l => { l with pause := false }
  if ((s.stack stk).link edge m).state = 3 then s.linkState stk edge m 2 else s

/-! ## Link registers -/

/-- A link register of the selected module; an edge without a neighbour has none. -/
def State.linkRead (s : State) (stk n : Nat) : Word :=
  let t := s.stack stk
  let (e, m) := t.selected
  let l := t.link e m
  let there := (neighbour stk e).isSome
  match n with
  | 0 => if there then BitVec.ofNat 64 (l.spares * 16 + (if l.threshold then 8 else 0) + l.state) else 0
  | 1 => l.retryWord
  | 2 => l.map
  | 3 => BitVec.ofNat 64 (l.target * 4 + l.current)
  | 4 => t.lkctl ||| BitVec.ofNat 64 ((if l.retrain then 2 else 0) + (if l.pause then 1 else 0))
  | _ => l.inject

/-- LKCTL written: the selection and the threshold, then clear, pause and retrain on the module selected now. -/
def State.writeLkctl (s : State) (stk : Nat) (v : Word) : State :=
  let s := s.modStack stk fun t => { t with lkctl := v &&& 0xFFFFFFFF00007C00 }
  let (e, m) := (s.stack stk).selected
  if (neighbour stk e).isNone then s
  else
    let s := if v.getLsbD 2 then s.clearRetry stk e m else s
    let s := if v.getLsbD 0 then s.modLink stk e m (fun l => { l with pause := true }) else s.unpause stk e m
    if v.getLsbD 1 then s.startRetrain stk e m else s

/-- A link register written. -/
def State.linkWrite (s : State) (stk n : Nat) (v : Word) : State :=
  let (e, m) := (s.stack stk).selected
  if n = 4 then s.writeLkctl stk v
  else if (neighbour stk e).isNone then s
  else match n with
    | 2 => s.modLink stk e m fun l => { l with map := v }
    | 3 => s.modLink stk e m fun l => { l with target := v.toNat / 4 % 4 }
    | 5 => s.armInjector stk e m v
    | _ => s

/-! ## Steps -/

/-- The names of a step on a link module are those of one that exists. -/
def linkUnit (stk edge m : Nat) : Bool :=
  decide (stk < Config.stackCount) && decide (edge < 4) && decide (m < 8) && (neighbour stk edge).isSome

/-- Saturating count. -/
def satInc (x : BitVec 32) : BitVec 32 := if x = BitVec.allOnes 32 then x else x + 1

/-- A flit replayed, after a CRC failure or without an acknowledgement (R400); the rise of the threshold bit is an
event. -/
def State.countReplay (s : State) (stk edge m : Nat) (crc : Bool) : State :=
  let th := (s.stack stk).threshold
  let l := (s.stack stk).link edge m
  let rise := !l.threshold && decide (th ≠ 0) && decide (th < l.window + 1)
  let s := s.modLink stk edge m fun l =>
    { l with crc := if crc then satInc l.crc else l.crc, retries := satInc l.retries, window := l.window + 1
             threshold := l.threshold || rise }
  if rise then s.linkEvent stk edge m l.state else s

/-- R400. -/
def execFlitReplay (stk edge m : Nat) (crc : Bool) (s : State) : Host.Outcome State Fault Refusal :=
  ifUnit (linkUnit stk edge m) (s.countReplay stk edge m crc)

/-- R402: an active module with pause set has replayed its flits. -/
def execLinkPause (stk edge m : Nat) (s : State) : Host.Outcome State Fault Refusal :=
  let l := (s.stack stk).link edge m
  ifUnit (linkUnit stk edge m) (if l.pause && l.state == 2 then s.linkState stk edge m 3 else s)

/-- R402. -/
def execLinkUnpause (stk edge m : Nat) (s : State) : Host.Outcome State Fault Refusal :=
  ifUnit (linkUnit stk edge m) (s.unpause stk edge m)

/-- R402. -/
def execLinkRetrain (stk edge m : Nat) (s : State) : Host.Outcome State Fault Refusal :=
  ifUnit (linkUnit stk edge m) (s.startRetrain stk edge m)

/-- R402: retraining, or the training after a reset, ends. -/
def execLinkRetrainEnd (stk edge m : Nat) (s : State) : Host.Outcome State Fault Refusal :=
  let l := (s.stack stk).link edge m
  ifUnit (linkUnit stk edge m)
    (if l.state = 4 ∨ l.state = 1 then
      (s.modLink stk edge m fun l => { l with retrain := false }).linkState stk edge m (if l.pause then 3 else 2)
    else s)

/-- R401. -/
def execLinkClearRetry (stk edge m : Nat) (s : State) : Host.Outcome State Fault Refusal :=
  ifUnit (linkUnit stk edge m) (s.clearRetry stk edge m)

/-- R403. -/
def execLinkInjectArm (stk edge m : Nat) (v : Word) (s : State) : Host.Outcome State Fault Refusal :=
  ifUnit (linkUnit stk edge m) (s.armInjector stk edge m v)

/-- A flit sent by a module whose injector is armed: at the Nth it acts, clears armed and writes an event; a corrupted or
dropped flit is replayed (R403). -/
def State.injectFlit (s : State) (stk edge m : Nat) : State :=
  let l := (s.stack stk).link edge m
  let n := l.inject.toNat / 2 ^ 32
  let act := l.inject.toNat / 2 ^ 30 % 4
  if !l.inject.getLsbD 0 || l.state ≠ 2 then s
  else if l.flits + 1 ≠ n then s.modLink stk edge m fun l => { l with flits := l.flits + 1 }
  else
    let s := s.modLink stk edge m fun l => { l with inject := l.inject &&& ~~~1, flits := l.flits + 1 }
    let s := if act = 1 then s.countReplay stk edge m true else if act = 2 then s.countReplay stk edge m false else s
    s.linkEvent stk edge m l.state

/-- R403. -/
def execLinkInjectFire (stk edge m : Nat) (s : State) : Host.Outcome State Fault Refusal :=
  ifUnit (linkUnit stk edge m) (s.injectFlit stk edge m)

/-- R401: the end of a 65,536-tick window. -/
def execLinkWindowEnd (stk edge m : Nat) (s : State) : Host.Outcome State Fault Refusal :=
  ifUnit (linkUnit stk edge m) (s.modLink stk edge m fun l => { l with window := 0, threshold := false })

end Sys2Proof.Machine
end

