-- ==== Sys2Proof/Machine/Csr.lean ====
section
/-! DEFINITION. The control registers by number and the CSR instructions (R211 to R213). -/

namespace Sys2Proof.Machine

/-! ## The map (R211) -/

/-- Control registers of a compute hart. -/
def computeCsr (n : Nat) : Bool :=
  decide (n ≤ 0x00D) || (decide (0x010 ≤ n) && decide (n ≤ 0x014)) || (decide (0x018 ≤ n) && decide (n ≤ 0x01D)) ||
  decide (n = 0x020) || (decide (0x100 ≤ n) && decide (n ≤ 0x104)) || (decide (0x108 ≤ n) && decide (n ≤ 0x10C)) ||
  decide (n = 0x110) || (decide (0x200 ≤ n) && decide (n ≤ 0x202))

/-- Control registers of a service core. -/
def serviceCsr (n : Nat) : Bool :=
  decide (n = 0x01C) || decide (n = 0x01D) || decide (n = 0x020) || (decide (0x100 ≤ n) && decide (n ≤ 0x104)) ||
  (decide (0x108 ≤ n) && decide (n ≤ 0x10C)) || decide (n = 0x110) || decide (n = 0x202) ||
  (decide (0x400 ≤ n) && decide (n ≤ 0x405))

/-- The selected context has the register. -/
def State.hasCsr (s : State) (n : Nat) : Bool := if s.hart.service then serviceCsr n else computeCsr n

/-- Registers that CSR instructions write. -/
def csrWritable (n : Nat) : Bool :=
  decide (n ≤ 0x003) || decide (n = 0x005) || decide (n = 0x00D) || (decide (0x100 ≤ n) && decide (n ≤ 0x104)) ||
  (decide (0x108 ≤ n) && decide (n ≤ 0x10C)) || (decide (0x402 ≤ n) && decide (n ≤ 0x405))

/-! ## Reads -/

/-- LGRANT (R127). -/
def Regs.lgrant (r : Regs) : Word := BitVec.ofNat 64 ((Nat.log2 (popc r.grant) + 1) * 65536 + r.grant.toNat)

/-- GANGID (R369). -/
def Hart.gangId (h : Hart) : Word :=
  BitVec.ofNat 64 (h.gangRank.toNat * 2 ^ 22 + h.gangSize.toNat * 2 ^ 15 + h.stk * 2 ^ 10 + (if h.inGang then h.gangIdx.toNat else 0))

/-- GBAR (R391). -/
def State.gbar (s : State) : Word :=
  if s.hart.inGang then
    BitVec.ofNat 64 ((s.gang s.hart.gangKey).epoch.toNat * 2 ^ 32 + (s.gang s.hart.gangKey).arrivals % 128)
  else 0

/-- STKID (R10). -/
def stkId (k : Nat) : Word := BitVec.ofNat 64 (k * 32 + k / 6 * 8 + k % 6)

/-- A register of a trap bank (R203). -/
def TrapBank.get (b : TrapBank) : Nat → Word
  | 0 => b.epc
  | 1 => b.cause.setWidth 64
  | 2 => b.val
  | 3 => b.stat.setWidth 64
  | _ => b.scr

/-- A register of a trap bank written; reserved fields ignore the write. -/
def TrapBank.set (b : TrapBank) (x : Word) : Nat → TrapBank
  | 0 => { b with epc := x }
  | 1 => { b with cause := x.setWidth 7 }
  | 2 => { b with val := x }
  | 3 => { b with stat := x.setWidth 5 &&& 0x17 }
  | _ => { b with scr := x }

/-- Registers 0x000 to 0x00D. -/
def State.arithCsr (s : State) (n : Nat) : Word :=
  let r := s.hart.regs
  match n with
  | 0x000 => r.fpctl.setWidth 64
  | 0x001 => r.fpstat.setWidth 64
  | 0x002 => r.rngs
  | 0x003 => r.splim.setWidth 64
  | 0x004 => r.sdmDirty.setWidth 64
  | 0x005 => r.ftrim.setWidth 64
  | 0x006 => BitVec.ofNat 64 r.vlen
  | 0x007 => r.lgrant
  | 0x008 => BitVec.ofNat 64 r.tshm
  | 0x009 => BitVec.ofNat 64 r.tshn
  | 0x00A => BitVec.ofNat 64 r.tshk
  | 0x00B => r.mxpcmd
  | 0x00C => BitVec.ofNat 64 (524288 * (s.gang s.hart.gangKey).grant)
  | _ => r.bstride.setWidth 64

/-- Registers 0x010 to 0x020: of the log, the launch, the gang, the place and TIME. -/
def State.identCsr (s : State) (n : Nat) : Word :=
  let h := s.hart
  let l := s.log h.key
  match n with
  | 0x010 => BitVec.ofNat 64 h.key
  | 0x011 => BitVec.ofNat 64 (l.wt % 2 ^ 48)
  | 0x012 => BitVec.ofNat 64 (l.pt % 2 ^ 48)
  | 0x013 => l.fpc.setWidth 64
  | 0x014 => h.logsz.setWidth 64
  | 0x018 => h.usemask
  | 0x019 => h.domain.setWidth 64
  | 0x01A => h.gangId
  | 0x01B => s.gbar
  | 0x01C => h.hartid
  | 0x01D => stkId h.stk
  | _ => s.now

/-- A control register of the selected context. -/
def State.csrRead (s : State) (n : Nat) : Word :=
  let h := s.hart
  if n < 0x010 then s.arithCsr n
  else if n ≤ 0x020 then s.identCsr n
  else if n < 0x108 then h.trap1.get (n - 0x100)
  else if n < 0x110 then h.trap2.get (n - 0x108)
  else if n = 0x110 then BitVec.ofNat 64 h.tlevel
  else if n = 0x200 then (s.core h.core).capmask
  else if n = 0x201 then (s.core h.core).chkmisc.setWidth 64
  else if n = 0x202 then (s.core h.core).tvec
  else s.linkRead h.stk (n - 0x400)

/-! ## Writes -/

/-- A control register of the registers' part written: reserved fields ignore the write, and zero in RNGS becomes the
seed of R54. -/
def Regs.setCsr (r : Regs) (n : Nat) (x : Word) : Regs :=
  match n with
  | 0x000 => { r with fpctl := x.setWidth 5 }
  | 0x001 => { r with fpstat := x.setWidth 6 }
  | 0x002 => { r with rngs := if x = 0 then Config.rngSeed else x }
  | 0x003 => { r with splim := x.setWidth 17 }
  | 0x005 => { r with ftrim := x.setWidth 16 }
  | _ => { r with bstride := x.setWidth 8 }

/-- A control register of the selected context written. -/
def State.csrWrite (s : State) (n : Nat) (x : Word) : State :=
  if n < 0x010 then s.modRegs fun r => r.setCsr n x
  else if n < 0x108 then s.modHart fun h => { h with trap1 := h.trap1.set x (n - 0x100) }
  else if n < 0x110 then s.modHart fun h => { h with trap2 := h.trap2.set x (n - 0x108) }
  else s.linkWrite s.hart.stk (n - 0x400) x

/-! ## Instructions (R212, R213) -/

/-- A CSR instruction: sd takes the old value, and the register takes `new` of it unless that is none. -/
def csrWord (s : State) (i : Instr) (sd : SReg) (csr : BitVec 15) (writes : Bool) (new : State → Word → Option Word) :
    Host.Outcome State Fault Refusal :=
  let n := csr.toNat
  word s i (fun s =>
    let old := s.csrRead n
    if s.belowLimit sd old then .trap 0x1B old
    else
      let s := match new s old with
        | some x => s.csrWrite n x
        | none => s
      .ok (s.ws sd old).next) (s.hasCsr n && (!writes || csrWritable n))

/-- R212. -/
def execCsrr (sd : SReg) (csr : BitVec 15) (s : State) : Host.Outcome State Fault Refusal :=
  csrWord s (.csrr sd csr) sd csr false fun _ _ => none

/-- R212. -/
def execCsrw (sd : SReg) (csr : BitVec 15) (sa : SReg) (s : State) : Host.Outcome State Fault Refusal :=
  csrWord s (.csrw sd csr sa) sd csr true fun s _ => some (s.rs sa)

/-- R212. -/
def execCsrs (sd : SReg) (csr : BitVec 15) (sa : SReg) (s : State) : Host.Outcome State Fault Refusal :=
  csrWord s (.csrs sd csr sa) sd csr (!(sa == 0)) fun s old => if sa = 0 then none else some (old ||| s.rs sa)

/-- R212. -/
def execCsrc (sd : SReg) (csr : BitVec 15) (sa : SReg) (s : State) : Host.Outcome State Fault Refusal :=
  csrWord s (.csrc sd csr sa) sd csr (!(sa == 0)) fun s old => if sa = 0 then none else some (old &&& ~~~(s.rs sa))

end Sys2Proof.Machine
end

