-- ==== Sys2Proof/Machine/VecFn.lean ====
section
/-! DEFINITION. Reciprocal square root and the transcendental functions (R146, R148) as exact numbers: their values are
computed in fixed point with hundreds of bits below any bit that a rounding looks at. -/

namespace Sys2Proof.Machine

/-- The reciprocal square root (R148). -/
def FNum.rsqrt (x : FNum) : FNum × FpFlags :=
  match x with
  | .nan b => (.nan false, flagIf b flagNV)
  | .inf n => if n then (.nan false, flagNV) else (.fin false 0 0 false, 0)
  | .fin n m e _ =>
    if m = 0 then (.inf n, flagDZ)
    else if n then (.nan false, flagNV)
    else
      let odd := (e % 2).toNat
      let a := m * 2 ^ odd
      let k := divBits + Nat.log2 a
      let r := isqrt (2 ^ (2 * k) / a) 0 (k + 1)
      (.fin false r (-(k : Int) - (e - odd) / 2) (decide (r * r * a ≠ 2 ^ (2 * k))), 0)

/-- ln 2 × 2^640. -/
def ln2At640 : Nat := 3162442850577000144542819255265044123884198300717798677536341180773118696995660441338367561063358767323571958122307070903190084685977847936741854327993944726832264493303953239866611699627604094

/-- The fixed-point one. -/
def one640 : Nat := 2 ^ 640

/-- The sum of x^j / j! from the term `t` = x^k / k! on, in units of 2^−640. -/
def expSeries (x t k : Nat) : Nat → Nat
  | 0 => 0
  | n + 1 => t + expSeries x (t * x / one640 / (k + 1)) (k + 1) n

/-- e^x for x in [0, 1), in units of 2^−640. -/
def expFix (x : Nat) : Nat := expSeries x one640 0 140

/-- The sum of z^(2 j + 1) / (2 j + 1) from the term with power `p` = z^(2k + 1) on. -/
def atanhSeries (z2 p k : Nat) : Nat → Nat
  | 0 => 0
  | n + 1 => p / (2 * k + 1) + atanhSeries z2 (p * z2 / one640) (k + 1) n

/-- log2 of x in [1, 2), x in units of 2^−640: ln x = 2 atanh ((x − 1) / (x + 1)). -/
def log2Fix (x : Nat) : Nat :=
  let z := (x - one640) * one640 / (x + one640)
  2 * atanhSeries (z * z / one640) z 0 210 * one640 / ln2At640

/-- 2^x (R148). -/
def FNum.exp2 (x : FNum) : FNum × FpFlags :=
  match x with
  | .nan b => (.nan false, flagIf b flagNV)
  | .inf n => (if n then .fin false 0 0 false else .inf false, 0)
  | .fin n m e _ =>
    if m = 0 then (.fin false 1 0 false, 0)
    else if 0 ≤ e + (Nat.log2 m : Int) - 12 then
      (.fin false 1 (if n then -4096 else 4096) true, 0)
    else
      let a : Nat := if 0 ≤ e + 640 then m * 2 ^ (e + 640).toNat else 0
      let v : Int := if n then -(a : Int) else a
      let i := v / (one640 : Nat)
      let f := (v % (one640 : Nat)).toNat
      if f = 0 then (.fin false 1 i false, 0)
      else (.fin false (expFix (f * ln2At640 / one640) / 2 ^ 320) (i - 320) true, 0)

/-- log2 x (R148). -/
def FNum.log2 (x : FNum) : FNum × FpFlags :=
  match x with
  | .nan b => (.nan false, flagIf b flagNV)
  | .inf n => if n then (.nan false, flagNV) else (.inf false, 0)
  | .fin n m e _ =>
    if m = 0 then (.inf true, flagDZ)
    else if n then (.nan false, flagNV)
    else
      let k := Nat.log2 m
      let i : Int := e + k
      if m = 2 ^ k then ((FNum.ofInt i), 0)
      else
        let v : Int := i * (2 ^ 320 : Nat) + (log2Fix (m * 2 ^ (640 - k)) / 2 ^ 320 : Nat)
        (if 0 ≤ v then .fin false v.toNat (-320) true else .fin true (-(v + 1)).toNat (-320) true, 0)

/-- tanh x (R148): (1 − t) / (1 + t) with t = e^(−2 |x|); far from 0 and close to it, the bounds of x and of ±1. -/
def FNum.tanh (x : FNum) : FNum × FpFlags :=
  match x with
  | .nan b => (.nan false, flagIf b flagNV)
  | .inf n => (.fin n 1 0 false, 0)
  | .fin n m e _ =>
    if m = 0 then (.fin n 0 0 false, 0)
    else
      let top := e + (Nat.log2 m : Int)
      if 7 ≤ top then (.fin n (2 ^ 320 - 1) (-320) true, 0)
      else if top < -115 then (.fin n (m * 2 ^ 200 - 1) (e - 200) true, 0)
      else
        let y := 2 * (m * 2 ^ (e + 640).toNat)
        let i := y / ln2At640
        let t := one640 * one640 / expFix (y % ln2At640) / 2 ^ i
        (.fin n ((one640 - t) * one640 / (one640 + t) / 2 ^ 120) (-520) true, 0)

end Sys2Proof.Machine
end

