-- ==== Sys2Proof/Machine/VecArith.lean ====
section
/-! DEFINITION. Vector arithmetic members (R141 to R162). -/

namespace Sys2Proof.Machine

/-! ## The common frame (R142 to R144) -/

/-- What the members of a convoy read of FPCTL. -/
def State.ctl (s : State) : FpCtl := fpCtl s.hart.regs.fpctl

/-- The tag of operand b: that of vb, or that of va in the vs form. -/
def State.opbTag (s : State) (ta : Tag) (b : VB) : Tag :=
  match b with
  | .v r => (s.src.rv r).tag
  | .s _ => ta

/-- The bits of operand b for element `e`, under its tag. -/
def State.opbBits (s : State) (ta : Tag) (b : VB) (e : Nat) : Nat :=
  match b with
  | .v r => (s.src.rv r).elem s.hart.lanes (tagWidth (s.src.rv r).tag) e
  | .s ss => (s.src.rs ss).toNat % 2 ^ tagWidth ta

/-- TVAL's code for operand b: 0x1F in the vs form (R60). -/
def State.opbCode (s : State) (b : VB) : Nat :=
  match b with
  | .v r => tagCode (s.src.rv r).tag
  | .s _ => 0x1F

/-- The registers a member reads as elements with their tags, in the order of va, vb, vc. -/
def State.readsOf (s : State) (va : VReg) (b : VB) (c : Option VReg) : List (VReg × Tag) :=
  (va :: (b.regs ++ c.toList)).map fun r => (r, (s.src.rv r).tag)

/-- The checks after the tags (R99 stage 2, steps 3 to 6, to the registers), for a result of tag `t`; then `k` with the
rounding mode and the active elements. -/
def stage2 (s : State) (g : Gov) (reads : List (VReg × Tag)) (vd : VReg) (t : Tag) (rounds : Bool) (r : Rnd)
    (k : Rnd → List Nat → Res State) : Res State :=
  formats s (reads.map Prod.snd ++ [t]) <|
  withMode s rounds r fun m =>
  lengths s (reads.map (fun x => (x.1, tagWidth x.2)) ++ [(vd, tagWidth t)]) <|
  parity s (reads.map Prod.fst) <|
  k m (s.actives g (tagWidth t :: reads.map fun x => tagWidth x.2))

/-- The elements computed under the checking lanes and written with their tag; `f` takes an element and its draw. -/
def State.finishV (s : State) (g : Gov) (vd : VReg) (t : Tag) (cls : Nat) (act : List Nat) (draws : Bool)
    (f : Nat → Nat → Nat × FpFlags) (scale : VRegS → BitVec 4096 := keepScales) : Res State :=
  checkedBy s cls act fun s fix =>
    let x := runElems draws f act s.hart.regs.rngs
    let s := (s.raise x.2.1).modRegs fun r => { r with rngs := x.2.2 }
    s.writeV g vd t (x.1.map fun y => (y.1, fix (tagWidth t) y.1 y.2)) scale

/-- How a polymorphic member computes: with an integer T from exact integers, with a float T from exact numbers. -/
structure Poly where
  cls : Nat
  accepts : Tag → Bool := fun _ => true
  sat : Bool := false
  int : Tag → Int → Int → Int → Int
  num : Rnd → FNum → FNum → FNum → FNum × FpFlags
  rounds : Bool := true                -- false: the result is an operand, exactly

/-- One element of a polymorphic member. A tern code 10 that it reads sets NV, also in an integer VDIV (R48, R147;
notes/assumptions/84.md). -/
def Poly.elem (p : Poly) (ctl : FpCtl) (t : Tag) (m : Rnd) (xs : Tag × Nat) (ys : Tag × Nat) (zs : Tag × Nat) (u : Nat) :
    Nat × FpFlags :=
  if tagFloat t then
    let a := numVal ctl xs.1 xs.2
    let b := numVal ctl ys.1 ys.2
    let c := numVal ctl zs.1 zs.2
    let r := p.num m a.1 b.1 c.1
    let e := if p.rounds then encNum ctl t r.1 m u else (encExact t r.1, 0)
    (e.1, a.2 ||| b.2 ||| c.2 ||| r.2 ||| e.2)
  else
    let a := intVal xs.1 xs.2
    let b := intVal ys.1 ys.2
    let c := intVal zs.1 zs.2
    let e := encInt t p.sat (p.int t a.1 b.1 c.1)
    (e.1, a.2 ||| b.2 ||| c.2 ||| e.2)

/-- A polymorphic member of two or three sources (R143). -/
def polyMember (s : State) (i : Instr) (p : Poly) (g : Gov) (vd va : VReg) (b : VB) (c : Option VReg) (r : Rnd) :
    Host.Outcome State Fault Refusal :=
  member s i fun s =>
    let ra := s.src.rv va
    let tb := s.opbTag ra.tag b
    let tc := match c with | some v => (s.src.rv v).tag | none => ra.tag
    let t := (match c with | some _ => promote3 ra.tag tb tc | none => promote ra.tag tb).filter p.accepts
    withTag s t (tagCode ra.tag) (s.opbCode b) (match c with | some _ => tagCode tc | none => 0x1F) fun t =>
    stage2 s g (s.readsOf va b c) vd t (tagFloat t && p.rounds) r fun m act =>
    let l := s.hart.lanes
    s.finishV g vd t p.cls act (tagFloat t && p.rounds && m == .sr) fun e u =>
      p.elem s.ctl t m (ra.tag, ra.elem l (tagWidth ra.tag) e) (tb, s.opbBits ra.tag b e)
        (match c with | some v => (tc, (s.src.rv v).elem l (tagWidth tc) e) | none => (.uint4, 0)) u

/-- A member of one source that computes under its tag (R146, R150). -/
def unaryMember (s : State) (i : Instr) (p : Poly) (g : Gov) (vd va : VReg) (r : Rnd) : Host.Outcome State Fault Refusal :=
  member s i fun s =>
    let ra := s.src.rv va
    withTag s (if p.accepts ra.tag then some ra.tag else none) (tagCode ra.tag) 0x1F 0x1F fun t =>
    stage2 s g [(va, t)] vd t (tagFloat t && p.rounds) r fun m act =>
    s.finishV g vd t p.cls act (tagFloat t && p.rounds && m == .sr) fun e u =>
      p.elem s.ctl t m (t, ra.elem s.hart.lanes (tagWidth t) e) (.uint4, 0) (.uint4, 0) u

/-! ## Add, subtract, multiply (R145) -/

/-- R145. -/
def execVadd (g : Gov) (vd va : VReg) (b : VB) (sat : Bool) (r : Rnd) (s : State) : Host.Outcome State Fault Refusal :=
  polyMember s (.vadd g vd va b sat r)
    { cls := 35, sat := sat, int := fun _ x y _ => x + y, num := fun m x y _ => x.add y m } g vd va b none r

/-- R145. -/
def execVsub (g : Gov) (vd va : VReg) (b : VB) (sat : Bool) (r : Rnd) (s : State) : Host.Outcome State Fault Refusal :=
  polyMember s (.vsub g vd va b sat r)
    { cls := 35, sat := sat, int := fun _ x y _ => x - y, num := fun m x y _ => x.add y.negate m } g vd va b none r

/-- R145. -/
def execVmul (g : Gov) (vd va : VReg) (b : VB) (sat : Bool) (r : Rnd) (s : State) : Host.Outcome State Fault Refusal :=
  polyMember s (.vmul g vd va b sat r)
    { cls := 36, sat := sat, int := fun _ x y _ => x * y, num := fun _ x y _ => x.mul y } g vd va b none r

/-- R145: only an integer T. -/
def execVmulh (g : Gov) (vd va : VReg) (b : VB) (s : State) : Host.Outcome State Fault Refusal :=
  polyMember s (.vmulh g vd va b)
    { cls := 36, accepts := tagInt, int := fun t x y _ => x * y / (2 ^ tagWidth t : Nat), num := fun _ x _ _ => (x, 0) }
    g vd va b none .dyn

/-- R145. -/
def execVfma (g : Gov) (vd va vb vc : VReg) (sat : Bool) (r : Rnd) (s : State) : Host.Outcome State Fault Refusal :=
  polyMember s (.vfma g vd va vb vc sat r)
    { cls := 36, sat := sat, int := fun _ x y z => x * y + z, num := fun m x y z => x.fma y z m }
    g vd va (.v vb) (some vc) r

/-- R145. -/
def execVfms (g : Gov) (vd va vb vc : VReg) (sat : Bool) (r : Rnd) (s : State) : Host.Outcome State Fault Refusal :=
  polyMember s (.vfms g vd va vb vc sat r)
    { cls := 36, sat := sat, int := fun _ x y z => x * y - z, num := fun m x y z => x.fma y z.negate m }
    g vd va (.v vb) (some vc) r

/-- R145. -/
def execVnfma (g : Gov) (vd va vb vc : VReg) (sat : Bool) (r : Rnd) (s : State) : Host.Outcome State Fault Refusal :=
  polyMember s (.vnfma g vd va vb vc sat r)
    { cls := 36, sat := sat, int := fun _ x y z => -(x * y) + z, num := fun m x y z => x.negate.fma y z m }
    g vd va (.v vb) (some vc) r

/-! ## Division, roots, functions (R146 to R148) -/

/-- fp16, bf16 and fp32. -/
def tagFn : Tag → Bool
  | .fp16 | .bf16 | .fp32 => true
  | _ => false

/-- The quotient of an integer VDIV before wrapping or clamping (R147). -/
def quotient (t : Tag) (x y : Int) : Int := if y = 0 then (if tagSigned t then -1 else tagHi t) else x.tdiv y

/-- R146, R147. -/
def execVdiv (g : Gov) (vd va : VReg) (b : VB) (sat : Bool) (r : Rnd) (s : State) : Host.Outcome State Fault Refusal :=
  polyMember s (.vdiv g vd va b sat r)
    { cls := 37, accepts := fun t => tagInt t || tagFn t || t == .fp64, sat := sat, int := fun t x y _ => quotient t x y
      num := fun _ x y _ => x.div y } g vd va b none r

/-- R146. -/
def execVsqrt (g : Gov) (vd va : VReg) (r : Rnd) (s : State) : Host.Outcome State Fault Refusal :=
  unaryMember s (.vsqrt g vd va r)
    { cls := 37, accepts := fun t => tagFn t || t == .fp64, int := fun _ x _ _ => x, num := fun _ x _ _ => x.sqrt } g vd va r

/-- R146, R148. -/
def execVrcp (g : Gov) (vd va : VReg) (r : Rnd) (s : State) : Host.Outcome State Fault Refusal :=
  unaryMember s (.vrcp g vd va r)
    { cls := 37, accepts := tagFn, int := fun _ x _ _ => x, num := fun _ x _ _ => (FNum.ofInt 1).div x } g vd va r

/-- R146, R148. -/
def execVrsq (g : Gov) (vd va : VReg) (r : Rnd) (s : State) : Host.Outcome State Fault Refusal :=
  unaryMember s (.vrsq g vd va r)
    { cls := 37, accepts := tagFn, int := fun _ x _ _ => x, num := fun _ x _ _ => x.rsqrt } g vd va r

/-- R146, R148. -/
def execVexp2 (g : Gov) (vd va : VReg) (r : Rnd) (s : State) : Host.Outcome State Fault Refusal :=
  unaryMember s (.vexp2 g vd va r)
    { cls := 38, accepts := tagFn, int := fun _ x _ _ => x, num := fun _ x _ _ => x.exp2 } g vd va r

/-- R146, R148. -/
def execVlog2 (g : Gov) (vd va : VReg) (r : Rnd) (s : State) : Host.Outcome State Fault Refusal :=
  unaryMember s (.vlog2 g vd va r)
    { cls := 38, accepts := tagFn, int := fun _ x _ _ => x, num := fun _ x _ _ => x.log2 } g vd va r

/-- R146, R148. -/
def execVtanh (g : Gov) (vd va : VReg) (r : Rnd) (s : State) : Host.Outcome State Fault Refusal :=
  unaryMember s (.vtanh g vd va r)
    { cls := 38, accepts := tagFn, int := fun _ x _ _ => x, num := fun _ x _ _ => x.tanh } g vd va r

/-! ## Minimum, maximum, absolute value, negation (R149, R150) -/

/-- R149. -/
def execVmin (g : Gov) (vd va : VReg) (b : VB) (s : State) : Host.Outcome State Fault Refusal :=
  polyMember s (.vmin g vd va b)
    { cls := 35, int := fun _ x y _ => min x y, num := fun _ x y _ => (x.min y, sigFlags [x, y]), rounds := false }
    g vd va b none .dyn

/-- R149. -/
def execVmax (g : Gov) (vd va : VReg) (b : VB) (s : State) : Host.Outcome State Fault Refusal :=
  polyMember s (.vmax g vd va b)
    { cls := 35, int := fun _ x y _ => max x y, num := fun _ x y _ => (x.max y, sigFlags [x, y]), rounds := false }
    g vd va b none .dyn

/-- The number with its sign cleared. -/
def FNum.abs (x : FNum) : FNum := if x.neg then x.negate else x

/-- R150. -/
def execVabs (g : Gov) (vd va : VReg) (sat : Bool) (s : State) : Host.Outcome State Fault Refusal :=
  unaryMember s (.vabs g vd va sat)
    { cls := 35, accepts := fun t => !tagMx t, sat := sat, int := fun _ x _ _ => x.natAbs
      num := fun _ x _ _ => (x.abs, sigFlags [x]), rounds := false } g vd va .dyn

/-- R150. -/
def execVneg (g : Gov) (vd va : VReg) (sat : Bool) (s : State) : Host.Outcome State Fault Refusal :=
  unaryMember s (.vneg g vd va sat)
    { cls := 35, accepts := fun t => !tagMx t, sat := sat, int := fun _ x _ _ => -x
      num := fun _ x _ _ => (x.negate, sigFlags [x]), rounds := false } g vd va .dyn

/-! ## Bits (R151 to R154) -/

/-- A member on the bits of one or two operands: `ok` says which tags it takes, `f` what it makes of width, operand and
operand. -/
def bitMember (s : State) (i : Instr) (cls : Nat) (g : Gov) (vd va : VReg) (b : Option VB) (ok : Tag → Tag → Bool)
    (f : Tag → Nat → Nat → Nat × FpFlags) : Host.Outcome State Fault Refusal :=
  member s i fun s =>
    let ra := s.src.rv va
    let t := ra.tag
    let tb := match b with | some b => s.opbTag t b | none => t
    let code := match b with | some b => s.opbCode b | none => 0x1F
    let reads := match b with | some b => s.readsOf va b none | none => [(va, t)]
    withTag s (if ok t tb then some t else none) (tagCode t) code 0x1F fun t =>
    stage2 s g reads vd t false .dyn fun _ act =>
    s.finishV g vd t cls act false fun e _ =>
      f t (ra.elem s.hart.lanes (tagWidth t) e) (match b with | some b => s.opbBits t b e | none => 0)

/-- Tags of the bitwise members (R151). -/
def bitTags (t tb : Tag) : Bool := !tagMx t && t != .tern && !tagMx tb && tb != .tern && tagWidth t == tagWidth tb

/-- R151. -/
def execVand (g : Gov) (vd va : VReg) (b : VB) (s : State) : Host.Outcome State Fault Refusal :=
  bitMember s (.vand g vd va b) 35 g vd va (some b) bitTags fun _ x y => (x &&& y, 0)

/-- R151. -/
def execVor (g : Gov) (vd va : VReg) (b : VB) (s : State) : Host.Outcome State Fault Refusal :=
  bitMember s (.vor g vd va b) 35 g vd va (some b) bitTags fun _ x y => (x ||| y, 0)

/-- R151. -/
def execVxor (g : Gov) (vd va : VReg) (b : VB) (s : State) : Host.Outcome State Fault Refusal :=
  bitMember s (.vxor g vd va b) 35 g vd va (some b) bitTags fun _ x y => (x ^^^ y, 0)

/-- R151. -/
def execVnot (g : Gov) (vd va : VReg) (s : State) : Host.Outcome State Fault Refusal :=
  bitMember s (.vnot g vd va) 35 g vd va none bitTags fun t x _ => (2 ^ tagWidth t - 1 - x, 0)

/-- Both tags are integer tags other than tern (R152, R153). -/
def intTags (t tb : Tag) : Bool := tagInt t && tagInt tb

/-- The amount of a shift: the bits of vb's element, or ss as 64 bits (R142, R152). -/
def State.shiftAmount (s : State) (b : VB) (e : Nat) : Nat :=
  match b with
  | .v r => (s.src.rv r).elem s.hart.lanes (tagWidth (s.src.rv r).tag) e
  | .s ss => (s.src.rs ss).toNat

/-- A shift (R152). -/
def shiftMember (s : State) (i : Instr) (g : Gov) (vd va : VReg) (b : VB) (f : Tag → Nat → Nat → Nat × FpFlags) :
    Host.Outcome State Fault Refusal :=
  member s i fun s =>
    let ra := s.src.rv va
    let tb := s.opbTag ra.tag b
    withTag s (if intTags ra.tag tb then some ra.tag else none) (tagCode ra.tag) (s.opbCode b) 0x1F fun t =>
    stage2 s g (s.readsOf va b none) vd t false .dyn fun _ act =>
    s.finishV g vd t 35 act false fun e _ => f t (ra.elem s.hart.lanes (tagWidth t) e) (s.shiftAmount b e)

/-- x × 2^k, where an amount of 128 or more gives what 128 gives. -/
def shiftLeft (x : Int) (k : Nat) : Int := x * (2 ^ Nat.min k 128 : Nat)

/-- R152. -/
def execVshl (g : Gov) (vd va : VReg) (b : VB) (sat : Bool) (s : State) : Host.Outcome State Fault Refusal :=
  shiftMember s (.vshl g vd va b sat) g vd va b fun t x k => encInt t sat (shiftLeft (intVal t x).1 k)

/-- R152. -/
def execVshr (g : Gov) (vd va : VReg) (b : VB) (s : State) : Host.Outcome State Fault Refusal :=
  shiftMember s (.vshr g vd va b) g vd va b fun t x k => encInt t false ((intVal t x).1 / (2 ^ Nat.min k 128 : Nat))

/-- A rotation to the left of `w` bits. -/
def rotl (w x k : Nat) : Nat := (x * 2 ^ (k % w) + x / 2 ^ (w - k % w)) % 2 ^ w

/-- R152. -/
def execVrot (g : Gov) (vd va : VReg) (b : VB) (right : Bool) (s : State) : Host.Outcome State Fault Refusal :=
  shiftMember s (.vrot g vd va b right) g vd va b fun t x k =>
    let w := tagWidth t
    (rotl w x (if right then w - k % w else k), 0)

/-- R153. -/
def execVclz (g : Gov) (vd va : VReg) (s : State) : Host.Outcome State Fault Refusal :=
  bitMember s (.vclz g vd va) 39 g vd va none intTags fun t x _ =>
    (if x = 0 then tagWidth t else tagWidth t - 1 - Nat.log2 x, 0)

/-- R153. -/
def execVpopc (g : Gov) (vd va : VReg) (s : State) : Host.Outcome State Fault Refusal :=
  bitMember s (.vpopc g vd va) 39 g vd va none intTags fun t x _ => (onesOf x (tagWidth t), 0)

/-- The carry-less product (R154). -/
def clmul (w x y : Nat) : Nat := (List.range w).foldl (fun r i => if y / 2 ^ i % 2 = 1 then r ^^^ (x * 2 ^ i) else r) 0

/-- R154. -/
def execVclmul (g : Gov) (vd va : VReg) (b : VB) (hi : Bool) (s : State) : Host.Outcome State Fault Refusal :=
  bitMember s (.vclmul g vd va b hi) 39 g vd va (some b)
    (fun t tb => t == tb && tagInt t && !tagSigned t && t != .uint4) fun t x y =>
    let p := clmul (tagWidth t) x y
    (if hi then p / 2 ^ tagWidth t else p % 2 ^ tagWidth t, 0)

/-! ## Compare and select (R155, R156) -/

/-- The truth of a condition, with NV (R155). -/
def VCond.eval (c : VCond) (x y : FNum) : Bool × FpFlags :=
  let any := flagIf (x.isNan || y.isNan) flagNV
  let sig := sigFlags [x, y]
  match c with
  | .eq => (x.eq y, sig)
  | .ne => (!x.eq y, sig)
  | .lt => (x.lt y, any)
  | .le => (!x.isNan && !y.isNan && !y.lt x, any)
  | .gt => (y.lt x, any)
  | .ge => (!x.isNan && !y.isNan && !x.lt y, any)
  | .un => (x.isNan || y.isNan, sig)

/-- R155. -/
def execVcmp (g : Gov) (pd : PReg) (va : VReg) (b : VB) (c : VCond) (s : State) : Host.Outcome State Fault Refusal :=
  member s (.vcmp g pd va b c) fun s =>
    let ra := s.src.rv va
    let tb := s.opbTag ra.tag b
    let reads := s.readsOf va b none
    withTag s (promote ra.tag tb) (tagCode ra.tag) (s.opbCode b) 0x1F fun t =>
    formats s (reads.map Prod.snd ++ [t]) <|
    lengths s (reads.map fun x => (x.1, tagWidth x.2)) <|
    parity s (reads.map Prod.fst) <|
    let act := s.actives g (reads.map fun x => tagWidth x.2)
    checkedBy s 35 act fun s fix =>
      let rs := act.map fun e =>
        let x := numVal s.ctl ra.tag (ra.elem s.hart.lanes (tagWidth ra.tag) e)
        let y := numVal s.ctl tb (s.opbBits ra.tag b e)
        let v := VCond.eval c x.1 y.1
        (e, v.1, x.2 ||| y.2 ||| v.2)
      (s.raise (rs.foldl (fun f r => f ||| r.2.2) 0)).writeP g pd
        (rs.map fun r => (r.1, fix 1 r.1 (if r.2.1 then 1 else 0) == 1))

/-- The bits of a source converted exactly into T with no flag; bits of T itself are copied (R156), a tern
slot with its bits [3:2] (R48; notes/assumptions/125.md). -/
def convertBits (ctl : FpCtl) (from_ t : Tag) (b : Nat) : Nat :=
  if from_ = t then b
  else if tagFloat t then encExact t (numVal ctl from_ b).1
  else (encInt t false (intVal from_ b).1).1

/-- R156. -/
def execVsel (g : Gov) (vd va vb : VReg) (pc : PReg) (s : State) : Host.Outcome State Fault Refusal :=
  member s (.vsel g vd va vb pc) fun s =>
    let ra := s.src.rv va
    let rb := s.src.rv vb
    withTag s (promote ra.tag rb.tag) (tagCode ra.tag) (tagCode rb.tag) 0x1F fun t =>
    stage2 s g (s.readsOf va (.v vb) none) vd t false .dyn fun _ act =>
    s.finishV g vd t 35 act false fun e _ =>
      let r := if (s.src.rp pc).bits.getLsbD e then ra else rb
      (convertBits s.ctl r.tag t (r.elem s.hart.lanes (tagWidth r.tag) e), 0)

/-! ## Conversion (R157) -/

/-- One element converted. -/
def convertElem (ctl : FpCtl) (d : Tag) (sat : Bool) (m : Rnd) (r : VRegS) (l e u : Nat) : Nat × FpFlags :=
  if tagFloat r.tag || tagMx r.tag then
    let x := r.num ctl l e
    let y := if tagFloat d then encNum ctl d x.1 m u else encNumInt d x.1 m u
    (y.1, x.2 ||| sigFlags [x.1] ||| y.2)
  else
    let x := r.int l e
    let y := if tagFloat d then encNum ctl d (.ofInt x.1) m u else encInt d sat x.1
    (y.1, x.2 ||| y.2)

/-- The width-change check (R61). -/
def widthChange (s : State) (a d : Tag) (k : Res State) : Res State :=
  check (tagWidth a ≤ 4 * tagWidth d && tagWidth d ≤ 4 * tagWidth a) 0x16
    (BitVec.ofNat 64 (tagCode a + tagCode d * 256 + s.idxVal)) k

/-- R157. -/
def execVcvt (g : Gov) (vd va : VReg) (d : Tag) (sat : Bool) (r : Rnd) (s : State) : Host.Outcome State Fault Refusal :=
  member s (.vcvt g vd va d sat r) fun s =>
    let ra := s.src.rv va
    let rounds := tagFloat ra.tag || tagMx ra.tag || tagFloat d
    withTag s (if tagMx d then none else some d) (tagCode ra.tag) (tagCode d) 0x1F fun d =>
    widthChange s ra.tag d <|
    stage2 s g [(va, ra.tag)] vd d rounds r fun m act =>
    s.finishV g vd d 40 act (rounds && m == .sr) fun e u => convertElem s.ctl d sat m ra s.hart.lanes e u

/-! ## Scaling and quantisation (R158, R159) -/

/-- The exponent that VSCALE adds for element or block `e`. -/
def State.scaleBy (s : State) (b : VB) (e : Nat) : Int :=
  match b with
  | .v r =>
    let w := tagWidth (s.src.rv r).tag
    signedOf w ((s.src.rv r).elem s.hart.lanes w e)
  | .s ss => (s.src.rs ss).toInt

/-- An exponent within bounds beyond which every format overflows or underflows alike. -/
def clampExp (k : Int) : Int := max (-5000) (min 5000 k)

/-- The blocks of 32 elements that hold an element of a list (R51). -/
def blocksOf (es : List Nat) : List Nat := (es.map fun e => e / 32).eraseDups

/-- Side-slices with scales written. -/
def putScales (x : BitVec 4096) (l : Nat) (js : List (Nat × Nat)) : BitVec 4096 :=
  js.foldl (fun x j => putBits x (scalePos l j.1) 8 j.2) x

/-- The new scale of a block in the MX form of VSCALE, with SF when it is clamped. -/
def scaledScale (sc : Nat) (k : Int) : Nat × FpFlags :=
  if sc = 0xFF then (0xFF, 0)
  else
    let x : Int := (sc : Int) + k
    if x < 0 then (0, flagSF) else if 0xFE < x then (0xFE, flagSF) else (x.toNat, 0)

/-- R158. -/
def execVscale (g : Gov) (vd va : VReg) (b : VB) (r : Rnd) (s : State) : Host.Outcome State Fault Refusal :=
  member s (.vscale g vd va b r) fun s =>
    let ra := s.src.rv va
    let okB := match b with | .v x => tagInt (s.src.rv x).tag | .s _ => true
    let l := s.hart.lanes
    withTag s (if okB && (tagFloat ra.tag || tagMx ra.tag) then some ra.tag else none) (tagCode ra.tag) (s.opbCode b) 0x1F fun t =>
    stage2 s g (s.readsOf va b none) vd t (tagFloat t) r fun m act =>
    if tagFloat t then
      s.finishV g vd t 40 act (m == .sr) fun e u =>
        let x := ra.num s.ctl l e
        let y := encNum s.ctl t (x.1.scale (clampExp (s.scaleBy b e))) m u
        (y.1, sigFlags [x.1] ||| y.2)
    else
      let act := s.actives g [tagWidth t]
      let js := (blocksOf act).map fun j => (j, scaledScale (ra.scaleAt l j) (s.scaleBy b j))
      (s.raise (js.foldl (fun f j => f ||| j.2.2) 0)).finishV g vd t 40 act false
        (fun e _ => (ra.elem l (tagWidth t) e, 0)) fun old => putScales old.scale l (js.map fun j => (j.1, j.2.1))

/-- emax of an MX tag (R159). -/
def mxEmax : Tag → Int
  | .mxe2m1 => 2 | .mxe4m3 => 8 | .mxe5m2 => 15 | _ => 0

/-- floor (log2 |x|) of a finite nonzero number; none of any other. -/
def FNum.ilog2 : FNum → Option Int
  | .fin _ m e _ => if m = 0 then none else some (e + Nat.log2 m)
  | _ => none

/-- A finite number rounded into an element of an MX tag, where overflow gives ±max with SF and NX (R159). -/
def quantElem (d : Tag) (x : FNum) (m : Rnd) (u : Nat) : Nat × FpFlags :=
  match x with
  | .inf n => if d = .mxint8 then (if n then 0x80 else 0x7F, flagSF) else ((tagFmt d).signed n (tagFmt d).maxCode, flagSF)
  | x =>
    if d = .mxint8 then
      let r := roundInt (-2 ^ 20) (2 ^ 20) (x.scale 6) m u
      let c := satInt (-128) 127 r.1
      (intBits 8 c.1, c.2 ||| (r.2 &&& flagNX) ||| flagIf (c.2 != 0) flagNX)
    else
      let r := roundTo (tagFmt d) ⟨false, true⟩ x m u
      (r.1, if r.2 &&& flagOF = 0 then r.2 else flagSF ||| flagNX)

/-- One block quantised: its scale, and whether it holds a NaN (R159). -/
def quantBlock (d : Tag) (xs : List FNum) : Nat × Bool :=
  if xs.any FNum.isNan then (0xFF, true)
  else
    match (xs.filterMap FNum.ilog2).foldl (fun (a : Option Int) k => match a with | none => some k | some j => some (max j k)) none with
    | none => (0x7F, false)
    | some k => ((max 0 (min 0xFE (k - mxEmax d + 127))).toNat, false)

/-- Source tags of VQNT. -/
def qntSource : Tag → Bool
  | .e4m3 | .e5m2 | .fp16 | .bf16 | .fp32 => true
  | _ => false

/-- R159. -/
def execVqnt (g : Gov) (vd va : VReg) (d : Tag) (r : Rnd) (s : State) : Host.Outcome State Fault Refusal :=
  member s (.vqnt g vd va d r) fun s =>
    let ra := s.src.rv va
    let l := s.hart.lanes
    withTag s (if tagMx d && qntSource ra.tag then some d else none) (tagCode ra.tag) (tagCode d) 0x1F fun d =>
    widthChange s ra.tag d <|
    stage2 s g [(va, ra.tag)] vd d true r fun m act =>
    let x (e : Nat) : FNum := (ra.num s.ctl l e).1
    let js := (blocksOf act).map fun j => (j, quantBlock d ((act.filter fun e => e / 32 == j).map x))
    let sig := (act.map fun e => sigFlags [x e]).foldl (fun a f => a ||| f) 0
    let nan := flagIf (js.any fun j => j.2.2) flagNV
    (s.raise (sig ||| nan)).finishV g vd d 40 act (m == .sr)
      (fun e u =>
        match js.find? fun j => j.1 == e / 32 with
        | some (_, sc, false) => quantElem d ((x e).scale (127 - (sc : Int))) m u
        | _ => (0, 0))
      fun old => putScales (if old.tag = d && !g.z then old.scale else unitScales) l (js.map fun j => (j.1, j.2.1))

/-! ## Moves and fills (R160 to R162) -/

/-- R160. A tern slot is copied whole, bits [3:2] with it (R48; notes/assumptions/125.md). -/
def execVmov (g : Gov) (vd va : VReg) (s : State) : Host.Outcome State Fault Refusal :=
  member s (.vmov g vd va) fun s =>
    let ra := s.src.rv va
    stage2 s g [(va, ra.tag)] vd ra.tag false .dyn fun _ act =>
    s.finishV g vd ra.tag 35 act false (fun e _ => (ra.elem s.hart.lanes (tagWidth ra.tag) e, 0))
      fun old => if tagMx ra.tag then ra.scale else old.scale

/-- R161. -/
def execVsplat (g : Gov) (vd : VReg) (ss : SReg) (d : Tag) (s : State) : Host.Outcome State Fault Refusal :=
  member s (.vsplat g vd ss d) fun s =>
    let x := (s.src.rs ss).toNat % 2 ^ (if d = .tern then 2 else tagWidth d)
    withTag s (if tagMx d then none else some d) 0x1F (tagCode d) 0x1F fun d =>
    stage2 s g [] vd d false .dyn fun _ act => s.finishV g vd d 35 act false fun _ _ => (x, 0)

/-- R162. -/
def execViota (g : Gov) (vd : VReg) (ss : SReg) (d : Tag) (sat : Bool) (s : State) : Host.Outcome State Fault Refusal :=
  member s (.viota g vd ss d sat) fun s =>
    let x : Int := if tagSigned d then (s.src.rs ss).toInt else (s.src.rs ss).toNat
    withTag s (if tagInt d then some d else none) 0x1F (tagCode d) 0x1F fun d =>
    stage2 s g [] vd d false .dyn fun _ act => s.finishV g vd d 35 act false fun e _ => encInt d sat (x + e)

end Sys2Proof.Machine
end

