-- ==== Sys2Proof/Machine/Matrix.lean ====
section
/-! DEFINITION. Matrix members (R185 to R200). -/

namespace Sys2Proof.Machine

/-! ## Tiles (R185, R191) -/

/-- The position of tile element (i, j) in the model's tile. -/
def tilePos (i j : Nat) : Nat := 32 * (1024 * i + j)

/-- A tile. -/
def Regs.tile (r : Regs) (n : BitVec 2) : BitVec 1048576 := r.acc.look n.toNat 0

/-- A tile element. -/
def Regs.tileElem (r : Regs) (n : BitVec 2) (i j : Nat) : Nat := bitsAt (r.tile n) (tilePos i j) 32

/-- The row slice that holds tile element (i, j) of tile `n`: the tile, the row, the working lane of the grant (R185). -/
def Regs.rowSlice (r : Regs) (n : BitVec 2) (i j : Nat) : BitVec 2 × Nat × Nat := (n, i, j % r.lanes)

/-- Tile elements replaced: (i, j, bits). The row checks of the slices they lie in are written with them (R185). -/
def Regs.putTile (r : Regs) (n : BitVec 2) (xs : List (Nat × Nat × Nat)) : Regs :=
  { r with
    acc := r.acc.put n.toNat (xs.foldl (fun t x => putBits t (tilePos x.1 x.2.1) 32 x.2.2) (r.tile n))
    badAcc := r.badAcc.filter fun b => !xs.any fun x => b == r.rowSlice n x.1 x.2.1 }

/-- The elements (i, j) of a tile that a member reads lie in no uncorrectable row slice, else it traps (R185). -/
def tileParity {α : Type} (s : State) (n : BitVec 2) (reads : List (Nat × Nat)) (k : Res α) : Res α :=
  let r := s.hart.regs
  check (r.badAcc.isEmpty || !reads.any fun x => r.badAcc.contains (r.rowSlice n x.1 x.2)) 0x1A
    (BitVec.ofNat 64 (64 + n.toNat)) k

/-- Kmax of a source format (R190). -/
def kmax (t : Tag) : Nat :=
  match t with
  | .fp32 => 16
  | .bf16 | .fp16 => 32
  | .e2m1 | .int4 | .tern | .mxe2m1 => 128
  | _ => 64

/-- The number of columns of a tile. -/
def State.columns (s : State) : Nat := 16 * s.hart.lanes

/-! ## TSHAPE, MXZERO, MXPERT -/

/-- R190. -/
def execTshape (sd sm sn sk : SReg) (f : Tag) (s : State) : Host.Outcome State Fault Refusal :=
  member s (.tshape sd sm sn sk f) fun s =>
    formats s [f] <|
    let l := s.hart.lanes
    let m := Nat.min (Nat.max (s.src.rs sm).toNat 1) (Nat.min 32 (2 * l))
    let n := Nat.min (Nat.max (s.src.rs sn).toNat 1) (16 * l)
    let k := Nat.min (Nat.max (8 * ceilDiv (s.src.rs sk).toNat 8) 8) (kmax f)
    let s := s.modRegs fun r => { r with tshm := m, tshn := n, tshk := k }
    if sd = 0 then .ok s else s.memberS sd (BitVec.ofNat 64 (m + n * 2 ^ 16 + k * 2 ^ 32))

/-- R194. -/
def execMxzero (acc : BitVec 2) (s : State) : Host.Outcome State Fault Refusal :=
  member s (.mxzero acc) fun s =>
    .ok (s.modRegs fun r => { r with acc := Tbl.drop r.acc acc.toNat, badAcc := r.badAcc.filter fun x => !(x.1 == acc) })

/-- The bits of MXPCMD that may be set (R188). -/
def mxpMask : Word := 0xFFFFFFFF07FF07C1

/-- R197. -/
def execMxpert (sa : SReg) (s : State) : Host.Outcome State Fault Refusal :=
  member s (.mxpert sa) fun s =>
    let x := s.src.rs sa
    check (x &&& ~~~mxpMask == 0) 0x10 (s.hart.memberAddr s.hart.cv.idx) (.ok (s.modRegs fun r => { r with mxpcmd := x }))

/-! ## MMA and MMAS (R192, R193) -/

/-- The tag pairs of MMA; true for an int32 accumulator. -/
def mmaPair (a b : Tag) : Option Bool :=
  match a, b with
  | .fp32, .fp32 | .bf16, .bf16 | .fp16, .fp16 | .e2m1, .e2m1 => some false
  | .e4m3, .e4m3 | .e4m3, .e5m2 | .e5m2, .e4m3 | .e5m2, .e5m2 => some false
  | .int4, .int4 | .int4, .tern | .tern, .int4 | .tern, .tern => some true
  | _, _ => none

/-- The tag pairs of MMAS. -/
def mmasPair (a b : Tag) : Option Bool :=
  match a, b with
  | .mxe4m3, .mxe4m3 | .mxe4m3, .mxe5m2 | .mxe5m2, .mxe4m3 | .mxe5m2, .mxe5m2 => some false
  | .mxint8, .mxint8 | .mxe2m1, .mxe2m1 => some false
  | _, _ => none

/-- An element's number without its scale, subnormals kept. -/
def plainNum (t : Tag) (b : Nat) : FNum :=
  if t = .mxint8 then (FNum.ofInt (signedOf 8 b)).scale (-6) else (tagFmt t).number b

/-- The bits of A(i, k) (R191). -/
def aBits (a : VRegS) (l i k : Nat) : Nat := a.elem l (tagWidth a.tag) (i * kmax a.tag + k)

/-- The bits of B(k, j) (R191). -/
def bBits (bs : List VRegS) (l k j : Nat) : Nat :=
  let b0 := bs.headD {}
  let c := kmax b0.tag / 8
  (bs.getD (k / c) {}).elem l (tagWidth b0.tag) (k % c * (16 * l) + j)

/-- The scale of A(i, k). -/
def aScale (a : VRegS) (l i k : Nat) : Nat := a.scaleAt l ((i * kmax a.tag + k) / 32)

/-- The scale of column j for the block of k, in tile scale layout. -/
def bScale (bs : List VRegS) (l k j : Nat) : Nat :=
  let q := 16 * (k / 32) + j / l
  bitsAt (bs.getD (q / 8) {}).scale (j % l * 64 + q % 8 * 8) 8

/-- The sum of numbers none of which is a NaN and whose infinities have one sign; zero is -0 only when every number is. -/
def sumFrom : List FNum → FNum
  | [] => .fin false 0 0 false
  | [x] => x
  | x :: r => (x.add (sumFrom r) .rne).1

/-- The exact sum of a group (R65): with infinities of both signs it is NaN and sets NV, whatever else the group holds. -/
def exactSum (xs : List FNum) : FNum × FpFlags :=
  let both := xs.contains (.inf false) && xs.contains (.inf true)
  if both || xs.any FNum.isNan then (.nan false, flagIf both flagNV) else (sumFrom xs, 0)

/-- A group of eight products of floats, scaled, added to an accumulator element with one rounding (R65, R66). -/
def groupFloat (a : VRegS) (bs : List VRegS) (l i j g : Nat) (scaled : Bool) (acc : Nat) : Nat × FpFlags :=
  let ta := a.tag
  let tb := (bs.headD {}).tag
  let ps := (List.range 8).map fun d => (plainNum ta (aBits a l i (8 * g + d))).mul (plainNum tb (bBits bs l (8 * g + d) j))
  let sum := exactSum (ps.map Prod.fst)
  let pf := ps.foldl (fun f p => f ||| p.2) 0
  let sa := aScale a l i (8 * g)
  let sb := bScale bs l (8 * g) j
  let sum : FNum × FpFlags :=
    if !scaled then sum
    else if sa = 0xFF ∨ sb = 0xFF then (.nan false, flagNV)
    else (sum.1.scale ((sa : Int) - 127 + ((sb : Int) - 127)), sum.2)
  let r := (fmtF32.number acc).add sum.1 .rne
  let e := roundTo fmtF32 ⟨false, false⟩ r.1 .rne 0
  (e.1, pf ||| sum.2 ||| r.2 ||| e.2)

/-- A group of eight products of integers added modulo 2^32 (R65). -/
def groupInt (a : VRegS) (bs : List VRegS) (l i j g : Nat) (acc : Nat) : Nat × FpFlags :=
  let tb := (bs.headD {}).tag
  let ps := (List.range 8).map fun d =>
    let x := intVal a.tag (aBits a l i (8 * g + d))
    let y := intVal tb (bBits bs l (8 * g + d) j)
    (x.1 * y.1, x.2 ||| y.2)
  (intBits 32 (signedOf 32 acc + (ps.map Prod.fst).foldl (· + ·) 0), ps.foldl (fun f p => f ||| p.2) 0)

/-- Tile element (i, j) after all groups. -/
def mmaElem (a : VRegS) (bs : List VRegS) (l i j groups : Nat) (int scaled : Bool) (acc : Nat) : Nat × FpFlags :=
  (List.range groups).foldl (fun r g =>
    let x := if int then groupInt a bs l i j g r.1 else groupFloat a bs l i j g scaled r.1
    (x.1, r.2 ||| x.2)) (acc, 0)

/-- The value of MXPCMD added to an element (R198). -/
def perturb (int : Bool) (acc value : Nat) : Nat :=
  if int then (acc + value) % 2 ^ 32
  else (roundTo fmtF32 ⟨false, false⟩ ((fmtF32.number acc).add (fmtF32.number value) .rne).1 .rne 0).1

/-- The element that an armed MXPCMD perturbs (R198): its row and column, when the member computes it and an earlier entry did
not take the perturbation back. -/
def Hart.perturbs (h : Hart) (js : List Nat) : Option (Nat × Nat) :=
  let r := h.regs
  let i := r.mxpcmd.toNat / 64 % 32
  let j := r.mxpcmd.toNat / 65536 % 2048
  if r.mxpcmd.getLsbD 0 && decide (i < r.tshm) && js.contains j && !h.att.perturbed.contains h.cv.idx then some (i, j) else none

/-- The elements of a tile with the perturbation of the working lane that computed one of them. -/
def Hart.perturbed (h : Hart) (int : Bool) (at_ : Option (Nat × Nat)) (xs : List (Nat × Nat × Nat)) : List (Nat × Nat × Nat) :=
  xs.map fun x => if at_ == some (x.1, x.2.1) then (x.1, x.2.1, perturb int x.2.2 (h.regs.mxpcmd.toNat / 2 ^ 32)) else x

/-- The lanes' work on the elements that a multiplication computes (R198, R200). The perturbation, which changes the result of one
working lane, is a mismatch like a fault of that lane and is gone when the lane computes again, for whatever cause; else it
stands. The command is used up. -/
def State.checkTile (s : State) (n : BitVec 2) (int : Bool) (cls : Nat) (js : List Nat) (xs : List (Nat × Nat × Nat)) : LaneCheck :=
  let l := s.hart.lanes
  let h := s.hart
  let at_ := h.perturbs js
  let odd := if h.perturbed int at_ xs == xs then none else at_.map fun p => p.2 % l
  let used (s : State) : State := s.modRegs fun r => { r with mxpcmd := r.mxpcmd &&& ~~~1 }
  match (if s.lanesSound cls && odd.isNone then .fine s [] [] else s.checkLanes cls [] (s.lanesOf js) odd) with
  | .fenced s => .fenced s
  | .fine t flips again =>
    let ys := xs.map fun x => (x.1, x.2.1, flipped l flips 32 x.2.1 x.2.2)
    if odd.any again.contains then
      .fine ((used t).modHart fun h => { h with
        att := { h.att with perturbed := h.cv.idx :: h.att.perturbed }, regs := h.regs.putTile n ys }) [] []
    else .fine ((used t).modRegs fun r => r.putTile n (h.perturbed int at_ ys)) [] []

/-- MMA and MMAS: `pair` gives their tag pairs. -/
def mmaMember (s : State) (ins : Instr) (g : Gov) (n : BitVec 2) (va vb : VReg) (cls : Nat) (pair : Tag → Tag → Option Bool) :
    Host.Outcome State Fault Refusal :=
  member s ins fun s =>
    let a := s.src.rv va
    let bs := (eight vb).map s.src.rv
    let tb := (bs.headD {}).tag
    let odd := (bs.find? fun b => !(b.tag == tb)).map fun b => b.tag
    let bad : Word := s.mismatch (tagCode a.tag) (tagCode (odd.getD tb)) 0x1F
    match if odd.isNone then pair a.tag tb else none with
    | none => .trap 0x15 bad
    | some int =>
      check (s.hart.regs.tshk ≤ kmax a.tag) 0x15 bad <|
      formats s [a.tag, tb, if int then .int32 else .fp32] <|
      parity s (va :: eight vb) <|
      let r := s.hart.regs
      let js := (List.range r.tshn).filter fun j => s.isActive g j
      tileParity s n ((List.range r.tshm).flatMap fun i => js.map fun j => (i, j)) <|
      if !s.anyActive g then .ok s
      else
        let out := (List.range r.tshm).flatMap fun i => js.map fun j =>
          (i, j, mmaElem a bs s.hart.lanes i j (r.tshk / 8) int (cls == 48) (r.tileElem n i j))
        match s.checkTile n int cls js (out.map fun x => (x.1, x.2.1, x.2.2.1)) with
        | .fine s _ _ => .ok (s.raise (out.foldl (fun f x => f ||| x.2.2.2) 0))
        | .fenced s => .ok (s.takeTrap 0x14 (classVal s.hart.cv.idx cls) s.hart.pc)

/-- R192. -/
def execMma (g : Gov) (acc : BitVec 2) (va vb : VReg) (s : State) : Host.Outcome State Fault Refusal :=
  mmaMember s (.mma g acc va vb) g acc va vb 47 mmaPair

/-- R193. -/
def execMmas (g : Gov) (acc : BitVec 2) (va vb : VReg) (s : State) : Host.Outcome State Fault Refusal :=
  mmaMember s (.mmas g acc va vb) g acc va vb 48 mmasPair

/-! ## MXEXT and MXINS (R195, R196) -/

/-- D is accepted for S. -/
def extTag (int : Bool) (d : Tag) : Bool :=
  match d with
  | .fp32 | .fp16 | .bf16 => true
  | .e4m3 | .e5m2 => !int
  | .int32 | .uint32 | .int16 | .uint16 | .int8 | .uint8 => int
  | _ => false

/-- A tile element converted (R157). -/
def extElem (ctl : FpCtl) (int sat : Bool) (d : Tag) (m : Rnd) (b u : Nat) : Nat × FpFlags :=
  convertElem ctl d sat m { bits := BitVec.ofNat 65536 b, tag := if int then .int32 else .fp32 } 1 0 u

/-- R195: the active positions that lie outside the tile shape are treated as inactive; vd takes the tag all the same. -/
def execMxext (g : Gov) (vd : VReg) (acc : BitVec 2) (sr : SReg) (d : Tag) (int sat : Bool) (r : Rnd) (s : State) :
    Host.Outcome State Fault Refusal :=
  member s (.mxext g vd acc sr d int sat r) fun s =>
    let src : Tag := if int then .int32 else .fp32
    withTag s (if extTag int d then some d else none) (tagCode src) (tagCode d) 0x1F fun d =>
    formats s [src, d] <|
    withMode s (!int || tagFloat d) r fun m =>
    let q := s.hart.regs
    let w := tagWidth d
    let c := s.columns
    let base := (s.src.rs sr).toNat
    let act := (s.actives g [w]).filter fun e => decide (base + e / c < q.tshm) && decide (e % c < q.tshn)
    tileParity s acc (act.map fun e => (base + e / c, e % c)) <|
    checkedBy s 47 act fun s fix =>
      let x := runElems (m == .sr && (!int || tagFloat d))
        (fun e u => extElem s.ctl int sat d m (q.tileElem acc (base + e / c) (e % c)) u) act s.hart.regs.rngs
      let s := (s.raise x.2.1).modRegs fun r => { r with rngs := x.2.2 }
      s.writeV g vd d (x.1.map fun y => (y.1, fix w y.1 y.2)) keepScales

/-- R196. It reads no tile element, so an uncorrectable row slice does not stop it. -/
def execMxins (g : Gov) (acc : BitVec 2) (va : VReg) (sr : SReg) (s : State) : Host.Outcome State Fault Refusal :=
  member s (.mxins g acc va sr) fun s =>
    let a := s.src.rv va
    let ok := a.tag == .fp32 || a.tag == .int32 || a.tag == .uint32
    withTag s (if ok then some a.tag else none) (tagCode a.tag) 0x1F 0x1F fun t =>
    formats s [t] <|
    parity s [va] <|
    let q := s.hart.regs
    let c := s.columns
    let base := (s.src.rs sr).toNat
    let act := (s.activeBelow g (2 * c)).filter fun e => decide (base + e / c < q.tshm) && decide (e % c < q.tshn)
    checkedBy s 47 act fun s fix =>
      s.modRegs fun r => r.putTile acc (act.map fun e => (base + e / c, e % c, fix 32 e (a.elem s.hart.lanes 32 e)))

end Sys2Proof.Machine
end

