-- ==== Sys2Proof/Machine/Save.lean ====
section
/-! DEFINITION. Pre-emption and the save (R38 to R44, R187, R224 to R226, R277, R365), thermal migration (R41), and the
end of a core reset (R209). -/

namespace Sys2Proof.Machine

/-- R209: a core reset that has lasted 2,048 ticks ends. -/
def execCoreResetEnd (core : Nat) (s : State) : Host.Outcome State Fault Refusal :=
  ifUnit (isCore core) <|
  match (s.core core).resetEnd with
  | some t => if t ≤ (s.time (core / 48)).toNat then s.modCore core fun c => { c with resetEnd := none } else s
  | none => s

/-! ## Requests and acceptance (R38, R39, R44) -/

/-- R38. -/
def execPreemptRequest (h : Nat) (replace : Bool) (s : State) : Host.Outcome State Fault Refusal :=
  .next (s.askPreempt h replace)

/-- A context at an instruction boundary (R38): asleep, between two instructions, or waiting for its next instruction or at a full
log, where one that has begun is given up. -/
def Hart.atBoundary (h : Hart) : Bool :=
  !h.cv.active && (h.phase.sleeps || match h.phase with
    | .run => true
    | .retry | .deferredRead _ => !h.att.issued
    | _ => false)

/-- A request is accepted for it now (R38, R39). -/
def Hart.accepts (h : Hart) : Bool :=
  h.preempt && h.npSince.isNone && h.atBoundary && (h.slot == .ready || h.slot == .waiting || h.slot == .sleeping)

/-- R38: the request is accepted at a boundary. -/
def execPreemptAccept (h : Nat) (s : State) : Host.Outcome State Fault Refusal :=
  .next (s.modCtx h fun x => if x.accepts then { x with slot := .draining } else x)

/-- The instruction that a context waits at, as it is entered again after a resume (R20): a halted context stays halted. -/
def Hart.settlePhase (h : Hart) : Hart := { h with phase := if h.phase = .halted then .halted else .run, tried := false }

/-- R40, R277: nothing is in flight, the open staging records are appended and the save begins. -/
def State.drained (s : State) (h : Nat) : Option State :=
  let s := s.select h
  let x := s.hart
  if x.key ≠ h ∨ x.slot ≠ .draining ∨ !(s.log h).room false x.staging.length then none
  else some (s.closeStaging.modHart fun x => { x.flushChunks.settlePhase with slot := .saving })

/-- R40. -/
def execDrainComplete (h : Nat) (s : State) : Host.Outcome State Fault Refusal := .next ((s.drained h).getD s)

/-! ## The save image (R224, R225) -/

/-- A field of `bytes` bytes at an offset of an image: what a save writes there, and what a resume makes of what it reads. -/
structure ImageField where
  at_ : Nat
  bytes : Nat
  val : Nat
  load : Nat → Hart → Hart := fun _ h => h

/-- The registers of a context changed. -/
def Hart.modR (h : Hart) (f : Regs → Regs) : Hart := { h with regs := f h.regs }

/-- Word 8 of the control block. -/
def Hart.contextWord (h : Hart) : Nat :=
  let b (c : Bool) (n : Nat) : Nat := if c then 2 ^ n else 0
  b h.regs.mode 0 + 2 * h.tlevel + b h.npSince.isSome 3 + 16 * h.frags.length + b h.async30.isSome 8 + b h.async31.isSome 9 +
    b (h.phase == .halted) 10 + b h.rendezvous 11 + 2 ^ 32 * h.cseq.toNat

/-- What a resume takes from it. -/
def Hart.setContextWord (x : Nat) (h : Hart) : Hart :=
  { h with tlevel := x / 2 % 4, cseq := BitVec.ofNat 32 (x / 2 ^ 32), regs := { h.regs with mode := x % 2 == 1 } }

/-- A trap bank, sixteen bytes a register. -/
def bankFields (at_ : Nat) (b : TrapBank) (set : (TrapBank → TrapBank) → Hart → Hart) : List ImageField :=
  (List.range 5).map fun i =>
    { at_ := at_ + 16 * i, bytes := 16, val := (b.get i).toNat, load := fun x => set fun b => b.set (BitVec.ofNat 64 x) i }

/-- A hart-owned control register of the image taken by a resume; reserved fields read as zero whatever the image holds (R3). -/
def Hart.loadCsr (n x : Nat) (h : Hart) : Hart :=
  let w := BitVec.ofNat 64 x
  match n with
  | 0x006 => h.modR fun r => { r with vlen := x % 2 ^ 15 }
  | 0x008 => h.modR fun r => { r with tshm := x % 2 ^ 6 }
  | 0x009 => h.modR fun r => { r with tshn := x % 2 ^ 11 }
  | 0x00A => h.modR fun r => { r with tshk := x % 2 ^ 8 }
  | 0x00B => h.modR fun r => { r with mxpcmd := w &&& mxpMask }
  | 0x018 => { h with usemask := w &&& Config.allCaps }
  | 0x019 => { h with domain := w.setWidth 6 }
  | _ => if n ≤ 0x003 ∨ n = 0x005 ∨ n = 0x00D then h.modR fun r => r.setCsr n w else h

/-- The control block (R225). -/
def State.controlBlock (s : State) (h : Hart) (held : BitVec 16) : List ImageField :=
  let r := h.regs
  let s := s.select h.key
  let csr (n : Nat) : Nat := if computeCsr n && !(n == 0x01B) && !(n == 0x01C) && !(n == 0x01D) then (s.csrRead n).toNat else 0
  [{ at_ := 0, bytes := 8, val := h.pc.toNat, load := fun x h => { h with pc := BitVec.ofNat 64 x } },
   { at_ := 8, bytes := 8, val := h.contextWord, load := Hart.setContextWord },
   { at_ := 0x10, bytes := 8, val := h.npSince.getD 0, load := fun x h => { h with npSince := h.npSince.map fun _ => x } },
   { at_ := 0x18, bytes := 8, val := r.savedVlen, load := fun x h => h.modR fun r => { r with savedVlen := x % 2 ^ 15 } }] ++
  ((List.range 32).map fun i =>
    { at_ := 0x20 + 8 * i, bytes := 8, val := (r.rs (BitVec.ofNat 5 i)).toNat
      load := fun x h => h.modR fun r => r.ws (BitVec.ofNat 5 i) (BitVec.ofNat 64 x) }) ++
  bankFields 0x120 h.trap1 (fun f h => { h with trap1 := f h.trap1 }) ++
  bankFields 0x170 h.trap2 (fun f h => { h with trap2 := f h.trap2 }) ++
  [{ at_ := 0x1C0, bytes := 8, val := if h.event then 1 else 0, load := fun x h => { h with event := h.event || x % 2 == 1 } }] ++
  ((List.range 32).map fun i =>
    { at_ := 0x200 + 16 * i, bytes := 16, val := (r.rb (BitVec.ofNat 5 i)).toNat
      load := fun x h => h.modR fun r => r.wb (BitVec.ofNat 5 i) (BitVec.ofNat 128 x) }) ++
  ((List.range 32).map fun i => { at_ := 0x400 + 8 * i, bytes := 8, val := csr i, load := Hart.loadCsr i }) ++
  ((List.range 64).map fun i =>
    let v := r.rv (BitVec.ofNat 6 i)
    { at_ := 0x500 + 4 * i, bytes := 4, val := tagCode v.tag + 256 * v.segs + (if v.dirty then 0x10000 else 0)
      load := fun x h => match Tag.ofCode (BitVec.ofNat 5 x) with
        | some tg => h.modR fun r => { r with v := r.v.map fun e => if e.1 = i then (i, { e.2 with tag := tg }) else e }
        | none => h }) ++
  ((List.range 32).map fun i => { at_ := 0x600 + 2 * i, bytes := 2, val := if i ≠ 0 ∧ (r.p.look i {}).dirty then 1 else 0 }) ++
  ((List.range 32).filterMap fun i => (r.p.look i {}).bind.map fun b =>
    { at_ := 0x640 + 16 * i, bytes := 16, val := b.base.toNat + 2 ^ 64 * (1 + 2 * b.code.toNat + 256 * b.copy)
      load := fun x h => h.modR fun r => { r with p := r.p.map fun e => if e.1 = i then (i, { e.2 with
        bind := e.2.bind.map fun b => { b with base := BitVec.ofNat 64 x, code := BitVec.ofNat 3 (x / 2 ^ 65) } }) else e } }) ++
  (h.frags.zipIdx.map fun f =>
    { at_ := 0x840 + 16 * f.2, bytes := 16, val := f.1.resume.toNat + 2 ^ 64 * f.1.pred.toNat
      load := fun x h => { h with frags := h.frags.modify f.2 fun g =>
        { g with resume := BitVec.ofNat 64 x, pred := BitVec.ofNat 5 (x / 2 ^ 64) } } }) ++
  [{ at_ := 0x8C0, bytes := 8, val := held.toNat },
   { at_ := 0x8C8, bytes := 8, val := match h.tile with | some n => n % 2 ^ 48 + 2 ^ 63 | none => 0
     load := fun x h => { h with tile := if x / 2 ^ 63 % 2 = 1 then some (x % 2 ^ 48) else none } },
   { at_ := 0x8D0, bytes := 8, val := h.launchId.toNat + 2 ^ 16 * h.serial.toNat + 2 ^ 32 * (h.instStack % 32) +
       2 ^ 37 * (h.home % 32) + 2 ^ 42 * (h.launch % 256) },
   { at_ := 0x8D8, bytes := 8, val := h.gangId.toNat }]

/-- Vector registers: the scale side-slices of every register, and the segments of the dirty ones. -/
def Regs.vectorFields (r : Regs) : List ImageField :=
  (List.range 64).flatMap fun n =>
    let v := r.rv (BitVec.ofNat 6 n)
    let mod (f : VRegS → VRegS) (h : Hart) : Hart :=
      h.modR fun r => { r with v := r.v.map fun e => if e.1 = n then (n, f e.2) else e }
    (List.range r.lanes).flatMap fun l =>
      { at_ := 0x8000 + 512 * n + 8 * l, bytes := 8, val := v.scale.toNat / 2 ^ (64 * l) % 2 ^ 64
        load := fun x => mod fun v => { v with scale := putBits v.scale (64 * l) 64 x } } ::
      (if v.dirty then [{ at_ := 0x10000 + 8192 * n + 128 * l, bytes := 32 * v.segs, val := v.bits.toNat / 2 ^ (1024 * l) % 2 ^ (256 * v.segs)
                          load := fun x => mod fun v => { v with bits := putBits v.bits (1024 * l) (256 * v.segs) x } }]
       else [])

/-- Element positions of lane `l` of a mask, 256 of them (R125). -/
def laneMask (m : BitVec 16384) (lanes l : Nat) : Nat :=
  (List.range 256).foldl (fun x k => if m.getLsbD (k * lanes + l) then x + 2 ^ k else x) 0

/-- Those positions of a mask replaced. -/
def putLaneMask (m : BitVec 16384) (lanes l x : Nat) : BitVec 16384 :=
  (List.range 256).foldl (fun m k => putBits m (k * lanes + l) 1 (x / 2 ^ k)) m

/-- Dirty predicates, parked fragment masks and written blocks of scalar data memory. Entry 0 is the newest fragment: the manual
does not say which one is. -/
def Hart.otherFields (h : Hart) : List ImageField :=
  let r := h.regs
  let lanes (at_ : Nat) (m : BitVec 16384) (set : (BitVec 16384 → BitVec 16384) → Hart → Hart) : List ImageField :=
    (List.range r.lanes).map fun l =>
      { at_ := at_ + 32 * l, bytes := 32, val := laneMask m r.lanes l, load := fun x => set fun m => putLaneMask m r.lanes l x }
  ((List.range 32).flatMap fun n =>
    let p := r.p.look n {}
    if n ≠ 0 ∧ p.dirty then lanes (0x90000 + 2048 * n) p.bits fun f h =>
      h.modR fun r => { r with p := r.p.map fun e => if e.1 = n then (n, { e.2 with bits := f e.2.bits }) else e }
    else []) ++
  (h.frags.zipIdx.flatMap fun f => lanes (0xA0000 + 2048 * f.2) f.1.mask fun g h =>
    { h with frags := h.frags.modify f.2 fun y => { y with mask := g y.mask } }) ++
  ((List.range 32).filter r.sdmDirty.getLsbD).map fun b =>
    { at_ := 0xA4000 + 2048 * b, bytes := 2048
      val := (List.range 256).foldl (fun x i => x + 2 ^ (64 * i) * sdmWord r.sdm (2048 * b + 8 * i)) 0
      load := fun x h => h.modR fun r => { r with sdm := privWrite r.sdm (2048 * b) 2048 x } }
where
  /-- Eight bytes of scalar data memory. -/
  sdmWord (m : Memory) (o : Nat) : Nat := (List.range 8).foldl (fun x i => x + 256 ^ i * (cellRead 0 m (o + i)).toNat) 0

/-- The fields that a save of a context writes, and that its resume reads back (R40, R224). -/
def State.imageFields (s : State) (h : Hart) (held : BitVec 16) : List ImageField :=
  s.controlBlock h held ++ h.regs.vectorFields ++ h.otherFields

/-- The physical address of a slot's save area (R230). -/
def Hart.saveArea (h : Hart) : Nat := h.stk * Config.stackSlot + Config.saveAreaOff + (4 * h.coreNo + h.slotNo) * 0x100000

/-- The image of a context written in its save area; the control block's other bytes are zero. -/
def State.writeImage (s : State) (h : Hart) (held : BitVec 16) : State :=
  let base := h.saveArea
  let fields := s.imageFields h held
  let m := (s.mem.filter fun c => decide (c.1 < base) || decide (base + 0x4000 ≤ c.1))
  let s : State := { s with mem := fields.foldl (fun m f => m.writeN (base + f.at_) f.bytes f.val) m }
  let s := (fields.filter fun f => f.bytes != 0).foldl (fun s f => s.cacheWritten (base + f.at_) f.bytes) s
  s.modCore h.core fun c => { c with images := c.images.put h.slotNo h.key }

/-- A save area still holds the image of the context that was saved in it. -/
def State.imaged (s : State) (h : Hart) : Bool := (s.core h.core).images.look h.slotNo (h.key + 1) == h.key

/-- The sectors that a resume reads (R224). -/
def State.imageSectors (s : State) (h : Hart) : List Nat :=
  if s.imaged h then (s.imageFields h h.held).flatMap fun f => sectorsIn (h.saveArea + f.at_) f.bytes else []

/-- A context as its image gives it back (R43, R224): the bytes that its save counted are read again from the save area of the
slot that it was saved in. What no save since has counted, and everything when another context has been saved in that slot
since, is as the context had it (R43). -/
def State.readImage (s : State) (h : Hart) : Hart :=
  if s.imaged h then
    (s.imageFields h h.held).foldl (fun y f => f.load (s.mem.readN (h.saveArea + f.at_) f.bytes) y) h
  else h

/-! ## Saved (R40 to R42, R187, R365) -/

/-- The slot of a context empties once its image is written and its publications are published. -/
def State.saved (s : State) (h : Hart) : State :=
  let held := s.heldOf h
  let s := s.writeImage h held
  let s := s.modCore h.core fun c => { c with
    lat := (c.lat.map fun e => if e.2.owner = h.key ∧ held.getLsbD e.1 then (e.1, { e.2 with held := true, tiles := h.regs.mode }) else e).filter
      fun e => !(e.2.owner == h.key && e.2.assigned && !held.getLsbD e.1)
    view := c.view.filter fun x => !(x.pin == some h.slotNo) }
  let s := s.modCtx h.key fun x => { x with
    slot := .saved, held := held, heldCore := h.core, preempt := false, replace := false
    regs := { x.regs with scratch := x.regs.scratch.filter fun c => held.getLsbD (c.1 / 65536) } }
  let s := s.freezeSaved h.instStack
  if (s.core h.core).resetWait.isSome ∧ !(s.harts.any fun x => !x.service && x.core == h.core && x.resident) then
    s.startCoreReset h.core (s.core h.core).resetCause (s.core h.core).resetEpc
  else s

/-- R42. -/
def execSaveComplete (h : Nat) (s : State) : Host.Outcome State Fault Refusal :=
  .next <| match s.ctx h with
  | some x => if x.slot = .saving then s.saved x else s
  | none => s

/-! ## Resume (R41, R43, R44, R277, R365) -/

/-- The grant that a saved context gets on a core: the held clusters, which a reset of the core may have freed, and free ones up
to its count. -/
def State.resumeGrant (s : State) (x : Hart) (g : Nat) : Option (BitVec 16) :=
  let k := s.core g
  let mine := (List.range 16).foldl (fun m c => if (k.lat.look c {}).held && (k.lat.look c {}).owner == x.key then m ||| 1#16 <<< c else m) 0
  let free := k.freeClusters &&& ~~~x.held
  let more := popc x.regs.grant - popc x.held
  if x.held &&& ~~~(k.freeClusters ||| mine) ≠ 0 ∨ popc free < more then none else some (x.held ||| takeLow free more)

/-- The frozen entry of a context's instance. -/
def State.frozenOf (s : State) (x : Hart) : Option Nat :=
  ((s.stack x.instStack).frozen.find? fun e => e.2.bound.contains x.key).map Prod.fst

/-- A saved context may resume on a core, in a slot: with held clusters on the core that holds them, else on one of its stack that
covers its use mask (R41). -/
def State.mayResume (s : State) (x : Hart) (g slot : Nat) : Bool :=
  let c := s.core g
  x.slot == .saved && g / 48 == x.stk && (s.freeSlotsOf g).contains slot && (x.held == 0 || x.heldCore == g) &&
  (match x.migrate with | some m => m == g | none => true) &&
  (!(x.held == 0) || x.usemask &&& ~~~c.capmask == 0) && c.resetEnd.isNone && c.resetWait.isNone &&
  ((s.stack x.stk).reservationOf (g % 48)).isSome == x.sprint &&
  (s.log x.key).replayed.le (s.stack x.stk).settled &&
  ((s.frozenOf x).isNone || (freeIndex (s.stack x.instStack).walkers 32).isSome)

/-- A context resumed in a slot: its instance is restored, its image is read back, its dirty tags are cleared, the chunks that
completed meanwhile are set (R126), its clusters are its own again, and the sectors of the core are refreshed to its floor. The
image is read through the stack cache, and a sector of it that gives no good datum is the context's first error (R241, R242). That
its aging count begins again is this model's choice (R36; notes/assumptions/124.md). -/
def State.resumeOne (s : State) (x : Hart) (g slot : Nat) : Option State :=
  match if s.mayResume x g slot then s.resumeGrant x g else none with
  | none => none
  | some grant =>
    let s := match s.frozenOf x with | some n => s.restoreInstance x.instStack n | none => s
    let secs := s.imageSectors x
    let lost := secs.find? s.badSector
    let s := (secs.filter fun y => !(s.badSector y)).foldl State.cacheRead s
    let s := s.modCore g fun c => { c with
      lat := (onesList x.held).foldl (fun t i => t.put i { (t.look i {}) with
        owner := x.key, assigned := true, held := false, tiles := false, slot := slot })
        (latAssign c.lat (grant &&& ~~~x.held) x.key slot) }
    let s := s.modCtx x.key fun y =>
      let y := s.readImage y
      let y := if y.phase = .halted then y else { y with phase := match lost with | some sec => .readError sec | none => y.phase }
      Hart.flushChunks { y with
      loc := 4 * g + slot, slot := if y.phase = .halted then .sleeping else if lost.isSome then .waiting else .ready
      held := 0, migrate := none, readyTicks := 0, att := {}
      regs := { y.regs with
        grant := grant, sdmDirty := 0
        v := y.regs.v.map fun e => (e.1, { e.2 with dirty := false })
        p := y.regs.p.map fun e => (e.1, { e.2 with dirty := false }) } }
    some (s.refreshAll g (s.log x.key).floor)

/-- The first place of its stack in which a saved context can resume. -/
def State.resumePlace (s : State) (x : Hart) : Option (Nat × Nat) :=
  ((List.range 48).flatMap fun c => (s.freeSlotsOf (48 * x.stk + c)).map fun i => (48 * x.stk + c, i)).find? fun p =>
    s.mayResume x p.1 p.2 && (s.resumeGrant x p.1).isSome

/-- Saved contexts resumed each in its first place; none when one has no place. -/
def State.resumeEach (s : State) : List Hart → Option State
  | [] => some s
  | x :: r =>
    match s.resumePlace x with
    | some p => (match s.resumeOne x p.1 p.2 with | some s => State.resumeEach s r | none => none)
    | none => none

/-- A context resumed in a place, with every other hart of its gang. -/
def State.resumeAll (s : State) (x : Hart) (g slot : Nat) : Option State :=
  let others := s.harts.filter fun y => x.inGang && y.inGang && y.gangKey == x.gangKey && !(y.key == x.key)
  if others.any fun y => y.resident then none
  else match s.resumeOne x g slot with
    | some s => (s.resumeEach others).map fun s => if x.inGang then s.checkGrant x.gangKey else s
    | none => none

/-- R43. -/
def execResume (h core slot : Nat) (s : State) : Host.Outcome State Fault Refusal :=
  ifUnit (isCore core && decide (slot < 4)) <|
  match s.ctx h with
  | some x => (s.resumeAll x core slot).getD s
  | none => s

/-! ## Thermal migration (R41, R187) -/

/-- A cluster by its rank in one map, renamed to that of the same rank in another. -/
def renameCluster (old new : BitVec 16) (c : Nat) : Nat :=
  (onesList new).getD ((onesList old).idxOf c) c

/-- The held slices and tiles of a saved context moved to the lowest free clusters of a core, which are then held there. -/
def State.moveHeld (s : State) (x : Hart) (g : Nat) : Option State :=
  let free := (s.core g).freeClusters
  if popc free < popc x.held then none
  else
    let new := takeLow free (popc x.held)
    let rename (c : Nat) : Nat := renameCluster x.held new c
    let old := (s.core x.heldCore).lat.filter fun e => e.2.owner == x.key && e.2.held
    let s := s.modCore x.heldCore fun c => { c with lat := c.lat.filter fun e => !(e.2.owner == x.key && e.2.held) }
    let s := s.modCore g fun c => { c with lat := old.foldl (fun t e => t.put (rename e.1) e.2) c.lat }
    some (s.modCtx x.key fun y => { y with
      held := new, heldCore := g
      regs := { y.regs with
        grant := if y.regs.mode then new else y.regs.grant
        scratch := y.regs.scratch.foldl (fun m c => cellPut m (65536 * rename (c.1 / 65536) + c.1 % 65536) c.2) [] } })

/-- R41: the governor asks for the pre-emption of a context that it migrates, and once the context is saved moves what it
holds to the target core of its stack, where it resumes. -/
def execThermalMigration (h core : Nat) (s : State) : Host.Outcome State Fault Refusal :=
  ifUnit (isCore core) <|
  match s.ctx h with
  | none => s
  | some x =>
    if x.service ∨ core / 48 ≠ x.stk then s
    else if x.slot = .saved then
      let s := s.modCtx h fun y => { y with migrate := some core }
      if x.held = 0 ∨ x.heldCore = core then s else (s.moveHeld x core).getD s
    else (s.modCtx h fun y => { y with migrate := some core }).askPreempt h false

end Sys2Proof.Machine
end

