-- ==== Sys2Proof/Machine/Board.lean ====
section
/-! DEFINITION. Power and temperature (R442, R443), the four resets and bring-up (R444, R445), firmware (R446 to R448),
board management (R450, R451) and the key-wrapping key over SPDM (R449). -/

namespace Sys2Proof.Machine

/-- The stacks. -/
def allStacks : List Nat := List.range Config.stackCount

/-! ## Power (R442) -/

/-- Ticks between two samples of a stack's rail power. -/
def samplePeriod : Nat := 600

/-- Milliwatts of the module: the mean over the last hundred sample periods of every stack, those before the first sample being
0. -/
def State.meanPower (s : State) : Nat :=
  (s.stackTab.map fun t => ((t.2.power.filter fun x => decide ((s.time t.1).toNat < x.1 + 100 * samplePeriod)).map Prod.snd).sum).sum / 100

/-- Cores of a stack, reserved or not. -/
def State.coresWhere (s : State) (stk : Nat) (reserved : Bool) : List Nat :=
  ((List.range 48).filter fun c => ((s.stack stk).reservationOf c).isSome == reserved).map fun c => 48 * stk + c

/-- The clocks of cores stretched by one step more, down to half rate. -/
def State.stretchBy (s : State) (gs : List Nat) : State :=
  gs.foldl (fun s g => s.modCore g fun c => { c with stretch := Nat.min 4 (c.stretch + 1) }) s

/-- The clocks of cores stretched by one step less; the way back is this model's choice (R442; notes/assumptions/134.md). -/
def State.relax (s : State) (gs : List Nat) : State :=
  gs.foldl (fun s g => s.modCore g fun c => { c with stretch := c.stretch - 1 }) s

/-- A sample is due: a period has gone by since the last. -/
def State.sampleDue (s : State) (stk : Nat) : Bool :=
  match (s.stack stk).power with
  | [] => true
  | x :: _ => decide (x.1 + samplePeriod ≤ (s.time stk).toNat)

/-- The governor is engaged from a mean above 5.4 kW until one below 5.3 kW. -/
def State.engage (s : State) : State :=
  { s with engaged := if 5400000 < s.meanPower then true else if s.meanPower < 5300000 then false else s.engaged }

/-- A sample of a stack's rail power in milliwatts, one a period: while the governor is engaged it stretches the stack's distance
cores, and its reserved cores when those are at half rate; else it takes steps back. -/
def execPowerSample (stk mw : Nat) (s : State) : Host.Outcome State Fault Refusal :=
  ifUnit (isStack stk) <|
  if !s.sampleDue stk then s
  else
    let s := (s.modStack stk fun t => { t with power := (((s.time stk).toNat, mw) :: t.power).take 100 }).engage
    let far := s.coresWhere stk false
    let near := s.coresWhere stk true
    if s.engaged then (if far.all fun g => (s.core g).stretch == 4 then s.stretchBy near else s.stretchBy far)
    else if near.any fun g => decide (0 < (s.core g).stretch) then s.relax near
    else if far.any fun g => decide (0 < (s.core g).stretch) then s.relax far
    else s

/-! ## Temperature (R443) -/

/-- A die above its limit. -/
def overLimit (die t : Nat) : Bool := if die = 0 then decide (105 < t) else if die = 1 then false else decide (100 < t)

/-- The target of a migration: a core of the stack, other than the hot one, that covers the context and is of its class (R35). -/
def State.coolCore (s : State) (x : Hart) (w : Word) : Option Nat :=
  let gs := (coresOf x.stk).filter fun g => g != x.core && x.usemask &&& ~~~(s.core g).capmask == 0 &&
    ((s.stack x.stk).reservationOf (g % 48)).isSome == x.sprint
  gs[w.toNat % Nat.max 1 gs.length]?

/-- The contexts of the hottest core of a stack are migrated. Which core that is, and where they go, the manual leaves open. -/
def State.migrateHot (s : State) (stk : Nat) : State :=
  let (w, s) := s.free
  let (v, s) := s.free
  (s.harts.filter fun h => !h.service && h.resident && h.core == 48 * stk + w.toNat % 48).foldl (fun s h =>
    match s.coolCore h v with
    | some g => (s.modCtx h.key fun y => { y with migrate := some g }).askPreempt h.key false
    | none => s) s

/-- Any sensor reads above its warning level: a die's at 95 degrees, or another (R440, R450). -/
def State.warning (s : State) : Bool := !s.sensors.isEmpty || s.stackTab.any fun t => t.2.temps.any fun e => decide (95 < e.2)

/-- ALERT_N as the sensors have it. -/
def State.setAlert (s : State) : State :=
  if s.alert = s.warning then s else { s with alert := s.warning }.send (.signal "ALERT_N" (!s.warning))

/-- A thermal shutdown: every buffer freezes, all clocks stop, home memory is lost. -/
def State.shutdown (s : State) : State :=
  if s.stopped then s
  else
    let s := allStacks.foldl (fun s k => s.freeze k 4 0 false) s
    ({ s with stopped := true, thermtrip := true, mem := [], poison := [] } : State).send (.signal "THERMTRIP_N" false)

/-- Some die is above its limit. -/
def State.overheated (s : State) : Bool := s.stackTab.any fun t => t.2.temps.any fun e => overLimit e.1 e.2

/-- A die's sensor reads `t` degrees: dies 0 base, 1 SRAM, 2 + d DRAM die d. With clocks stopped nothing but ALERT_N follows. -/
def execThermalAlert (stk die t : Nat) (s : State) : Host.Outcome State Fault Refusal :=
  ifUnit (isStack stk && decide (die < 14)) <|
  let s := (s.modStack stk fun x => { x with temps := x.temps.put die t }).setAlert
  if s.stopped then s
  else
    let s := if 95 < t then s.migrateHot stk else s
    if overLimit die t then s.shutdown else s

/-- Another sensor passes its warning level. -/
def State.sensor (s : State) (n : Nat) (high : Bool) : State :=
  ({ s with sensors := if high then n :: s.sensors.filter (fun m => m != n) else s.sensors.filter fun m => m != n }).setAlert

/-- R443. -/
def execThermalShutdown (s : State) : Host.Outcome State Fault Refusal := .next s.shutdown

/-! ## Firmware (R446 to R448) -/

/-- A field of an image. -/
def imgField (bs : List Byte) (o n : Nat) : Nat := bytesAt bs o n

/-- A number in big-endian bytes of an image. -/
def imgBig (bs : List Byte) (o n : Nat) : Nat := ofBytesBE ((bs.drop o).take n)

/-- An image is accepted (R446); the fused minimum counts the ones of its thermometer code. -/
def accepts (hash : BitVec 256) (fused : BitVec 64) (bs : List Byte) : Bool :=
  let body := bs.drop 256
  let n := imgField bs 8 4
  decide (bs.length = 256 + n) && decide (n % 4096 = 0) && decide (n ≤ 4190208) &&
  imgField bs 0 4 == 0x4B594657 && imgField bs 4 2 == 1 && imgField bs 0x0C 4 == 0 && imgField bs 0x18 8 == 0xB0 &&
  imgField bs 0xC0 64 == 0 && decide (popc fused ≤ imgField bs 6 2) &&
  ofBytesBE (sha256 ((bs.drop 0x80).take 64)) == hash.toNat &&
  sha256 body == (bs.drop 0x20).take 32 &&
  ecdsaVerify (imgBig bs 0x80 32) (imgBig bs 0xA0 32) (imgBig bs 0x40 32) (imgBig bs 0x60 32) (sha256 (bs.take 64))

/-- The image that bring-up takes: the active slot's, else the other's (R447). -/
def State.chooseImage (s : State) : Option (List Byte) :=
  let ok (k : Nat) : Option (List Byte) :=
    let bs := s.flash.look k []
    if accepts s.keyHash s.fusedMin bs then some bs else none
  match ok s.active with
  | some bs => some bs
  | none => ok (1 - s.active)

/-- R448: an image goes into the inactive slot and is verified as it arrives. -/
def execFirmwareUpdate (image : List Byte) (s : State) : Host.Outcome State Fault Refusal :=
  .next { s with flash := s.flash.put (1 - s.active) image, newImage := accepts s.keyHash s.fusedMin image }

/-- R446: the fused minimum takes a higher thermometer code. -/
def execRaiseFusedMinimum (v : BitVec 64) (s : State) : Host.Outcome State Fault Refusal :=
  .next (if v &&& (v + 1) = 0 then { s with fusedMin := s.fusedMin ||| v } else s)

/-- The slot that a reset makes active (R448). -/
def State.nextActive (s : State) : Nat := if s.newImage then 1 - s.active else s.active

/-! ## Resets (R444) -/

/-- The inputs that stand in an agenda: messages and instructions of the module end with a reset. -/
def inputsOf (a : List Sched) : List Sched :=
  a.filter fun x => match x with | .event _ | .input _ => true | .msg _ | .issue _ => false

/-- A cold reset: the state of reset, with what the part keeps without power: flash, fuses, its defects and open bonds, and with
the levels of the board's signals and of the sensors; a die that is still above its limit shuts the module down again (R443). -/
def State.coldReset (s : State) : State :=
  let s' : State := { State.reset with
    agenda := inputsOf s.agenda, fresh := s.fresh, serial := s.serial, perst := s.perst, flash := s.flash, active := s.nextActive
    fusedMin := s.fusedMin, keyHash := s.keyHash, out := s.out
    modrst := s.modrst, powerLow := s.powerLow, sensors := s.sensors, alert := s.alert
    stackTab := (s.stackTab.filter fun t => !(t.2.bonds.isEmpty && t.2.temps.isEmpty)).map fun t =>
      (t.1, { bonds := t.2.bonds, temps := t.2.temps })
    cores := (s.cores.filter fun e => !e.2.defects.isEmpty).map fun e => (e.1, { defects := e.2.defects }) }
  let s' := if s.thermtrip then s'.send (.signal "THERMTRIP_N" true) else s'
  if s'.overheated then s'.shutdown else s'

/-- The module is held in reset: MODRST_N is low, or PWR_OK is not asserted (R440, R441). -/
def State.inReset (s : State) : Bool := s.modrst || s.powerLow

/-- A reset signal changes (R440, R441, R444). MODRST_N resets the module while it is low and when it rises, and so does PWR_OK when
it rises, which is power on. While PWR_OK is low the module is held as it is: what a thermal shutdown retains stays (R443). -/
def State.holdReset (s : State) (modrst powerLow : Bool) : State :=
  let t : State := { s with modrst := modrst, powerLow := powerLow }
  if modrst || s.modrst || (s.powerLow && !powerLow) then t.coldReset else t

/-- R444, R445. -/
def execColdReset (s : State) : Host.Outcome State Fault Refusal := .next s.coldReset

/-- R450. -/
def execPldmColdReset (s : State) : Host.Outcome State Fault Refusal := .next s.coldReset

/-- Every published record of a stack applied, and the chunks of copies that are wholly delivered (R342, R444): they take their keys
last. -/
def State.mergeRest (s : State) (stk : Nat) : State :=
  let t := s.stack stk
  let left := t.deferred.filterMap fun d => match d with | .entry e => some e | _ => none
  let es := (t.inbound ++ t.refused.map Prod.snd ++ left ++ t.mq).foldl (fun q e => mqInsert e q) []
  es.foldl (fun s e =>
    match e.origin with
    | .publication l q => if s.lineGood l q then s.applyEntry stk e else s.damage stk l q
    | .chunk serial j => if e.key = noKey ∧ s.chunkOnWay serial j then s else s.applyEntry stk e
    | _ => s.applyEntry stk e) s

/-- The locks of a stack released, their rows torn, when its contexts are lost (R316). -/
def State.dropLocks (s : State) (stk : Nat) : State :=
  let s := s.modStack stk fun t => { t with bcpq := [], channels := [], bcpReset := none, locks := t.locks.filter fun e => e.2.effective }
  (s.stack stk).locks.foldl (fun s e => (s.takeBankKey stk).releaseLock stk e.1 (s.bankNextKey stk) true) s

/-- What a stack keeps over a warm reset. -/
def Stack.warm (t : Stack) : Stack :=
  { t with
    launches := [], walkers := [], frozen := [], replies := [], sprints := [], remote := [], ccs := [], slots := [], locks := [], released := []
    deferred := [], deferStall := false, mq := [], inbound := [], refused := [], keySlots := [], kwk := none, kwkParts := []
    backlog := [], arrivals := [], cache := [], halts := [], resCmd := none, block := t.block.filter fun e => decide (e.1 < 0x100)
    chans := t.chans.map fun c => (c.1, { c.2 with doorbells := [], head := none }) }

/-- What a core keeps over a warm reset. -/
def CoreS.warm (c : CoreS) : CoreS :=
  { capmask := c.fwCapmask, fwCapmask := c.fwCapmask, tvec := c.tvec, stretch := c.stretch, testDue := c.testDue
    lastPass := c.lastPass, histBase := c.histBase, histIdx := c.histIdx, defects := c.defects }

/-- A warm reset: published records are merged, unpublished ones discarded, tables emptied; then bring-up from step 2. -/
def State.warmReset (s : State) : State :=
  let s := s.cores.foldl (fun s e => s.abortCopies e.1 fun _ => true) s
  let s := allStacks.foldl State.dropLocks s
  let s := allStacks.foldl State.mergeRest s
  let s := (s.harts.filter fun h => !h.service).foldl State.discard s
  let none_ : Hart := { key := 65408, service := true, loc := 4608, slot := .sleeping, phase := .halted }
  { s with
    hart := none_, others := [], gangs := [], logs := s.logs.filter fun l => decide (65280 ≤ l.1)
    agenda := inputsOf s.agenda, stalled := []
    stackTab := s.stackTab.map fun t => (t.1, t.2.warm)
    cores := s.cores.map fun c => (c.1, c.2.warm)
    farPuts := [], farParts := [], gathers := [], spdm := false, badCopies := [], active := s.nextActive, newImage := false, image := []
    bringUp := 1, upSince := s.ticks, warm := true, failed := false }

/-- R444: the host's request reaches a module that is up (R447). -/
def execWarmReset (s : State) : Host.Outcome State Fault Refusal := .next (if s.onNetwork then s.warmReset else s)

/-- R450. -/
def execPldmWarmReset (s : State) : Host.Outcome State Fault Refusal := .next (if s.stopped then s else s.warmReset)

/-- R440: fundamental reset of a host port. -/
def execPerst (port : Nat) (low : Bool) (s : State) : Host.Outcome State Fault Refusal :=
  ifUnit (decide (port < 2))
    { s with perst := if low then port :: s.perst.filter (fun p => p != port) else s.perst.filter fun p => p != port }

/-! ## Bring-up (R445) -/

/-- Ticks from the release of reset to the end of a step: its bound. -/
def stepEnd (warm : Bool) (n : Nat) : Nat :=
  if warm then [0, 0, 13800000, 14400000, 14400000, 15000000, 15600000].getD n 0
  else [0, 600000, 13800000, 14400000, 31200000, 31800000, 32400000].getD n 0

/-- The mesh links trained (R402, R445 step 1). -/
def State.trainLinks (s : State) : State :=
  (allStacks.flatMap fun k => (List.range 4).flatMap fun e => (List.range 8).map fun m => (k, e, m)).foldl (fun s x =>
    if (neighbour x.1 x.2.1).isSome ∧ ((s.stack x.1).link x.2.1 x.2.2).state = 1 then s.linkState x.1 x.2.1 x.2.2 2 else s) s

/-- The service core of a stack at the first byte of its image's body (R447, R454). -/
def serviceHart (k : Nat) : Hart :=
  { key := 65408 + k, service := true, loc := 4608 + k, pc := BitVec.ofNat 64 (Config.window + 0x400100) }

/-- What the firmware of the service cores sets up by means that the manual does not give: report channels, the domains of the
peer ports, the frames of the run histories, and the handler bases of the service cores themselves (R203, R371, R404, R408). -/
def State.firmwareSetup (s : State) : State :=
  let s := allStacks.foldl (fun s k => s.modStack k fun t => { t with report := Config.reportChannel k }) s
  { s with
    portDomain := (List.range 8).map fun i => (i + 2, (Config.peerDomain (i + 2)).toNat)
    cores := allStacks.foldl (fun c k => c.put (1152 + k) { (c.look (1152 + k) {}) with tvec := Config.serviceTvec k &&& 0xFFFE00 })
      ((List.range 1152).foldl (fun c g => c.put g { (c.look g {}) with histBase := some (Config.historyBase g) }) s.cores) }

/-- Bits that a test of a core finds: those of its lasting defects (R370). -/
def CoreS.failing (c : CoreS) : Word := (c.defects.filter fun d => d.stays).foldl (fun w d => w ||| 1#64 <<< d.cls) 0

/-- Step 5 of bring-up: every bit of every core is tested, and firmware sets CAPMASK and its firmware value to the bits that
passed (R445). -/
def State.testCores (s : State) : State :=
  { s with cores := (List.range 1152).foldl (fun cs g =>
      let c := cs.look g {}
      let ok := Config.allCaps &&& ~~~c.failing
      cs.put g { c with capmask := ok, fwCapmask := ok
                        lastPass := (onesList ok).foldl (fun t b => t.put b (s.time (g / 48))) c.lastPass }) s.cores }

/-! ## Vertical bonds (R452) -/

/-- Spare pairs of a vertical channel. -/
def sparePairs : Nat := 8

/-- The signals of a stack that are open on both bonds. -/
def Stack.openSignals (t : Stack) : List (Nat × Nat) :=
  ((t.bonds.filter fun b => b.2.2 = 0 ∧ t.bonds.contains (b.1, b.2.1, 1)).map fun b => (b.1, b.2.1)).eraseDups

/-- Every channel has spare pairs enough for its open signals. -/
def Stack.repairable (t : Stack) : Bool :=
  t.openSignals.all fun x => decide ((t.openSignals.filter fun y => y.1 == x.1).length ≤ sparePairs)

/-- Every open signal replaced by a spare pair of its channel. -/
def State.repairBonds (s : State) : State :=
  { s with stackTab := s.stackTab.map fun t => (t.1, { t.2 with spared := t.2.openSignals }) }

/-- A bond of a signal opens; bonds are numbered 0 and 1. A signal that thereby opens on both in service, with no spare pair in its
place, shows as an error that SECDED corrects. -/
def State.openBond (s : State) (stk channel signal bond : Nat) : State :=
  let lost (t : Stack) : Bool := t.openSignals.contains (channel, signal) && !t.spared.contains (channel, signal)
  let u := s.modStack stk fun t =>
    { t with bonds := (channel, signal, bond % 2) :: t.bonds.filter fun b => b != (channel, signal, bond % 2) }
  if 4 ≤ s.bringUp ∧ !s.stopped ∧ !s.inReset ∧ lost (u.stack stk) ∧ !lost (s.stack stk) then u.count stk 0 1 else u

/-- Bring-up stops, and the failure is reported over PLDM (R445). -/
def State.failBringUp (s : State) : State := { s with failed := true }.send (.pldm 1 [])

/-- The end of a bring-up step. -/
def State.endStep (s : State) : State :=
  match s.bringUp with
  | 0 => { s.trainLinks with bringUp := 1 }
  | 1 =>
    match s.chooseImage with
    | some bs => { s with image := bs, bringUp := 2 }
    | none => s.failBringUp
  | 2 =>
    if !s.badCopies.isEmpty || !accepts s.keyHash s.fusedMin s.image then s.failBringUp
    else if s.warm && !(s.stackTab.all fun t => t.2.repairable) then s.failBringUp
    else
      let t : State := { s with
        hart := serviceHart 0, others := ((List.range Config.stackCount).drop 1).map (fun k => (65408 + k, serviceHart k))
        bringUp := if s.warm then 4 else 3 }
      if s.warm then t.repairBonds else t
  | 3 =>
    if !(s.stackTab.all fun t => t.2.repairable) then s.failBringUp
    else { s.repairBonds.testCores with mem := [], poison := [], bringUp := 4 }
  | 4 => { s with bringUp := 5 }
  | 5 => { s.firmwareSetup with bringUp := 6 }
  | _ => s

/-- The step in progress ends. -/
def State.stepDue (s : State) : Bool :=
  decide (s.bringUp < 6) && !s.failed && decide (stepEnd s.warm (s.bringUp + 1) ≤ (s.ticks - s.upSince).toNat)

/-! ## Board management (R450, R451) and SPDM (R449) -/

/-- R450: a freeze of every buffer. -/
def execPldmFreeze (s : State) : Host.Outcome State Fault Refusal := .next (s.freezeAll 0 5 1)

/-- The completion code for data out of range. -/
def invalidData : Nat := 2

/-- R451: entries of a photo-finish buffer. -/
def execReadPhotoFinishEntries (stk first count : Nat) (s : State) : Host.Outcome State Fault Refusal :=
  let p := (s.stack stk).pfb
  .next <|
  if !isStack stk || decide (4095 < first) || count == 0 || decide (8 < count) then s.send (.pldm invalidData [])
  else s.send (.pldm 0
    (bytesOf p.idx.toNat 2 ++ bytesOf p.seq.toNat 4 ++ bytesOf (if p.frozen then 1 else 0) 1 ++ bytesOf p.freezeTime.toNat 8 ++
      bytesOf p.freezeCause 1 ++
      (List.range count).flatMap fun i => bytesOfWords (p.entries.look ((first + i) % 4096) (List.replicate 4 0))))

/-- R451: counters of a stack counter block. -/
def execReadCounterBlock (stk off count : Nat) (s : State) : Host.Outcome State Fault Refusal :=
  .next <|
  if !isStack stk || off % 8 != 0 || count == 0 || decide (16 < count) || decide (0x1000 < off + 8 * count) then
    s.send (.pldm invalidData [])
  else s.send (.pldm 0 (bytesOfWords ((List.range count).map fun i => (s.stack stk).block.look (off + 8 * i) 0)))

/-- R451: the frozen bit is cleared while clocks run. -/
def execClearFrozen (stk : Nat) (s : State) : Host.Outcome State Fault Refusal :=
  .next <|
  if !isStack stk then s.send (.pldm invalidData [])
  else if s.stopped then s.send (.pldm 1 [])
  else (s.modStack stk fun t => { t with pfb := { t.pfb with frozen := false } }).send (.pldm 0 [])

/-- R449: a session is set up; `both` says that the requester authenticated itself too. -/
def execSpdmKeyExchange (both : Bool) (s : State) : Host.Outcome State Fault Refusal :=
  .next (if s.bringUp = 6 ∧ !s.stopped then { s with spdm := both } else s)

/-- R449: the key-wrapping key, taken only in a session with mutual authentication, goes to every stack. -/
def execSpdmKeyWrap (key : BitVec 256) (s : State) : Host.Outcome State Fault Refusal :=
  .next (if s.spdm ∧ !s.stopped then allStacks.foldl (fun s k => s.modStack k fun t => { t with kwk := some key }) s else s)

end Sys2Proof.Machine
end

