-- ==== Sys2Proof/Machine/HomeWords.lean ====
section
/-! DEFINITION. The scalar home operations LDH, AMO and compare-and-swap (R289 to R291), and the event that ends their
wait. -/

namespace Sys2Proof.Machine

/-- R289. -/
def execLdh (sd sa : SReg) (off : BitVec 12) (acq : Bool) (s : State) : Host.Outcome State Fault Refusal :=
  homeWord s (.ldh sd sa off acq) (fun s => s.rs sa + off.signExtend 64 * 8) 8 .read acq false false
    (fun _ p => { idx := 0, addr := p, size := 8, fn := .read }) sd

/-- The operation of AMO's code (R290). -/
def AmoOp.fn : AmoOp → HomeFn
  | .add => .add | .and => .and | .or => .or | .xor => .xor | .min => .min | .max => .max | .minu => .minu
  | .maxu => .maxu | .swap => .swap

/-- R290. -/
def execAmo (op : AmoOp) (dbl : Bool) (ord : Order) (sd sa sb : SReg) (s : State) : Host.Outcome State Fault Refusal :=
  homeWord s (.amo op dbl ord sd sa sb) (fun s => s.rs sa) (if dbl then 8 else 4) .rw (Order.acq ord) (Order.rel ord) true
    (fun s p => { idx := 0, addr := p, size := if dbl then 8 else 4, fn := AmoOp.fn op, y := s.rs sb }) sd

/-- R291. -/
def execAmoCas (dbl : Bool) (ord : Order) (sd sa sb sc : SReg) (s : State) : Host.Outcome State Fault Refusal :=
  homeWord s (.amoCas dbl ord sd sa sb sc) (fun s => s.rs sa) (if dbl then 8 else 4) .rw (Order.acq ord) (Order.rel ord) true
    (fun s p => { idx := 0, addr := p, size := if dbl then 8 else 4, fn := .cas, y := s.rs sb, z := s.rs sc }) sd

/-- The results of an operation in the order of their numbers. -/
def Hart.resultList (h : Hart) : List Word := h.results.map Prod.snd

/-- The last location of a home operation has answered: the hart that waits for it goes on (R294). -/
def execHomeOpResult (h : Nat) (s : State) : Host.Outcome State Fault Refusal :=
  .next (s.modCtx h fun x =>
    match x.phase with
    | .requested k => if x.awaiting = 0 then { x with phase := .returned k x.resultList } else x
    | _ => x)

end Sys2Proof.Machine
end

