-- ==== Sys2Proof/Machine/Ordering.lean ====
section
/-! DEFINITION. The ordering words PUB, ACQ, PUBACQ, BAR and FENCE (R295 to R300). -/

namespace Sys2Proof.Machine

/-- Scope codes (R258). -/
def scopeCode : Scope → Nat
  | .hart => 0 | .gang => 1 | .stack => 2 | .module => 3 | .system => 4

/-- The same wait in another phase. -/
def Res.rephase {α : Type} (p : Phase) : Res α → Res α
  | .wait a _ => .wait a p
  | r => r

/-- A publication and the wait for the point that its scope gives (R257, R258), then `k`. -/
def publishThen (s : State) (sc : Scope) (k : State → Res State) : Res State :=
  match s.hart.phase with
  | .published key => if s.scopeReached sc key then k s else .wait s (.published key)
  | _ => (s.publish (scopeCode sc) false).then fun s =>
      let key := (s.log s.hart.key).ptKey
      if s.scopeReached sc key then k s else .wait s (.published key)

/-- R296. -/
def execPub (sc : Scope) (s : State) : Host.Outcome State Fault Refusal :=
  word s (.pub sc) fun s => publishThen s sc fun s => .ok s.next

/-- A log set of the gang needs a gang (R295). -/
def setLegal (s : State) (k : LogSet) : Bool := !(k == .gang) || s.hart.inGang

/-- The acquire of a log set, then the next word; a wait re-enters at the acquire. -/
def acquireThen (s : State) (k : LogSet) (a b : Word) : Res State :=
  ((s.acquire (s.logSet k a b)).rephase .acquiring).then fun s => .ok s.next

/-- R297. -/
def execAcq (k : LogSet) (sa sb : SReg) (s : State) : Host.Outcome State Fault Refusal :=
  word s (.acq k sa sb) (fun s => acquireThen s k (s.rs sa) (s.rs sb)) (setLegal s k)

/-- R298. -/
def execPubacq (sc : Scope) (k : LogSet) (sa sb : SReg) (s : State) : Host.Outcome State Fault Refusal :=
  word s (.pubacq sc k sa sb) (fun s =>
    if s.hart.phase = .acquiring then acquireThen s k (s.rs sa) (s.rs sb)
    else publishThen s sc fun s => acquireThen s k (s.rs sa) (s.rs sb)) (setLegal s k)

/-- The arrival at the rendezvous of BAR (R392). -/
def State.arrive (s : State) : State :=
  let g := s.hart.gangKey
  let s := s.modHart fun h => { h with phase := .arrived false, rendezvous := true }
  ((s.modGang g fun x => { x with arrivals := x.arrivals + 1 }).signalGang g).checkBarrier g

/-- R299. -/
def execBar (s : State) : Host.Outcome State Fault Refusal :=
  word s .bar (fun s =>
    let meet (s : State) : Res State :=
      let s := s.arrive
      match s.hart.phase with
      | .released _ => acquireThen s .gang 0 0
      | p => .wait s p
    match s.hart.phase, s.hart.passed with
    | .arrived b, _ => .wait s (.arrived b)
    | .released _, _ => acquireThen s .gang 0 0
    | .acquiring, _ => acquireThen s .gang 0 0
    | _, some _ => acquireThen (s.modHart fun h => { h with passed := none }) .gang 0 0
    | _, none => if s.hart.rendezvous then .wait s (.arrived false) else publishThen s .gang meet) s.hart.inGang

/-- R300: every earlier access has performed at hart scope, since words and convoys are executed in order. -/
def execFence (s : State) : Host.Outcome State Fault Refusal :=
  word s .fence fun s => .ok s.next

end Sys2Proof.Machine
end

