-- ==== Sys2Proof/Machine/Retire.lean ====
section
/-! DEFINITION. The retirement of a convoy (R29, R58, R104, R208): the effects of its members leave in member order at the
commit point, and the convoy goes on when its results return. -/

namespace Sys2Proof.Machine

/-- What became of an effect: done, with effects that remain for later; partly done, with what is left of it; or waiting. -/
inductive Commit where
  | done (s : State) (sent : Bool) (later : List Effect)
  | held (s : State) (e : Effect)
  | wait (p : Phase)
  deriving DecidableEq, Repr

/-- The clusters whose slices a member wrote are marked (R41). -/
def State.markSlices (s : State) (m : BitVec 16) : State :=
  s.modCore s.hart.core fun c => { c with lat := c.lat.map fun e => if m.getLsbD e.1 then (e.1, { e.2 with written := true }) else e }

/-- The end of .acq for an operation of key `k`. -/
def State.commitAcquire (s : State) (k : Key) (sent : Bool) : Commit :=
  match s.acquireKey true k with
  | some s => .done s sent []
  | none => if sent then .held s (.acquire k) else .wait .ordering

/-- A home operation leaves under its key. -/
def State.commitSend (s : State) (els : List HomeEl) (acq w sent : Bool) : Commit :=
  if !s.canKey then (if sent then .held s (.home els acq false w) else .wait .ordering)
  else
    let k := s.nextKey
    let s := s.sendHome els
    if acq && !w then s.commitAcquire k true else .done s true []

/-- One effect at the commit point. -/
def State.commit (s : State) (e : Effect) : Commit :=
  match e with
  | .scalar sd x l => .done s false [.scalar sd x l]
  | .store p b => (match s.storeByte p b with | .ok s => .done s false [] | _ => .wait .retry)
  | .touch m => .done (s.markSlices m) false []
  | .raise k => .done (s.raiseFloor k) false []
  | .acquire k => s.commitAcquire k false
  | .fetch as => .done (as.foldl (fun s a => s.fetchAhead s.hart.core a) s) false []
  | .home els acq rel w =>
    if rel && !s.hart.service then
      (match s.publish 0 false with
      | .ok s => s.commitSend els acq w true
      | .wait _ p => .wait p
      | _ => .wait .retry)
    else s.commitSend els acq w false
  | .bank c w =>
    (match s.commitBank c with
    | .ok s =>
      let s := if w then s.modHart fun h => { h with awaiting := h.awaiting + 1 } else s
      .done s true []
    | .wait _ p => .wait p
    | _ => .wait .ordering)
  | .copy c => (match s.commitCopy c with | .ok s => .done s true [] | _ => .wait .ordering)

/-- Effects in order. The answer: the state, what is left, the scalar results, whether anything left the hart, and whether
what the rest waits for, none when all are done. -/
def commitAll (s : State) (sent : Bool) (out : List Effect) :
    List Effect → State × List Effect × List Effect × Bool × Option Phase
  | [] => (s, [], out, sent, none)
  | e :: r =>
    match s.commit e with
    | .done s t later => commitAll s (sent || t) (out ++ later) r
    | .held s e' => (s, e' :: r, out, true, some .ordering)
    | .wait p => (s, e :: r, out, sent, some p)

/-- The log has room for the records of a convoy: `st` are the sectors of its open records and `n` the records appended so
far (R252, R271). -/
def Log.takes (l : Log) (service : Bool) : List Nat → Nat → List Effect → Bool
  | _, _, [] => true
  | st, n, e :: r =>
    match e with
    | .store p _ =>
      if st.contains (sectorOf p) then Log.takes l service st n r
      else if st.length < 512 then Log.takes l service (st ++ [sectorOf p]) n r
      else l.room false (n + 1) && Log.takes l service (st.drop 1 ++ [sectorOf p]) (n + 1) r
    | .home _ _ true _ =>
      if service then Log.takes l service st n r
      else l.room false (n + st.length + 1) && Log.takes l service [] (n + st.length + 1) r
    | .bank { instr := .brul .., .. } _ =>
      (st.isEmpty || l.room false (n + st.length)) && l.room true (n + st.length + 1) &&
        Log.takes l service [] (n + st.length + 1) r
    | _ => Log.takes l service st n r

/-- The log has room for the effects of a convoy (R271). -/
def State.fitsLog (s : State) (es : List Effect) : Bool :=
  (s.log s.hart.key).takes s.hart.service (s.hart.staging.map fun r => r.1) 0 es

/-- Every effect of a convoy finds the room that it needs: only then is the commit point reached (R208, R271, R336, R349). -/
def State.fits (s : State) (es : List Effect) : Bool :=
  s.fitsLog es &&
  es.all fun e => match e with
    | .bank c _ => ((s.stack c.stk).bcpRoom c.sprint).isSome &&
        (match c.instr with | .brlk .. => (s.stack c.stk).freeLock.isSome | _ => true)
    | .copy _ => decide ((s.core s.hart.core).queued < copyDepth)
    | _ => true

/-- Scalar results written; the last late check that fails is kept (R102, R104). -/
def writeScalars (s : State) (fail : Option Word) : List Effect → State × Option Word
  | [] => (s, fail)
  | .scalar sd x late :: r =>
    if late && s.belowLimit sd x then writeScalars s (some x) r else writeScalars (s.ws sd x) fail r
  | _ :: r => writeScalars s fail r

/-- The convoy has retired: flags, the sequence number and the scalar results are written, and the hart goes on after its
last member. -/
def State.finishConvoy (s : State) (out : List Effect) : State :=
  let h := s.hart
  let pc := h.memberAddr h.cv.count
  let s := s.modHart fun h => { h with
    regs := { h.regs with fpstat := h.regs.fpstat ||| h.cv.flags }, cseq := h.cseq + 1, cv := {} }
  let r := writeScalars s none out
  let s := (r.1.goto pc).modHart Hart.flushChunks
  match r.2 with
  | none => s
  | some x => s.takeTrap 0x1B x pc

/-- The hart waits at a convoy part of whose effects have left it (R208). -/
def State.holdConvoy (s : State) (left : List Effect) : State :=
  s.modHart fun h => { h with cv := { h.cv with effects := left.reverse, sent := true }, slot := .waiting }

/-- The key under which results return. -/
def waitKey (s : State) (es : List Effect) : Key :=
  if es.any fun e => match e with | .home .. => true | _ => false then (s.log s.hart.key).lastKey else 0

/-- The commit point of the convoy in progress. It is reached when every effect has the room that it needs. Members that wait
for results have their requests sent first, and the convoy runs again when the results are there; else every effect leaves in
member order and the convoy retires. While nothing has left, a wait unwinds the convoy, which pre-emption gives up only at a
full log (R38, R271). -/
def execConvoyRetire (s : State) : Host.Outcome State Fault Refusal :=
  let cv := s.hart.cv
  let es := cv.effects.reverse
  let back (p : Phase) : Phase := match s.hart.phase with
    | .returned k xs => .returned k xs
    | _ => p
  let first := (match s.hart.phase with | .returned _ _ => false | _ => true) && es.any Effect.waits
  .next <|
  if !cv.active then s
  else if !cv.sent && !(s.fits es) then s.park (back (if s.fitsLog es then .ordering else .retry))
  else
    let todo := if first then es.filter Effect.waits else es
    let r := commitAll s cv.sent [] todo
    match r.2.2.2.2 with
    | some p => if r.2.2.2.1 then r.1.holdConvoy (r.2.2.1 ++ r.2.1) else s.park (back p)
    | none =>
      if first then r.1.park (.requested (waitKey r.1 todo))
      else r.1.finishConvoy r.2.2.1

end Sys2Proof.Machine
end

