-- ==== Sys2Proof/Machine/ScalarInt.lean ====
section
/-! DEFINITION. The integer words: register with register (R105 to R107) and immediate (R108). -/

namespace Sys2Proof.Machine

/-- The number of leading zero bits of the low `n` bits of a number below 2^n. -/
def leadingZeros (x : Nat) : Nat → Nat
  | 0 => 0
  | n + 1 => if 2 ^ n ≤ x then 0 else leadingZeros x n + 1

/-- The number of trailing zero bits of `n` bits. -/
def trailingZeros (x : Nat) : Nat → Nat
  | 0 => 0
  | n + 1 => if x % 2 = 1 then 0 else trailingZeros (x / 2) n + 1

/-- A word that writes a scalar register from values read. -/
def scalar (s : State) (i : Instr) (sd : SReg) (x : State → Word) : Host.Outcome State Fault Refusal :=
  word s i fun s => s.setS sd (x s)

/-- The signed quotient of R105 and R106. -/
def divS (x y : Word) : Word := if y = 0 then BitVec.allOnes 64 else wordOfInt (x.toInt.tdiv y.toInt)
/-- The signed remainder. -/
def remS (x y : Word) : Word := if y = 0 then x else wordOfInt (x.toInt.tmod y.toInt)
/-- The unsigned quotient. -/
def divU (x y : Word) : Word := if y = 0 then BitVec.allOnes 64 else x / y
/-- The unsigned remainder. -/
def remU (x y : Word) : Word := if y = 0 then x else x % y
/-- 1 or 0. -/
def flagWord (b : Bool) : Word := if b then 1 else 0

/-- R105. -/
def execAdd (sd sa sb : SReg) (s : State) : Host.Outcome State Fault Refusal :=
  scalar s (.add sd sa sb) sd fun s => s.rs sa + s.rs sb

/-- R105. -/
def execSub (sd sa sb : SReg) (s : State) : Host.Outcome State Fault Refusal :=
  scalar s (.sub sd sa sb) sd fun s => s.rs sa - s.rs sb

/-- R105. -/
def execAnd (sd sa sb : SReg) (s : State) : Host.Outcome State Fault Refusal :=
  scalar s (.and sd sa sb) sd fun s => s.rs sa &&& s.rs sb

/-- R105. -/
def execOr (sd sa sb : SReg) (s : State) : Host.Outcome State Fault Refusal :=
  scalar s (.or sd sa sb) sd fun s => s.rs sa ||| s.rs sb

/-- R105. -/
def execXor (sd sa sb : SReg) (s : State) : Host.Outcome State Fault Refusal :=
  scalar s (.xor sd sa sb) sd fun s => s.rs sa ^^^ s.rs sb

/-- R105. -/
def execSll (sd sa sb : SReg) (s : State) : Host.Outcome State Fault Refusal :=
  scalar s (.sll sd sa sb) sd fun s => s.rs sa <<< ((s.rs sb).toNat % 64)

/-- R105. -/
def execSrl (sd sa sb : SReg) (s : State) : Host.Outcome State Fault Refusal :=
  scalar s (.srl sd sa sb) sd fun s => s.rs sa >>> ((s.rs sb).toNat % 64)

/-- R105. -/
def execSra (sd sa sb : SReg) (s : State) : Host.Outcome State Fault Refusal :=
  scalar s (.sra sd sa sb) sd fun s => (s.rs sa).sshiftRight ((s.rs sb).toNat % 64)

/-- R105. -/
def execSlt (sd sa sb : SReg) (s : State) : Host.Outcome State Fault Refusal :=
  scalar s (.slt sd sa sb) sd fun s => flagWord ((s.rs sa).slt (s.rs sb))

/-- R105. -/
def execSltu (sd sa sb : SReg) (s : State) : Host.Outcome State Fault Refusal :=
  scalar s (.sltu sd sa sb) sd fun s => flagWord ((s.rs sa).ult (s.rs sb))

/-- R105. -/
def execMin (sd sa sb : SReg) (s : State) : Host.Outcome State Fault Refusal :=
  scalar s (.min sd sa sb) sd fun s => if (s.rs sa).slt (s.rs sb) then s.rs sa else s.rs sb

/-- R105. -/
def execMax (sd sa sb : SReg) (s : State) : Host.Outcome State Fault Refusal :=
  scalar s (.max sd sa sb) sd fun s => if (s.rs sa).slt (s.rs sb) then s.rs sb else s.rs sa

/-- R105. -/
def execMul (sd sa sb : SReg) (s : State) : Host.Outcome State Fault Refusal :=
  scalar s (.mul sd sa sb) sd fun s => s.rs sa * s.rs sb

/-- R105. -/
def execMulh (sd sa sb : SReg) (s : State) : Host.Outcome State Fault Refusal :=
  scalar s (.mulh sd sa sb) sd fun s => wordOfInt ((s.rs sa).toInt * (s.rs sb).toInt / 2 ^ 64)

/-- R105. -/
def execMulhu (sd sa sb : SReg) (s : State) : Host.Outcome State Fault Refusal :=
  scalar s (.mulhu sd sa sb) sd fun s => BitVec.ofNat 64 ((s.rs sa).toNat * (s.rs sb).toNat / 2 ^ 64)

/-- R105, R106. -/
def execDiv (sd sa sb : SReg) (s : State) : Host.Outcome State Fault Refusal :=
  scalar s (.div sd sa sb) sd fun s => divS (s.rs sa) (s.rs sb)

/-- R105, R106. -/
def execDivu (sd sa sb : SReg) (s : State) : Host.Outcome State Fault Refusal :=
  scalar s (.divu sd sa sb) sd fun s => divU (s.rs sa) (s.rs sb)

/-- R105, R106. -/
def execRem (sd sa sb : SReg) (s : State) : Host.Outcome State Fault Refusal :=
  scalar s (.rem sd sa sb) sd fun s => remS (s.rs sa) (s.rs sb)

/-- R105, R106. -/
def execRemu (sd sa sb : SReg) (s : State) : Host.Outcome State Fault Refusal :=
  scalar s (.remu sd sa sb) sd fun s => remU (s.rs sa) (s.rs sb)

/-- R105. -/
def execClz (sd sa : SReg) (s : State) : Host.Outcome State Fault Refusal :=
  scalar s (.clz sd sa) sd fun s => BitVec.ofNat 64 (leadingZeros (s.rs sa).toNat 64)

/-- R105. -/
def execCtz (sd sa : SReg) (s : State) : Host.Outcome State Fault Refusal :=
  scalar s (.ctz sd sa) sd fun s => BitVec.ofNat 64 (trailingZeros (s.rs sa).toNat 64)

/-- R105. -/
def execPopc (sd sa : SReg) (s : State) : Host.Outcome State Fault Refusal :=
  scalar s (.popc sd sa) sd fun s => BitVec.ofNat 64 (Machine.popc (s.rs sa))

/-- R107. -/
def execSel (sd sa sb sc : SReg) (s : State) : Host.Outcome State Fault Refusal :=
  scalar s (.sel sd sa sb sc) sd fun s => if s.rs sc = 0 then s.rs sb else s.rs sa

/-- R108. -/
def execAddi (sd sa : SReg) (imm : BitVec 15) (s : State) : Host.Outcome State Fault Refusal :=
  scalar s (.addi sd sa imm) sd fun s => s.rs sa + imm.signExtend 64

/-- R108. -/
def execAndi (sd sa : SReg) (imm : BitVec 15) (s : State) : Host.Outcome State Fault Refusal :=
  scalar s (.andi sd sa imm) sd fun s => s.rs sa &&& imm.signExtend 64

/-- R108. -/
def execOri (sd sa : SReg) (imm : BitVec 15) (s : State) : Host.Outcome State Fault Refusal :=
  scalar s (.ori sd sa imm) sd fun s => s.rs sa ||| imm.signExtend 64

/-- R108. -/
def execXori (sd sa : SReg) (imm : BitVec 15) (s : State) : Host.Outcome State Fault Refusal :=
  scalar s (.xori sd sa imm) sd fun s => s.rs sa ^^^ imm.signExtend 64

/-- R108. -/
def execSlti (sd sa : SReg) (imm : BitVec 15) (s : State) : Host.Outcome State Fault Refusal :=
  scalar s (.slti sd sa imm) sd fun s => flagWord ((s.rs sa).slt (imm.signExtend 64))

/-- R108. -/
def execSlli (sd sa : SReg) (amt : BitVec 6) (s : State) : Host.Outcome State Fault Refusal :=
  scalar s (.slli sd sa amt) sd fun s => s.rs sa <<< amt.toNat

/-- R108. -/
def execSrli (sd sa : SReg) (amt : BitVec 6) (s : State) : Host.Outcome State Fault Refusal :=
  scalar s (.srli sd sa amt) sd fun s => s.rs sa >>> amt.toNat

/-- R108. -/
def execSrai (sd sa : SReg) (amt : BitVec 6) (s : State) : Host.Outcome State Fault Refusal :=
  scalar s (.srai sd sa amt) sd fun s => (s.rs sa).sshiftRight amt.toNat

/-- R108. -/
def execLui (sd : SReg) (imm : BitVec 20) (s : State) : Host.Outcome State Fault Refusal :=
  scalar s (.lui sd imm) sd fun _ => (imm ++ 0#12).signExtend 64

/-- R108. -/
def execAuipc (sd : SReg) (imm : BitVec 20) (s : State) : Host.Outcome State Fault Refusal :=
  scalar s (.auipc sd imm) sd fun s => s.hart.pc + (imm ++ 0#12).signExtend 64

end Sys2Proof.Machine
end

