-- ==== Sys2Proof/Machine/ScalarBranch.lean ====
section
/-! DEFINITION. Branches and jumps (R109 to R111). -/

namespace Sys2Proof.Machine

/-- A conditional branch (R109). -/
def branch (s : State) (i : Instr) (imm : BitVec 15) (taken : State → Bool) : Host.Outcome State Fault Refusal :=
  word s i fun s => .ok (s.goto (if taken s then s.hart.pc + imm.signExtend 64 * 4 else s.hart.pc + 4))

/-- A jump to `t` that writes the return address under the stack limit (R110, R111). -/
def State.jump (s : State) (sd : SReg) (t : Word) : Res State :=
  let x := s.hart.pc + 4
  if s.belowLimit sd x then .trap 0x1B x else .ok ((s.ws sd x).goto t)

/-- R109. -/
def execBeq (sa sb : SReg) (imm : BitVec 15) (s : State) : Host.Outcome State Fault Refusal :=
  branch s (.beq sa sb imm) imm fun s => s.rs sa == s.rs sb

/-- R109. -/
def execBne (sa sb : SReg) (imm : BitVec 15) (s : State) : Host.Outcome State Fault Refusal :=
  branch s (.bne sa sb imm) imm fun s => !(s.rs sa == s.rs sb)

/-- R109. -/
def execBlt (sa sb : SReg) (imm : BitVec 15) (s : State) : Host.Outcome State Fault Refusal :=
  branch s (.blt sa sb imm) imm fun s => (s.rs sa).slt (s.rs sb)

/-- R109. -/
def execBge (sa sb : SReg) (imm : BitVec 15) (s : State) : Host.Outcome State Fault Refusal :=
  branch s (.bge sa sb imm) imm fun s => !(s.rs sa).slt (s.rs sb)

/-- R109. -/
def execBltu (sa sb : SReg) (imm : BitVec 15) (s : State) : Host.Outcome State Fault Refusal :=
  branch s (.bltu sa sb imm) imm fun s => (s.rs sa).ult (s.rs sb)

/-- R109. -/
def execBgeu (sa sb : SReg) (imm : BitVec 15) (s : State) : Host.Outcome State Fault Refusal :=
  branch s (.bgeu sa sb imm) imm fun s => !(s.rs sa).ult (s.rs sb)

/-- R110. -/
def execJal (sd : SReg) (imm : BitVec 20) (s : State) : Host.Outcome State Fault Refusal :=
  word s (.jal sd imm) fun s => s.jump sd (s.hart.pc + imm.signExtend 64 * 4)

/-- R110; the check of R104 comes first (R111). -/
def execJalr (sd sa : SReg) (imm : BitVec 15) (s : State) : Host.Outcome State Fault Refusal :=
  word s (.jalr sd sa imm) fun s =>
    let t := s.rs sa + imm.signExtend 64
    if s.belowLimit sd (s.hart.pc + 4) then .trap 0x1B (s.hart.pc + 4)
    else check (t.toNat % 4 == 0) 0x04 t (s.jump sd t)

end Sys2Proof.Machine
end

