-- ==== Sys2Proof/Machine/ScalarFloat.lean ====
section
/-! DEFINITION. Scalar floating point (R115 to R118). -/

namespace Sys2Proof.Machine

/-- The format of a scalar operation. -/
def scalarFmt (dbl : Bool) : Fmt := if dbl then fmtF64 else fmtF32
/-- A scalar operand: FP32 ignores bits [63:32] (R101). -/
def scalarNum (s : State) (dbl : Bool) (x : Word) : FNum :=
  (scalarFmt dbl).read (fpCtl s.hart.regs.fpctl) (if dbl then x.toNat else x.toNat % 2 ^ 32)

/-- A result with its flags, ORed into FPSTAT when the word retires (R58). -/
def State.setF (s : State) (sd : SReg) (x : Word) (f : FpFlags) : Res State :=
  (s.modRegs fun r => { r with fpstat := r.fpstat ||| f }).setS sd x

/-- A scalar word that rounds: illegal when its rounding is dynamic and FPCTL.RM is not a mode (R53); under SR the word
draws once (R54). On a service core too FPCTL, FPSTAT and RNGS are read and written (R57; notes/assumptions/126.md). -/
def roundWord (s : State) (i : Instr) (r : Rnd) (body : State → Rnd → Nat → Res State) : Host.Outcome State Fault Refusal :=
  match Rnd.mode r s.hart.regs.fpctl with
  | none => word s i (fun s => .ok s) false
  | some m =>
    word s i fun s =>
      if m = .sr then
        let x := rngStep s.hart.regs.rngs
        body (s.modRegs fun r => { r with rngs := x }) m (rngDraw x)
      else body s m 0

/-- A scalar operation rounded once into its format (R116). -/
def floatWord (s : State) (i : Instr) (r : Rnd) (dbl : Bool) (sd : SReg) (op : State → Rnd → FNum × FpFlags) :
    Host.Outcome State Fault Refusal :=
  roundWord s i r fun s m u =>
    let x := op s m
    let y := roundTo (scalarFmt dbl) (fpCtl s.hart.regs.fpctl) x.1 m u
    s.setF sd (BitVec.ofNat 64 y.1) (x.2 ||| y.2)

/-- R116. -/
def execFadd (dbl : Bool) (r : Rnd) (sd sa sb : SReg) (s : State) : Host.Outcome State Fault Refusal :=
  floatWord s (.fadd dbl r sd sa sb) r dbl sd fun s m => (scalarNum s dbl (s.rs sa)).add (scalarNum s dbl (s.rs sb)) m

/-- R116. -/
def execFsub (dbl : Bool) (r : Rnd) (sd sa sb : SReg) (s : State) : Host.Outcome State Fault Refusal :=
  floatWord s (.fsub dbl r sd sa sb) r dbl sd fun s m => (scalarNum s dbl (s.rs sa)).add (scalarNum s dbl (s.rs sb)).negate m

/-- R116. -/
def execFmul (dbl : Bool) (r : Rnd) (sd sa sb : SReg) (s : State) : Host.Outcome State Fault Refusal :=
  floatWord s (.fmul dbl r sd sa sb) r dbl sd fun s _ => (scalarNum s dbl (s.rs sa)).mul (scalarNum s dbl (s.rs sb))

/-- R116. -/
def execFdiv (dbl : Bool) (r : Rnd) (sd sa sb : SReg) (s : State) : Host.Outcome State Fault Refusal :=
  floatWord s (.fdiv dbl r sd sa sb) r dbl sd fun s _ => (scalarNum s dbl (s.rs sa)).div (scalarNum s dbl (s.rs sb))

/-- R116. -/
def execFsqrt (dbl : Bool) (r : Rnd) (sd sa : SReg) (s : State) : Host.Outcome State Fault Refusal :=
  floatWord s (.fsqrt dbl r sd sa) r dbl sd fun s _ => (scalarNum s dbl (s.rs sa)).sqrt

/-- R116. -/
def execFfma (dbl : Bool) (r : Rnd) (sd sa sb sc : SReg) (s : State) : Host.Outcome State Fault Refusal :=
  floatWord s (.ffma dbl r sd sa sb sc) r dbl sd fun s m =>
    (scalarNum s dbl (s.rs sa)).fma (scalarNum s dbl (s.rs sb)) (scalarNum s dbl (s.rs sc)) m

/-- FMIN and FMAX: the chosen operand, with NV for a signalling NaN (R50, R116). -/
def minMaxWord (s : State) (i : Instr) (dbl : Bool) (sd sa sb : SReg) (op : FNum → FNum → FNum) :
    Host.Outcome State Fault Refusal :=
  word s i fun s =>
    let x := scalarNum s dbl (s.rs sa)
    let y := scalarNum s dbl (s.rs sb)
    s.setF sd (BitVec.ofNat 64 (roundTo (scalarFmt dbl) ⟨false, false⟩ (op x y) .rne 0).1) (sigFlags [x, y])

/-- R116. -/
def execFmin (dbl : Bool) (sd sa sb : SReg) (s : State) : Host.Outcome State Fault Refusal :=
  minMaxWord s (.fmin dbl sd sa sb) dbl sd sa sb FNum.min

/-- R116. -/
def execFmax (dbl : Bool) (sd sa sb : SReg) (s : State) : Host.Outcome State Fault Refusal :=
  minMaxWord s (.fmax dbl sd sa sb) dbl sd sa sb FNum.max

/-- The truth of a condition of FCMP (R117). -/
def FCond.holds (c : FCond) (x y : FNum) : Bool :=
  match c with
  | .eq => x.eq y
  | .lt => x.lt y
  | .le => !x.isNan && !y.isNan && !y.lt x
  | .un => x.isNan || y.isNan
  | .ne => !x.eq y

/-- NV of a condition of FCMP (R117). -/
def FCond.flags (c : FCond) (x y : FNum) : FpFlags :=
  match c with
  | .lt | .le => flagIf (x.isNan || y.isNan) flagNV
  | _ => sigFlags [x, y]

/-- R117. -/
def execFcmp (c : FCond) (dbl : Bool) (sd sa sb : SReg) (s : State) : Host.Outcome State Fault Refusal :=
  word s (.fcmp c dbl sd sa sb) fun s =>
    let x := scalarNum s dbl (s.rs sa)
    let y := scalarNum s dbl (s.rs sb)
    s.setF sd (bit (FCond.holds c x y) 64) (FCond.flags c x y)

/-- A value of a kind as FCVT reads it (R118). -/
def readKind (s : State) (k : CvtKind) (x : Word) : FNum :=
  match k with
  | .s => scalarNum s false x
  | .d => scalarNum s true x
  | .w => .ofInt (x.extractLsb' 0 32).toInt
  | .wu => .ofInt (x.extractLsb' 0 32).toNat
  | .l => .ofInt x.toInt
  | .lu => .ofInt x.toNat

/-- A number written as a kind, with its flags (R55, R56, R118). -/
def writeKind (ctl : FpCtl) (k : CvtKind) (x : FNum) (m : Rnd) (u : Nat) : Word × FpFlags :=
  match k with
  | .s => let r := roundTo fmtF32 ctl x m u; (BitVec.ofNat 64 r.1, r.2)
  | .d => let r := roundTo fmtF64 ctl x m u; (BitVec.ofNat 64 r.1, r.2)
  | .w => let r := roundInt (-2 ^ 31) (2 ^ 31 - 1) x m u; (wordOfInt r.1, r.2)
  | .wu => let r := roundInt 0 (2 ^ 32 - 1) x m u; (wordOfInt r.1, r.2)
  | .l => let r := roundInt (-2 ^ 63) (2 ^ 63 - 1) x m u; (wordOfInt r.1, r.2)
  | .lu => let r := roundInt 0 (2 ^ 64 - 1) x m u; (wordOfInt r.1, r.2)

/-- R118. -/
def execFcvt (dst src : CvtKind) (r : Rnd) (sd sa : SReg) (s : State) : Host.Outcome State Fault Refusal :=
  roundWord s (.fcvt dst src r sd sa) r fun s m u =>
    let x := readKind s src (s.rs sa)
    let y := writeKind (fpCtl s.hart.regs.fpctl) dst x m u
    s.setF sd y.1 (sigFlags [x] ||| y.2)

end Sys2Proof.Machine
end

