-- ==== Sys2Proof/Machine/System.lean ====
section
/-! DEFINITION. System words: traps and their return (R204, R207, R210, R215), EVWAIT, HALT, PTINV, CAPFENCE, CAPTEST, BBOX
and TSTAMP (R216 to R223), VSETL (R128), the mode words (R183), and the words on scheduling (R384, R385). -/

namespace Sys2Proof.Machine

/-! ## Traps -/

/-- R215: the software trap, which returns to the next word. -/
def execTrap (imm : BitVec 8) (s : State) : Host.Outcome State Fault Refusal :=
  word s (.trap imm) fun s => .ok (s.takeTrap 0x1C (imm.setWidth 64) (s.hart.pc + 4))

/-- R90: a word, member or header that is no instruction, with its TVAL. -/
def execIllegalWord (tval : Word) (s : State) : Host.Outcome State Fault Refusal := .next (s.takeTrap 0x10 tval s.hart.pc)

/-- R206: the pending asynchronous cause taken at a boundary at level 0, 0x30 first. -/
def execAsyncTrap (s : State) : Host.Outcome State Fault Refusal :=
  if s.hart.tlevel ≠ 0 then .next s
  else match s.hart.async30, s.hart.async31 with
    | some v, _ => .next ((s.modHart fun h => { h with async30 := none }).takeTrap 0x30 v s.hart.pc)
    | none, some v => .next ((s.modHart fun h => { h with async31 := none }).takeTrap 0x31 v s.hart.pc)
    | none, none => .next s

/-- R210. -/
def execTret (s : State) : Host.Outcome State Fault Refusal :=
  word s .tret fun s =>
    if s.hart.tlevel = 0 then .trap 0x10 (wordOf .tret)
    else match s.hart.tret with
      | some h =>
        let t : State := { s with hart := h }
        .ok (if s.hart.asksReplace then t.askPreempt h.key true else t)
      | none => .trap 0x10 (wordOf .tret)

/-! ## Waits -/

/-- R217. -/
def execEvwait (sd sa : SReg) (s : State) : Host.Outcome State Fault Refusal :=
  word s (.evwait sd sa) fun s =>
    if s.hart.event then (s.modHart fun h => { h with event := false }).setLate sd 1
    else match s.hart.phase with
      | .returned _ _ => s.setLate sd 0
      | .event d => .wait s (.event d)
      | _ => .wait s (.event (if s.rs sa = 0 then none else some (s.now.toNat + (s.rs sa).toNat)))

/-- R217: the time that a hart in EVWAIT named has passed. -/
def execEvwaitTimeout (h : Nat) (s : State) : Host.Outcome State Fault Refusal :=
  .next (s.modCtx h fun x =>
    match x.phase with
    | .event (some d) => if d ≤ (s.time x.stk).toNat then { x with phase := .returned 0 [] } else x
    | _ => x)

/-- HALT reported to the service core of the stack (R218). -/
def State.reportHalt (s : State) : State :=
  if s.hart.service then s else s.modStack s.stk fun t => { t with halts := t.halts ++ [s.hart.loc] }

/-- R218. -/
def execHalt (s : State) : Host.Outcome State Fault Refusal :=
  word s .halt fun s =>
    match s.hart.phase with
    | .released _ => .ok s.next
    | .halted => .wait s .halted
    | _ => .wait s.reportHalt .halted

/-! ## Translation, capabilities, records -/

/-- R219. -/
def execPtinv (sa : SReg) (s : State) : Host.Outcome State Fault Refusal :=
  word s (.ptinv sa) fun s =>
    .ok (s.modCore s.hart.core fun c => { c with tlb := ptinvTlb c.tlb (if sa = 0 then none else some (s.rs sa)) }).next

/-- A fence of the selected context's core with its event (R220, R370). -/
def State.fenceOwn (s : State) (src : Nat) (bits : Word) : State :=
  let h := s.hart
  let bits := bits &&& (s.core h.core).capmask
  if bits = 0 then s
  else (s.clearCaps h.core bits).fenceEvent h.stk (if h.service then 63 else h.coreNo) h.slotNo 0 h.loc src
    (if h.service then 0 else h.coreNo) bits

/-- R220. -/
def execCapfence (sd sa : SReg) (s : State) : Host.Outcome State Fault Refusal :=
  word s (.capfence sd sa) fun s =>
    let x := (s.core s.hart.core).capmask &&& ~~~(s.rs sa)
    if s.belowLimit sd x then .trap 0x1B x else .ok ((s.fenceOwn 1 (s.rs sa)).ws sd x).next

/-- The end of a test of `bits` of core `g` (R221, R370): result event, TESTCNT, the times of the last pass; failed bits
are fenced and reported. `h` is the context that ran CAPTEST. -/
def State.endTest (s : State) (g : Nat) (h : Option Hart) (bits failed : Word) : State :=
  let k := coreStack g
  let n := coreNumber g
  let slot := match h with | some h => h.slotNo | none => 0
  let hid := match h with | some h => h.loc | none => 0
  let s := s.pfb k 0x04 (coreAgent g) slot 0 hid (BitVec.ofNat 64 (n * 256 + (if failed = 0 then 1 else 0))) bits
  let s := s.count k 0x20 1
  let s := s.modCore g fun c =>
    { c with lastPass := (onesList (bits &&& ~~~failed)).foldl (fun t b => t.put b (s.time k)) c.lastPass }
  if failed = 0 then s
  else ((s.clearCaps g failed).fenceEvent k (coreAgent g) slot 0 hid 2 n failed).suspectReport g failed

/-- A test runs on a core. -/
def State.testing (s : State) (g : Nat) : Bool :=
  (s.core g).testRun.isSome ||
  s.harts.any fun h => !(h.key == s.hart.key) && h.core == g && match h.phase with | .testing _ _ => true | _ => false

/-- R221: the bits that stand in sa and CAPMASK when the test begins are tested; its end gives them back with those that failed. -/
def execCaptest (sd sa : SReg) (s : State) : Host.Outcome State Fault Refusal :=
  word s (.captest sd sa) fun s =>
    match s.hart.phase with
    | .returned _ xs =>
      let bits := xs.getD 1 0
      let failed := bits &&& xs.headD 0
      (s.endTest s.hart.core (some s.hart) bits failed).setLate sd failed
    | .testing u b => .wait s (.testing u b)
    | _ =>
      if s.testing s.hart.core then .wait s .testWait
      else .wait s (.testing (s.now.toNat + Config.testTicks) (s.rs sa &&& (s.core s.hart.core).capmask))

/-- R222. -/
def execBbox (sa sb : SReg) (s : State) : Host.Outcome State Fault Refusal :=
  word s (.bbox sa sb) fun s => .ok (s.pfbHart s.hart 0x20 (s.rs sa) (s.rs sb &&& 0xFFFFFFFFFFFF)).next

/-- R223. -/
def execTstamp (sd : SReg) (s : State) : Host.Outcome State Fault Refusal :=
  word s (.tstamp sd) fun s => s.setS sd s.now

/-! ## Lengths and modes -/

/-- The end of VSETL: VLEN, FTRIM and sd (R128). -/
def State.setLength (s : State) (sd : SReg) (x : Nat) : State :=
  ((s.modRegs fun r => { r with vlen := x, ftrim := 0xFFFF }).ws sd (BitVec.ofNat 64 x)).next

/-- The length that `n` clusters give to a request under a tag. -/
def lengthFor (n : Nat) (t : Tag) (want : Word) : Nat := Nat.min want.toNat (4 * n * 1024 / tagWidth t)

/-- The clusters a code asks for. -/
def Clus.want (c : Clus) (cur : Nat) : Nat :=
  match c with
  | .keep => cur | .c1 => 1 | .c2 => 2 | .c4 => 4 | .c8 => 8 | .c16 => 16

/-- The fragment-state check (R128). -/
def fragCheck (s : State) (want : Nat) (k : Res State) : Res State :=
  check (want == popc s.hart.regs.grant || s.hart.frags.isEmpty) 0x19 (BitVec.ofNat 64 s.hart.frags.length) k

/-- R128: the form of one hart; a hart of a gang may name no other count than its gang's. -/
def execVsetl (sd sa : SReg) (tag : Tag) (c : Clus) (s : State) : Host.Outcome State Fault Refusal :=
  let cur := popc s.hart.regs.grant
  let want := Clus.want c cur
  word s (.vsetl sd sa tag c) (fun s =>
    fragCheck s want <|
    let free := (s.core s.hart.core).freeClusters
    let n := grantCount s.hart.regs.grant free want
    let x := lengthFor n tag (s.rs sa)
    if s.belowLimit sd (BitVec.ofNat 64 x) then .trap 0x1B (BitVec.ofNat 64 x)
    else .ok ((if n = cur then s else s.regrant s.hart.key (growTo s.hart.regs.grant free n)).setLength sd x))
    (!s.hart.inGang || want == cur)

/-- R128: the gang form. -/
def execVsetlG (sd sa : SReg) (tag : Tag) (c : Clus) (s : State) : Host.Outcome State Fault Refusal :=
  let want := Clus.want c (popc s.hart.regs.grant)
  word s (.vsetlG sd sa tag c) (fun s =>
    match s.hart.phase, s.hart.passed with
    | .arrived b, _ => .wait s (.arrived b)
    | .released n, _ => .ok (s.setLength sd (lengthFor n tag (s.rs sa)))
    | _, some n => .ok ((s.modHart fun h => { h with passed := none }).setLength sd (lengthFor n tag (s.rs sa)))
    | _, none =>
      if s.hart.rendezvous then .wait s (.arrived true) else
      fragCheck s want <|
      let g := s.hart.gangKey
      let s := s.modHart fun h => { h with phase := .arrived true, rendezvous := true }
      let s := (s.modGang g fun x => { x with wants := x.wants.put s.hart.key want }).checkGrant g
      match s.hart.phase with
      | .released n => .ok (s.setLength sd (lengthFor n tag (s.rs sa)))
      | p => .wait s p) (s.hart.inGang && !(sd == 2))

/-- R183. -/
def execMxon (s : State) : Host.Outcome State Fault Refusal :=
  word s .mxon fun s =>
    let l := s.hart.lanes
    .ok (s.modRegs fun r => { r with
      savedVlen := r.vlen, vlen := 256 * l, ftrim := 0xFFFF, acc := [], badAcc := [], tshm := Nat.min 32 (2 * l), tshn := 16 * l
      tshk := 16, mxpcmd := 0, mode := true }).next

/-- R183. -/
def execMxoff (s : State) : Host.Outcome State Fault Refusal :=
  word s .mxoff fun s =>
    .ok (s.modRegs fun r => { r with vlen := r.savedVlen, ftrim := 0xFFFF, mxpcmd := 0, acc := [], mode := false }).next

/-! ## Scheduling -/

/-- R384. -/
def execNpbegin (s : State) : Host.Outcome State Fault Refusal :=
  word s .npbegin fun s =>
    .ok (s.modHart fun h => if h.npSince.isSome then h else { h with npSince := some s.now.toNat }).next

/-- R384. -/
def execNpend (s : State) : Host.Outcome State Fault Refusal :=
  word s .npend fun s => .ok (s.modHart fun h => { h with npSince := none }).next

/-- R39, R384: the bound of a non-preemptible region is reached. -/
def execOverrunFault (h : Nat) (s : State) : Host.Outcome State Fault Refusal :=
  .next (s.modCtx h fun x =>
    match x.npSince with
    | some t =>
      if t + Config.npBound ≤ (s.time x.stk).toNat then { x with npSince := none, async30 := some (s.time x.stk) } else x
    | none => x)

/-- R385. -/
def execYield (s : State) : Host.Outcome State Fault Refusal :=
  word s .yield fun s =>
    .ok ((s.modCore s.hart.core fun c => { c with rr := s.hart.slotNo }).modHart
      fun h => { h with readyTicks := 0, skip := true }).next

end Sys2Proof.Machine
end

