-- ==== Sys2Proof/Machine/TestRun.lean ====
section
/-! DEFINITION. The in-field test of a core (R221, R370). -/

namespace Sys2Proof.Machine

/-- Ticks of TIME between two tests of a core (R370). -/
def testPeriod : Nat := 6000000000

/-- A CAPTEST runs on the core. -/
def State.captesting (s : State) (g : Nat) : Option Hart :=
  s.harts.find? fun h => h.core == g && match h.phase with | .testing _ _ => true | _ => false

/-- The scheduled test of a core falls due. -/
def State.testFalls (s : State) (g : Nat) : Bool :=
  let c := s.core g
  c.testRun.isNone && decide (c.testDue ≤ (s.time (g / 48)).toNat) && (s.captesting g).isNone && s.bringUp == 6

/-- R370: a test of every bit set in CAPMASK begins; it counts ticks on which no hart of the core is Ready. -/
def execInfieldTestDue (core : Nat) (s : State) : Host.Outcome State Fault Refusal :=
  ifUnit (isCore core) <|
  if s.testFalls core then s.modCore core fun c => { c with testRun := some (Config.testTicks, c.capmask) } else s

/-- R370, R221: the test of a core ends; `failed` are the bits that did not pass. -/
def execInfieldTestEnd (core : Nat) (failed : Word) (s : State) : Host.Outcome State Fault Refusal :=
  ifUnit (decide (core < 1176)) <|
  match (s.core core).testRun with
  | some (0, bits) =>
    (s.endTest core none bits (bits &&& failed)).modCore core fun c =>
      { c with testRun := none, testBlock := false, testDue := c.testDue + testPeriod }
  | _ =>
    match s.captesting core with
    | some h => s.modCtx h.key fun x =>
        match x.phase with
        | .testing u b =>
          if u ≤ (s.time x.stk).toNat then { x with phase := .returned 0 [failed, b], tried := false } else x
        | _ => x
    | none => s

/-- A test that has not ended 1 s after it fell due, on a core that no reservation holds. -/
def State.testOverdue (s : State) (g : Nat) : Bool :=
  let c := s.core g
  c.testRun.isSome && decide (c.testDue + 600000000 ≤ (s.time (g / 48)).toNat) && !c.testBlock &&
  ((s.stack (g / 48)).reservationOf (g % 48)).isNone

/-- R370: placement puts no new context on the core until the test ends. -/
def execInfieldTestDeadline (core : Nat) (s : State) : Host.Outcome State Fault Refusal :=
  ifUnit (isCore core) (if s.testOverdue core then s.modCore core fun c => { c with testBlock := true } else s)

end Sys2Proof.Machine
end

