-- ==== Sys2Proof/Machine/Tick.lean ====
section
/-! DEFINITION. The tick of the module clock (R2, R36, R387, R393). -/

namespace Sys2Proof.Machine

/-- Every stack's copy of TIME advances: by one, by two to catch up, or not at all (R387). -/
def State.advanceTime (s : State) : State :=
  { s with
    ticks := s.ticks + 1
    skew := s.stackTab.foldl (fun k t => if t.2.adjust = 0 then k else k.put t.1 (k.look t.1 0 + BitVec.ofInt 64 t.2.adjust)) s.skew
    stackTab := s.stackTab.map fun t => (t.1, { t.2 with heldTick := decide (t.2.adjust < 0), adjust := 0 }) }

/-- The governor holds a context in Waiting: a migration waits for its non-preemptible region, on an odd TIME (R376). -/
def State.governed (s : State) (h : Hart) : Bool := h.migrate.isSome && h.npSince.isSome && (s.time h.stk).toNat % 2 == 1

/-- The next instruction of the context can issue (R20). -/
def State.isReady (s : State) (h : Hart) : Bool := h.slot == .ready && h.phase == .run && !h.cv.active && !s.governed h

/-- A context at the end of a tick: one that was Ready and did not issue has aged (R36), and YIELD holds a hart back for one
tick (R385). -/
def Hart.age (h : Hart) (ready issued : Bool) : Hart :=
  { h with tried := false
           readyTicks := if ready && !issued then h.readyTicks + 1 else h.readyTicks
           skip := h.skip && issued }

/-- The context issued on this tick. -/
def State.issuedNow (s : State) (h : Hart) : Bool := (s.core h.core).issued && (s.core h.core).rr == h.slotNo

/-- The cores at the end of a tick: ticks with a Ready hart and no issue are counted, tests count ticks without one. -/
def State.ageCores (s : State) : State :=
  let busy := ((s.harts.filter s.isReady).map Hart.core).eraseDups
  let lost := busy.filter fun g => !(s.core g).issued && decide (g < 1152)
  let s := lost.foldl (fun s g => s.countCore g 1) s
  { s with cores := s.cores.map fun c => (c.1, { c.2 with
      issued := false
      testRun := match c.2.testRun with
        | some (n, b) => some (if busy.contains c.1 then n else n - 1, b)
        | none => none }) }

/-- Cores whose other contexts had their time to be saved are reset (R209). -/
def State.dueResets (s : State) : State :=
  (s.cores.filter fun c => match c.2.resetWait with
    | some t => decide (t ≤ (s.time (c.1 / 48)).toNat) || !(s.harts.any fun h => !h.service && h.core == c.1 && h.resident)
    | none => false).foldl (fun s c => s.startCoreReset c.1 c.2.resetCause c.2.resetEpc) s

/-! ## Inputs that the opcode table does not name -/

/-- A view-cache sector with an uncorrectable error is dropped (R242); the next access fetches it again. -/
def State.viewError (s : State) (g sec : Nat) : State :=
  if !((s.core g).view.any fun x => x.addr == sec) then s
  else (s.modCore g fun c => { c with view := c.view.filter fun x => !(x.addr == sec) }).pfb (g / 48) 0x07 (g % 48) 0 0 0
    (BitVec.ofNat 64 sec) 0

/-- A stack-cache sector with an uncorrectable error: a clean one is dropped, with a corrected event; a dirty one is poisoned and
written back with its poison (R242). -/
def State.cacheError (s : State) (k sec : Nat) : State :=
  let b := sec / 64 % 8
  match (s.stack k).cache.find? fun c => c.line == sec / 512 && c.valid.getLsbD b with
  | none => s
  | some c =>
    let off (x : BitVec 8) : BitVec 8 := x &&& ~~~(1#8 <<< b)
    if c.dirty.getLsbD b then
      let clean (x : CLine) : CLine := if x.line = c.line then { x with dirty := off x.dirty } else x
      let s : State := s.modStack k fun t => { t with cache := t.cache.map clean }
      let s : State := { s with poison := if s.poison.contains sec then s.poison else sec :: s.poison }
      s.count k 0x08 1
    else
      let drop (x : CLine) : CLine := if x.line = c.line then { x with valid := off x.valid } else x
      (s.modStack k fun t => { t with cache := (t.cache.map drop).filter (·.valid != 0) }).pfb k 0x07 60 0 0 0 (BitVec.ofNat 64 sec) 0

/-- Firmware retires a group at bring-up (R306). -/
def State.firmwareRetire (s : State) (k g : Nat) : State :=
  if s.bringUp = 6 then s else s.modStack k fun t => { t with groups := t.groups.put g { (t.groups.look g {}) with retired := true } }

/-- A configuration request at a host port: answered, or put off until bring-up has ended (R445). -/
def State.configRequest (s : State) (p : Nat) : State :=
  if s.stopped || s.inReset || s.perst.contains p then s else s.send (if s.bringUp = 6 then .config p else .retry p)

/-- An input is received. -/
def receiveInput (i : Inp) (s : State) : Host.Outcome State Fault Refusal :=
  match i with
  | .singleBit k => ifUnit (isStack k) (s.count k 0 1)
  | .viewError g sec => ifUnit (isCore g) (s.viewError g (sectorOf sec))
  | .cacheError k sec => ifUnit (isStack k) (s.cacheError k (sectorOf sec))
  | .groupRetired k g => ifUnit (isStack k && decide (g < 3072)) (s.firmwareRetire k g)
  | .modrst low => .next (s.holdReset low s.powerLow)
  | .powerOk high => .next (s.holdReset s.modrst (!high))
  | .sensor n high => .next (s.sensor n high)
  | .configRequest p => ifUnit (decide (p < 2)) (s.configRequest p)
  | .peerPacket p bs => ifUnit (decide (p < 8)) (s.peerPacket p bs)
  | .channelHang k d => ifUnit (isStack k && decide (d < 12)) (s.hangChannel k d)
  | .bondOpen k c x b => ifUnit (isStack k) (s.openBond k c x b)
  | .imageDamage k => ifUnit (isStack k) (if s.bringUp = 2 then { s with badCopies := k :: s.badCopies } else s)
  | .stepFailure => .next (if 1 ≤ s.bringUp ∧ s.bringUp ≤ 4 ∧ !s.failed then s.failBringUp else s)

/-- An input that reaches the module while its clocks are stopped or it is held in reset. -/
def Inp.standby : Inp → Bool
  | .modrst _ | .powerOk _ | .sensor .. | .bondOpen .. => true
  | _ => false

/-- R387: one period of the reference clock; what waits on its way tries again, before what was sent later. -/
def execTick (s : State) : Host.Outcome State Fault Refusal :=
  .next <|
  if s.stopped || s.inReset then s
  else
    let s := s.mapCtx fun h => h.age (s.isReady h) (s.issuedNow h)
    let s := s.ageCores.advanceTime.dueResets.keyChunks
    let s := (s.cores.filter fun c => !c.2.ahead.isEmpty).foldl (fun s c => s.fetchLater c.1) s
    let s := ((s.stackTab.filter fun t => !t.2.arrivals.isEmpty).foldl (fun s t => s.serveArrivals t.1) s).reportPuts
    let s : State := { s with agenda := s.stalled.map Sched.msg ++ s.agenda, stalled := [] }
    if s.stepDue then s.endStep else s

end Sys2Proof.Machine
end

