-- ==== Sys2Proof/Machine/VecCross.lean ====
section
/-! DEFINITION. Cross-lane members (R168 to R182). -/

namespace Sys2Proof.Machine

/-! ## Live positions (R169) -/

/-- VLEN as it bounds positions of width `w` (R184). -/
def State.vlenOf (s : State) (w : Nat) : Nat :=
  if s.hart.regs.mode then Nat.min s.hart.regs.vlen (s.positions w) else s.hart.regs.vlen

/-- A position is live. -/
def State.isLive (s : State) (g : Gov) (w : Nat) (j : Int) : Bool :=
  decide (0 ≤ j) && decide (j < s.vlenOf w) && s.isActive g j.toNat

/-- The bits of a position of a register, none where it is not live. -/
def State.source (s : State) (g : Gov) (v : VReg) (j : Int) : Option Nat :=
  let r := s.src.rv v
  let w := tagWidth r.tag
  if s.isLive g w j then some (r.elem s.hart.lanes w j.toNat) else none

/-- What a destination position receives (R169): the bits, or with .keep its own where the width stays, or zero. -/
def State.received (s : State) (vd : VReg) (t : Tag) (keep : Bool) (e : Nat) (x : Option Nat) : Nat :=
  match x with
  | some x => x
  | none =>
    let old := s.src.rv vd
    if keep && tagWidth old.tag == tagWidth t then old.elem s.hart.lanes (tagWidth t) e else 0

/-- A member that moves element bits (R170): `ok` are its tags, `f` gives the source of each active position. A tern
slot moves whole, bits [3:2] with it (R48; notes/assumptions/125.md). -/
def moveMember (s : State) (i : Instr) (g : Gov) (vd va : VReg) (vb : Option VReg) (ok : Tag → Tag → Bool) (keep : Bool)
    (f : State → Nat → Option Nat) : Host.Outcome State Fault Refusal :=
  member s i fun s =>
    let t := (s.src.rv va).tag
    let tb := match vb with | some v => (s.src.rv v).tag | none => t
    let reads := (va :: vb.toList).map fun r => (r, (s.src.rv r).tag)
    withTag s (if ok t tb then some t else none) (tagCode t) (match vb with | some _ => tagCode tb | none => 0x1F) 0x1F fun t =>
    stage2 s g reads vd t false .dyn fun _ act =>
    s.finishV g vd t 41 act false fun e _ => (s.received vd t keep e (f s e), 0)

/-- Element e of an index vector as a position (R171). -/
def State.index (s : State) (v : VReg) (e : Nat) : Int := ((s.src.rv v).int s.hart.lanes e).1

/-! ## Permutes, slides, broadcast, interleaving (R171, R172) -/

/-- R171. -/
def execVperm (g : Gov) (vd va vb : VReg) (keep : Bool) (s : State) : Host.Outcome State Fault Refusal :=
  moveMember s (.vperm g vd va vb keep) g vd va (some vb) (fun t tb => !tagMx t && tagInt tb) keep
    fun s e => s.source g va (s.index vb e)

/-- R171. -/
def execVslu (g : Gov) (vd va : VReg) (sk : SReg) (keep : Bool) (s : State) : Host.Outcome State Fault Refusal :=
  moveMember s (.vslu g vd va sk keep) g vd va none (fun t _ => !tagMx t) keep
    fun s e => s.source g va ((e : Int) - (s.src.rs sk).toNat)

/-- R171. -/
def execVsld (g : Gov) (vd va : VReg) (sk : SReg) (keep : Bool) (s : State) : Host.Outcome State Fault Refusal :=
  moveMember s (.vsld g vd va sk keep) g vd va none (fun t _ => !tagMx t) keep
    fun s e => s.source g va ((e : Int) + (s.src.rs sk).toNat)

/-- R171. -/
def execVbcast (g : Gov) (vd va : VReg) (sk : SReg) (keep : Bool) (s : State) : Host.Outcome State Fault Refusal :=
  moveMember s (.vbcast g vd va sk keep) g vd va none (fun t _ => !tagMx t) keep
    fun s _ => s.source g va (s.src.rs sk).toNat

/-- R172. -/
def execVzip (g : Gov) (vd va vb : VReg) (hi keep : Bool) (s : State) : Host.Outcome State Fault Refusal :=
  moveMember s (.vzip g vd va vb hi keep) g vd va (some vb) (fun t tb => !tagMx t && t == tb) keep fun s e =>
    let n := s.vlenOf (tagWidth (s.src.rv va).tag)
    let i := e / 2 + (if hi then (n + 1) / 2 else 0)
    s.source g (if e % 2 = 0 then va else vb) i

/-- R172. -/
def execVunzip (g : Gov) (vd va vb : VReg) (odd keep : Bool) (s : State) : Host.Outcome State Fault Refusal :=
  moveMember s (.vunzip g vd va vb odd keep) g vd va (some vb) (fun t tb => !tagMx t && t == tb) keep fun s e =>
    let n := s.vlenOf (tagWidth (s.src.rv va).tag)
    let j := 2 * e + (if odd then 1 else 0)
    if j < n then s.source g va j else s.source g vb ((j : Int) - n)

/-! ## Scatter, pack and unpack (R173, R174) -/

/-- The winner of each position: (position, element), a later element replacing an earlier one. -/
def winners (idx : Nat → Int) (n : Nat) (act : List Nat) : List (Nat × Nat) :=
  act.foldl (fun l e => if 0 ≤ idx e ∧ idx e < n then (idx e).toNat |> fun j => (j, e) :: l.filter (fun x => !(x.1 == j)) else l) []

/-- R173. -/
def execVput (g : Gov) (vd va vb : VReg) (px : PReg) (s : State) : Host.Outcome State Fault Refusal :=
  member s (.vput g vd va vb px) fun s =>
    let ra := s.src.rv va
    let rb := s.src.rv vb
    withTag s (if !tagMx ra.tag && tagInt rb.tag then some ra.tag else none) (tagCode ra.tag) (tagCode rb.tag) 0x1F fun t =>
    stage2 s g [(va, ra.tag), (vb, rb.tag)] vd t false .dyn fun _ act =>
    let n := Nat.min s.hart.regs.vlen s.hart.regs.ftrim.toNat
    let won := winners (s.index vb) n act
    checkedBy s 41 (if act.isEmpty then [] else List.range n) fun s fix =>
      let w := tagWidth t
      let lost (e : Nat) : Bool :=
        act.contains e && decide (0 ≤ s.index vb e ∧ s.index vb e < n) && !won.contains ((s.index vb e).toNat, e)
      let s' := s.writeV g vd t (won.map fun x => (x.1, fix w x.1 (ra.elem s.hart.lanes w x.2))) keepScales
      if px = 0 || act.isEmpty then s'
      else s'.modRegs fun r => r.wp px
        (((List.range n).filter fun e => fix 1 e (if lost e then 1 else 0) == 1).foldl (fun b e => putBits b e 1 1) 0)

/-- R174. -/
def execVcomp (g : Gov) (vd va : VReg) (sd : SReg) (s : State) : Host.Outcome State Fault Refusal :=
  member s (.vcomp g vd va sd) fun s =>
    let ra := s.src.rv va
    withTag s (if tagMx ra.tag then none else some ra.tag) (tagCode ra.tag) 0x1F 0x1F fun t =>
    stage2 s g [(va, t)] vd t false .dyn fun _ act =>
    let w := tagWidth t
    checkedRes s 41 (List.range act.length) false fun s fix =>
    (if sd = 0 || act.isEmpty then .ok s else s.memberS sd (BitVec.ofNat 64 act.length)).then fun s =>
    .ok (s.writeV g vd t (act.mapIdx fun k e => (k, fix w k (ra.elem s.hart.lanes w e))) keepScales)

/-- R174. -/
def execVexpd (g : Gov) (vd va : VReg) (s : State) : Host.Outcome State Fault Refusal :=
  member s (.vexpd g vd va) fun s =>
    let ra := s.src.rv va
    withTag s (if tagMx ra.tag then none else some ra.tag) (tagCode ra.tag) 0x1F 0x1F fun t =>
    stage2 s g [(va, t)] vd t false .dyn fun _ act =>
    let w := tagWidth t
    checkedBy s 41 act fun s fix =>
      s.writeV g vd t (act.mapIdx fun k e => (e, fix w e (ra.elem s.hart.lanes w k))) keepScales

/-! ## Reductions and scans (R175 to R177) -/

/-- The accumulation tag. -/
def accTag (op : RedOp) (t : Tag) : Option Tag :=
  match op with
  | .sum =>
    match t with
    | .int4 | .tern => some .int16
    | .uint4 => some .uint16
    | .int8 => some .int32
    | .uint8 => some .uint32
    | .int16 | .int32 | .int64 => some .int64
    | .uint16 | .uint32 | .uint64 => some .uint64
    | .e2m1 => some .fp16
    | .e4m3 | .e5m2 | .fp16 | .bf16 | .fp32 => some .fp32
    | .fp64 => some .fp64
    | _ => none
  | .min | .max => if tagMx t then none else some t
  | .and | .or | .xor => if tagInt t then some t else none

/-- A combine step rounds (R175). -/
def redRounds (op : RedOp) (a : Tag) : Bool := op == .sum && tagFloat a

/-- An element converted exactly into A: its bits, with NV for a tern code 10 or a signalling NaN. -/
def intoAcc (ctl : FpCtl) (a : Tag) (r : VRegS) (l e : Nat) : Nat × FpFlags :=
  if tagFloat a then
    let x := r.num ctl l e
    (encExact a x.1, x.2 ||| sigFlags [x.1])
  else
    let x := r.int l e
    ((encInt a false x.1).1, x.2)

/-- A combine step on bits of A. -/
def combine (ctl : FpCtl) (op : RedOp) (a : Tag) (sat : Bool) (m : Rnd) (x y u : Nat) : Nat × FpFlags :=
  if tagFloat a then
    let p := ((tagFmt a).read ctl x)
    let q := ((tagFmt a).read ctl y)
    match op with
    | .min => (encExact a (p.min q), 0)
    | .max => (encExact a (p.max q), 0)
    | _ =>
      let z := p.add q m
      let r := encNum ctl a z.1 m u
      (r.1, z.2 ||| r.2)
  else
    let p := (intVal a x).1
    let q := (intVal a y).1
    match op with
    | .sum => encInt a sat (p + q)
    | .min => encInt a false (min p q)
    | .max => encInt a false (max p q)
    | .and => (x &&& y, 0)
    | .or => (x ||| y, 0)
    | .xor => (x ^^^ y, 0)

/-- What a chain of combine steps carries: RNGS and the flags. -/
structure Steps where
  rngs : Word
  flags : FpFlags

/-- One combine step, drawing under stochastic rounding. -/
def Steps.run (k : Steps) (draws : Bool) (f : Nat → Nat × FpFlags) : Nat × Steps :=
  let x := if draws then rngStep k.rngs else k.rngs
  let y := f (rngDraw x)
  (y.1, { rngs := x, flags := k.flags ||| y.2 })

/-- One level of the tree of R63. -/
def treeLevel (draws : Bool) (f : Nat → Nat → Nat → Nat × FpFlags) : List (Option Nat) → Steps → List (Option Nat) × Steps
  | a :: b :: r, k =>
    match a, b with
    | some x, some y =>
      let z := k.run draws (f x y)
      let t := treeLevel draws f r z.2
      (some z.1 :: t.1, t.2)
    | none, b => let t := treeLevel draws f r k; (b :: t.1, t.2)
    | a, none => let t := treeLevel draws f r k; (a :: t.1, t.2)
  | l, k => (l, k)

/-- The tree: levels until one node is left. -/
def tree (draws : Bool) (f : Nat → Nat → Nat → Nat × FpFlags) : Nat → List (Option Nat) → Steps → Option Nat × Steps
  | 0, l, k => (l.headD none, k)
  | n + 1, l, k => let t := treeLevel draws f l k; tree draws f n t.1 t.2

/-- The smallest exponent of a power of two not below `n`. -/
def passesOf (n : Nat) : Nat := if n ≤ 1 then 0 else Nat.log2 (n - 1) + 1

/-- A chain of combine steps from a start. -/
def chainFold (draws : Bool) (f : Nat → Nat → Nat → Nat × FpFlags) : List Nat → Nat → Steps → Nat × Steps
  | [], x, k => (x, k)
  | y :: r, x, k => let z := k.run draws (f x y); chainFold draws f r z.1 z.2

/-- The scalar form of an element's bits (R176, R179): no value is read, so tern code 10 passes as its two bits (R170). -/
def scalarOf (t : Tag) (b : Nat) : Word :=
  if t = .tern then wordOfInt (signedOf 2 (b % 4))
  else if tagInt t && tagSigned t then wordOfInt (signedOf (tagWidth t) b) else BitVec.ofNat 64 b

/-- R175, R176; the combine steps are compared in every lane, and the output in lane 0 when that lane is under check (R181). -/
def execVred (g : Gov) (op : RedOp) (ord sat : Bool) (r : Rnd) (vd va vb : VReg) (sd : SReg) (s : State) :
    Host.Outcome State Fault Refusal :=
  member s (.vred g op ord sat r vd va vb sd) fun s =>
    let ra := s.src.rv va
    let rb := s.src.rv vb
    let l := s.hart.lanes
    let a := (accTag op ra.tag).filter fun a => !ord || rb.tag == a
    withTag s a (tagCode ra.tag) (if ord then tagCode rb.tag else 0x1F) 0x1F fun a =>
    formats s (ra.tag :: (if ord then [rb.tag] else []) ++ [a]) <|
    withMode s (redRounds op a) r fun m =>
    lengths s [(va, tagWidth ra.tag)] <|
    parity s (va :: (if ord then [vb] else [])) <|
    let act := s.actives g [tagWidth ra.tag]
    if act.isEmpty then .ok s
    else
      let draws := redRounds op a && m == .sr
      let f := combine s.ctl op a sat m
      let xs := act.map fun e => (e, intoAcc s.ctl a ra l e)
      let k : Steps := { rngs := s.hart.regs.rngs, flags := xs.foldl (fun f x => f ||| x.2.2) 0 }
      let res : Nat × Steps :=
        if ord then chainFold draws f (xs.map fun x => x.2.1) (rb.elem l (tagWidth a) 0) k
        else
          let d := passesOf s.hart.regs.vlen
          let t := tree draws f d ((List.range (2 ^ d)).map fun e => if s.isActive g e then some (intoAcc s.ctl a ra l e).1 else none) k
          (t.1.getD 0, t.2)
      checkedRes s 42 act true fun s fix =>
      let x := fix (tagWidth a) 0 res.1
      (if sd = 0 then .ok s else s.memberS sd (scalarOf a x)).then fun s =>
      .ok (((s.raise res.2.flags).modRegs fun r => { r with rngs := res.2.rngs }).modRegs fun r => r.wv vd
        { (s.src.rv vd) with bits := BitVec.ofNat 65536 x, tag := a, segs := 1, dirty := true })

/-- The identity of an operation (R175). -/
def identity (op : RedOp) (a : Tag) : Nat :=
  match op with
  | .sum | .or | .xor => 0
  | .and => 2 ^ tagWidth a - 1
  | .min =>
    if tagFloat a then (if (tagFmt a).kind = .ieee then (tagFmt a).infCode else (tagFmt a).maxCode)
    else (encInt a false (tagHi a)).1
  | .max =>
    if tagFloat a then (tagFmt a).signed true (if (tagFmt a).kind = .ieee then (tagFmt a).infCode else (tagFmt a).maxCode)
    else (encInt a false (tagLo a)).1

/-- The values of an inclusive scan: for each element the combination up to it (R177). -/
def scanIn (draws : Bool) (f : Nat → Nat → Nat → Nat × FpFlags) :
    Option Nat → List (Nat × Nat) → Steps → List (Nat × Nat) × Steps
  | _, [], k => ([], k)
  | acc, (e, x) :: r, k =>
    let z : Nat × Steps := match acc with
      | none => (x, k)
      | some y => k.run draws (f y x)
    let t := scanIn draws f (some z.1) r z.2
    ((e, z.1) :: t.1, t.2)

/-- The values of an exclusive scan: for each element the combination of those below it, which begins from the identity
(R177). -/
def scanEx (draws : Bool) (f : Nat → Nat → Nat → Nat × FpFlags) (idn : Nat) :
    Option Nat → List (Nat × Nat) → Steps → List (Nat × Nat) × Steps
  | _, [], k => ([], k)
  | acc, (e, _) :: [], k => ([(e, acc.getD idn)], k)
  | acc, (e, x) :: r, k =>
    let z := k.run draws (f (acc.getD idn) x)
    let t := scanEx draws f idn (some z.1) r z.2
    ((e, acc.getD idn) :: t.1, t.2)

/-- R177. -/
def execVscan (g : Gov) (op : RedOp) (ex sat : Bool) (r : Rnd) (vd va : VReg) (s : State) : Host.Outcome State Fault Refusal :=
  member s (.vscan g op ex sat r vd va) fun s =>
    let ra := s.src.rv va
    withTag s (accTag op ra.tag) (tagCode ra.tag) 0x1F 0x1F fun a =>
    stage2 s g [(va, ra.tag)] vd a (redRounds op a) r fun m act =>
    let xs := act.map fun e => (e, intoAcc s.ctl a ra s.hart.lanes e)
    let k : Steps := { rngs := s.hart.regs.rngs, flags := xs.foldl (fun f x => f ||| x.2.2) 0 }
    let draws := redRounds op a && m == .sr
    let f := combine s.ctl op a sat m
    let vs := xs.map fun x => (x.1, x.2.1)
    let res := if ex then scanEx draws f (identity op a) none vs k else scanIn draws f none vs k
    checkedBy s 42 act (fun s fix =>
      ((s.raise res.2.flags).modRegs fun r => { r with rngs := res.2.rngs }).writeV g vd a
        (res.1.map fun x => (x.1, fix (tagWidth a) x.1 x.2)) keepScales) true

/-- R178. -/
def execVconf (g : Gov) (pd : PReg) (va : VReg) (sd : SReg) (s : State) : Host.Outcome State Fault Refusal :=
  member s (.vconf g pd va sd) fun s =>
    let ra := s.src.rv va
    let w := tagWidth ra.tag
    withTag s (if tagMx ra.tag then none else some ra.tag) (tagCode ra.tag) 0x1F 0x1F fun t =>
    formats s [t] <|
    lengths s [(va, w)] <|
    parity s [va] <|
    let act := s.actives g [w]
    let firsts := (act.foldl (fun (l : List Nat × List Nat) e =>
      let b := ra.elem s.hart.lanes w e
      if l.1.contains b then l else (b :: l.1, e :: l.2)) ([], [])).2
    checkedRes s 42 act false fun s fix =>
    (if sd = 0 || act.isEmpty then .ok s else s.memberS sd (BitVec.ofNat 64 firsts.length)).then fun s =>
    .ok (s.writeP g pd (act.map fun e => (e, fix 1 e (if firsts.contains e then 1 else 0) == 1)))

/-! ## Single elements (R179) -/

/-- R179. -/
def execVexts (g : Gov) (sd : SReg) (va : VReg) (sk : SReg) (keep : Bool) (s : State) : Host.Outcome State Fault Refusal :=
  member s (.vexts g sd va sk keep) fun s =>
    let t := (s.src.rv va).tag
    withTag s (if tagMx t then none else some t) (tagCode t) 0x1F 0x1F fun t =>
    formats s [t] <|
    lengths s [(va, tagWidth t)] <|
    parity s [va] <|
    if !s.anyActive g then .ok s
    else
      let k := (s.src.rs sk).toNat
      match s.source g va k with
      | some x => checkedRes s 41 [k] false fun s fix => s.memberS sd (scalarOf t (fix (tagWidth t) k x))
      | none => if keep then .ok s else s.memberS sd 0

/-- R179. -/
def execVinss (g : Gov) (vd : VReg) (ss sk : SReg) (s : State) : Host.Outcome State Fault Refusal :=
  member s (.vinss g vd ss sk) fun s =>
    let old := s.src.rv vd
    withTag s (if tagMx old.tag then none else some old.tag) (tagCode old.tag) 0x1F 0x1F fun t =>
    formats s [t] <|
    let w := tagWidth t
    lengths s [(vd, w)] <|
    let k := (s.src.rs sk).toNat
    if !s.isLive g w k then .ok s
    else
      let l := s.hart.lanes
      let x := (s.src.rs ss).toNat % 2 ^ (if t = .tern then 2 else w)
      checkedBy s 41 [k] fun s fix =>
        s.modRegs fun r => r.wv vd { old with
          bits := putBits old.bits (elemPos l w k) w (fix w k x), dirty := true
          segs := Nat.max old.segs (ceilDiv ((k / l + 1) * w) 256) }

end Sys2Proof.Machine
end

