-- ==== Sys2Proof/Machine/VecMem.lean ====
section
/-! DEFINITION. Vector memory members (R279 to R288, R292, R293, R302). -/

namespace Sys2Proof.Machine

/-! ## Addresses and tags (R280) -/

/-- The base of a member. -/
def State.vbase (s : State) (sb : SReg) (off : BitVec 8) : Word := s.src.rs sb + off.signExtend 64 * 64

/-- The bytes of an element; a 4-bit element is reached through its byte. -/
def elemBytes (w : Nat) : Nat := if w = 4 then 1 else w / 8

/-- Forms of addressing. -/
inductive Form where
  | unit
  | strided (st : Word)
  | indexed (vi : VReg)
  | slot
  deriving DecidableEq, Repr

/-- The index register of a form. -/
def Form.vi : Form → List VReg
  | .indexed v => [v]
  | _ => []

/-- A(e), or the offset o(e) in a slice, for elements of width `w`; of a 4-bit element, its byte. -/
def State.elemAddr (s : State) (f : Form) (b : Word) (w e : Nat) : Word :=
  match f with
  | .unit => b + BitVec.ofNat 64 (e * w / 8)
  | .strided st => b + BitVec.ofNat 64 e * st
  | .indexed v => b + wordOfInt ((s.src.rv v).int s.hart.lanes e).1 * BitVec.ofNat 64 (w / 8)
  | .slot => b + BitVec.ofNat 64 (e / s.hart.lanes * w / 8)

/-- The TLB bank of an element (R282). -/
def State.elemBank (s : State) (f : Form) (e : Nat) : Nat :=
  2 + s.hart.regs.physLane (match f with | .indexed _ => e % s.hart.lanes | _ => 0)

/-- The tag rules of R280 for a data register with a tag that the member takes. -/
def vmTags {α : Type} (s : State) (t : Tag) (f : Form) (ok : Bool) (k : Res α) : Res α :=
  let four := match f with | .unit | .slot => true | _ => false
  let vi := f.vi.map fun v => (s.src.rv v).tag
  check (ok && (four || !(tagWidth t == 4)) && vi.all tagInt) 0x15
    (s.mismatch (tagCode t) (match vi with | x :: _ => tagCode x | [] => 0x1F) 0x1F) k

/-- The vector-length check of a member with its data register, and the check that its index register, without which no
address is known, can be read. The data register of a store is checked after the memory faults (R205). -/
def vmRegs {α : Type} (s : State) (v : VReg) (w : Nat) (f : Form) (k : Res α) : Res α :=
  lengths s ((v, w) :: f.vi.map fun x => (x, tagWidth (s.src.rv x).tag)) (parity s f.vi k)

/-- The active elements of a member. -/
def State.vmActives (s : State) (g : Gov) (w : Nat) (f : Form) : List Nat :=
  s.actives g (w :: f.vi.map fun x => tagWidth (s.src.rv x).tag)

/-- The addresses of the active elements, checked by the checking lanes (R302). -/
def vmAddrs (s : State) (cls : Nat) (f : Form) (b : Word) (w : Nat) (act : List Nat)
    (k : State → List (Nat × Word) → Res State) : Res State :=
  checkedRes s cls act false fun s fix =>
    k s (act.map fun e => (e, BitVec.ofNat 64 (fix 64 e (s.elemAddr f b w e).toNat)))

/-! ## The probe pass (R282) -/

/-- What the probe pass checks: an element, or the scale byte of a block charged to an element. -/
structure Item where
  e : Nat
  blk : Option Nat := none
  bank : Nat
  addr : Word
  size : Nat
  deriving DecidableEq, Repr

/-- What the probe pass found: the items below the lowest failure with their physical addresses and RES hints, what its walks
did, and that failure. -/
structure Probed where
  good : List (Item × Nat × Bool)
  walks : Walks
  bad : Option (Nat × Nat × Word)

/-- The translation that a member made before the requests of its convoy left, which stands when it runs again (R208). -/
def State.walkedTo (s : State) (a : Word) : Option (Nat × Bool) :=
  if s.hart.answered then (s.hart.att.walked.find? fun x => x.1 == a).map Prod.snd else none

/-- What the probe pass makes of one item: its physical address and RES hint or its failure, and what its walk did. -/
def probeItem (s : State) (k : Access) (i : Item) (t : Walks) : Except (Nat × Word) (Nat × Bool) × Walks :=
  if i.addr.toNat % i.size ≠ 0 then (.error (0x0B, i.addr), t)
  else if inWindow i.addr.toNat then (.error (0x0C, i.addr), t)
  else match s.walkedTo i.addr with
    | some p => (.ok p, t)
    | none =>
      match translate s s.stk t i.bank s.hart.domain.toNat k i.addr with
      | (.error f, t') => (.error (f.code k, f.val i.addr), t')
      | (.ok p, t') => (.ok p, t')

/-- Every item checked in order (R238): the failure of the lowest element that fails, and the items below it. -/
def probe (s : State) (k : Access) : List Item → Walks → Probed
  | [], t => { good := [], walks := t, bad := none }
  | i :: r, t =>
    let x := probeItem s k i t
    let z := probe s k r x.2
    match x.1 with
    | .ok p => { z with good := (i, p) :: z.good }
    | .error f => { good := [], walks := z.walks, bad := some (i.e, f) }

/-- The items of a member: each active element, and after the lowest active element of a block its scale byte. -/
def State.items (s : State) (f : Form) (w : Nat) (scales : Option Word) (as : List (Nat × Word)) : List Item :=
  as.foldr (fun x r =>
    let me : Item := { e := x.1, bank := s.elemBank f x.1, addr := x.2, size := elemBytes w }
    let first := (as.find? fun y => y.1 / 32 == x.1 / 32).map Prod.fst
    match scales with
    | some c =>
      if first = some x.1 then
        me :: { e := x.1, blk := some (x.1 / 32), bank := s.elemBank f x.1, addr := c + BitVec.ofNat 64 (x.1 / 32), size := 1 } :: r
      else me :: r
    | none => me :: r) []

/-- What stands of a probe pass: what its walks did, and in a convoy that has results to ask for, the translations. -/
def State.probed (s : State) (p : Probed) : State :=
  let s' := s.setTlb p.walks
  if s.hart.asks then s'.modHart fun h => { h with att := { h.att with walked := p.good.map fun x => (x.1.addr, x.2) } } else s'

/-- The end of the probe pass: a failure traps, but with .ff one above the lowest active element trims (R283). A walk that is
held at a table entry's row is no failure: the convoy waits for it (R311). -/
def afterProbe (s : State) (ff : Bool) (act : List Nat) (p : Probed)
    (k : State → List (Item × Nat × Bool) → Res State) : Res State :=
  match p.bad with
  | none => (k (s.probed p) p.good).keepWalks (s.setTlb p.walks)
  | some (e, c, v) =>
    if c = heldCode then .wait (s.setTlb p.walks) (.deferredRead v.toNat)
    else if ff && c ≠ 0x0E && !(act.head? == some e) then
      (k ((s.probed p).modRegs fun r => { r with ftrim := BitVec.ofNat 16 e }) (p.good.filter fun x => decide (x.1.e < e))).keepWalks
        (s.setTlb p.walks)
    else .fault (s.setTlb p.walks) c v

/-! ## Chunk predicates (R284) -/

/-- The chunk of a destination address under a binding: none outside the chunks that a predicate can hold. -/
def Binding.chunk (b : Binding) (l : Nat) (a : Word) : Option Nat :=
  let z := 512 * 2 ^ b.code.toNat
  let o := (a - b.base).toNat
  if o < 256 * l * z ∧ b.base.toNat ≤ a.toNat then some (o / z) else none

/-- The chunks of an element's bytes, when every byte has one whose bit is set. -/
def PRegS.chunks (p : PRegS) (b : Binding) (l : Nat) (a : Word) (n : Nat) : Option (List Nat) :=
  let cs := (List.range n).map fun j => b.chunk l (a + BitVec.ofNat 64 j)
  if cs.all fun c => match c with | some i => p.bits.getLsbD i | none => false then some (cs.filterMap id).eraseDups else none

/-- The active elements of a member with .ck: each with its chunks. -/
def State.chunkActives (s : State) (g : Gov) (w : Nat) (f : Form) (b : Word) : List (Nat × List Nat) :=
  let p := s.src.rp g.pred
  match p.bind with
  | none => []
  | some bd =>
    (s.vmActives { pred := 0, sense := false, z := false } w f).filterMap fun e =>
      (p.chunks bd s.hart.lanes (s.elemAddr f b w e) (elemBytes w)).map fun cs => (e, cs)

/-- The keys of the chunks that hold the bytes of an item, an element or a scale, as the copy engine recorded them. -/
def State.itemKeys (s : State) (g : Gov) (i : Item) : List Key :=
  let p := s.src.rp g.pred
  match p.bind with
  | none => []
  | some b =>
    (((List.range i.size).filterMap fun j => b.chunk s.hart.lanes (i.addr + BitVec.ofNat 64 j)).eraseDups.filter fun c =>
      p.bits.getLsbD c).map fun c => b.keys.look c 0

/-- The refreshes of .ck: each sector read for an active element or for its scale, to the key of its chunk. -/
def State.chunkRefresh (s : State) (g : Gov) (good : List (Item × Nat × Bool)) : State :=
  good.foldl (fun s x => (s.itemKeys g x.1).foldl (fun s k =>
    s.modCore s.hart.core fun c => { c with view := viewRefresh c.view (fun a => a == sectorOf x.2.1) k }) s) s

/-- The largest key of the chunks read. -/
def State.chunkTop (s : State) (g : Gov) (good : List (Item × Nat × Bool)) : Key :=
  good.foldl (fun k x => (s.itemKeys g x.1).foldl Key.max k) 0

/-! ## Loads (R285) -/

/-- The value of an element from its bytes; of a tern one all four bits (R48, R281; notes/assumptions/125.md). -/
def elemOf (w e x : Nat) : Nat := if w = 4 then (if e % 2 = 0 then x % 16 else x / 16 % 16) else x % 2 ^ w

/-- The sectors that a load of items reads in the view: those of bytes that the hart has not stored itself. -/
def State.itemSectors (s : State) (good : List (Item × Nat × Bool)) : List (Nat × Bool) :=
  ((good.filter fun x => s.reads x.2.1 x.1.size).map fun x => (sectorOf x.2.1, x.2.2)).eraseDups

/-- The elements and scales of a load read in the view and written. -/
def State.finishLoad (s : State) (any : Bool) (g : Gov) (vd : VReg) (t : Tag) (good : List (Item × Nat × Bool)) : Res State :=
  (s.ensureAll (s.itemSectors good)).then fun s =>
    let w := tagWidth t
    let els := good.filter fun x => x.1.blk.isNone
    let xs := els.map fun x => (x.1.e, elemOf w x.1.e (s.viewN x.2.1 x.1.size))
    let scs := good.filterMap fun x => x.1.blk.map fun j => (j, s.viewN x.2.1 1)
    .ok (s.writeVAny any g vd t xs fun r =>
      scs.foldl (fun b x => putBits b (scalePos s.hart.lanes x.1) 8 x.2) r.scale)

/-- A load of shared memory (R285). -/
def loadMember (s : State) (i : Instr) (cls : Nat) (g : Gov) (vd : VReg) (off : BitVec 8) (sb : SReg) (form : State → Form)
    (ssc : SReg) (ff ck : Bool) : Host.Outcome State Fault Refusal :=
  member s i fun s =>
    let f := form s
    let t := (s.src.rv vd).tag
    let w := tagWidth t
    let unit := match f with | .unit => true | _ => false
    vmTags s t f (unit || !tagMx t) <|
    vmRegs s vd w f <|
    let b := s.vbase sb off
    let cs := if ck then s.chunkActives g w f b else []
    let act := if ck then cs.map Prod.fst else s.vmActives g w f
    vmAddrs s cls f b w act fun s as =>
    afterProbe s ff act (probe s .read (s.items f w (if tagMx t && !(ssc == 0) then some (s.src.rs ssc) else none) as)
      s.walks) fun s good =>
    let s := if ck then s.chunkRefresh g good else s
    (s.finishLoad (if ck then !act.isEmpty else s.anyActive g) g vd t good).then fun s =>
    .ok (if ck && !act.isEmpty then s.effect (.raise (s.chunkTop g good)) else s)

/-- R285, unit stride. -/
def execVld (g : Gov) (vd : VReg) (off : BitVec 8) (sb ssc : SReg) (ff ck : Bool) (s : State) :
    Host.Outcome State Fault Refusal :=
  loadMember s (.vld g vd off sb ssc ff ck) 43 g vd off sb (fun _ => .unit) ssc ff ck

/-- R285, strided. -/
def execVlds (g : Gov) (vd : VReg) (off : BitVec 8) (sb st : SReg) (ff ck : Bool) (s : State) :
    Host.Outcome State Fault Refusal :=
  loadMember s (.vlds g vd off sb st ff ck) 43 g vd off sb (fun s => .strided (s.src.rs st)) 0 ff ck

/-- R285, indexed. -/
def execVldx (g : Gov) (vd : VReg) (off : BitVec 8) (sb : SReg) (vi : VReg) (ff ck : Bool) (s : State) :
    Host.Outcome State Fault Refusal :=
  loadMember s (.vldx g vd off sb vi ff ck) 44 g vd off sb (fun _ => .indexed vi) 0 ff ck

/-! ## Stores (R286) -/

/-- The bytes that a store writes, in increasing element order: a 4-bit element writes its whole byte. -/
def State.storeOf (s : State) (r : VRegS) (w : Nat) (x : Item × Nat × Bool) : List (Nat × Byte) :=
  let l := s.hart.lanes
  match x.1.blk with
  | some j => [(x.2.1, BitVec.ofNat 8 (r.scaleAt l j))]
  | none =>
    if w = 4 then
      let e := x.1.e / 2 * 2
      [(x.2.1, BitVec.ofNat 8 (r.elem l 4 e + 16 * r.elem l 4 (e + 1)))]
    else (List.range (w / 8)).map fun j => (x.2.1 + j, BitVec.ofNat 8 (r.elem l w x.1.e / 2 ^ (8 * j)))

/-- A store to shared memory: its bytes enter log staging when the convoy retires. -/
def storeMember (s : State) (i : Instr) (cls : Nat) (g : Gov) (va : VReg) (off : BitVec 8) (sb : SReg) (form : State → Form)
    (ssc : SReg) : Host.Outcome State Fault Refusal :=
  member s i fun s =>
    let f := form s
    let r := s.src.rv va
    let w := tagWidth r.tag
    let unit := match f with | .unit => true | _ => false
    vmTags s r.tag f (unit || !tagMx r.tag) <|
    vmRegs s va w f <|
    let act := s.vmActives g w f
    vmAddrs s cls f (s.vbase sb off) w act fun s as =>
    afterProbe s false act (probe s .write (s.items f w (if tagMx r.tag && !(ssc == 0) then some (s.src.rs ssc) else none) as)
      s.walks) fun s good =>
    parity s [va] <|
    .ok ((good.flatMap (s.storeOf r w)).foldl (fun s x => s.effect (.store x.1 x.2)) s)

/-- R286, unit stride. -/
def execVst (g : Gov) (va : VReg) (off : BitVec 8) (sb ssc : SReg) (s : State) : Host.Outcome State Fault Refusal :=
  storeMember s (.vst g va off sb ssc) 43 g va off sb (fun _ => .unit) ssc

/-- R286, strided. -/
def execVsts (g : Gov) (va : VReg) (off : BitVec 8) (sb st : SReg) (s : State) : Host.Outcome State Fault Refusal :=
  storeMember s (.vsts g va off sb st) 43 g va off sb (fun s => .strided (s.src.rs st)) 0

/-- R286, indexed. -/
def execVstx (g : Gov) (va : VReg) (off : BitVec 8) (sb : SReg) (vi : VReg) (s : State) : Host.Outcome State Fault Refusal :=
  storeMember s (.vstx g va off sb vi) 44 g va off sb (fun _ => .indexed vi) 0

/-! ## Prefetch (R287) -/

/-- The sectors of VPF: those that overlap the `n` bytes from `b`. -/
def State.prefetch (s : State) (b : Word) (n : Nat) : List Ahead :=
  let first := b.toNat / 64
  let count := if n = 0 then 0 else (b.toNat + n - 1) / 64 - first + 1
  (List.range count).map fun j =>
    { slot := s.hart.slotNo, gang := s.hart.gangKey, dom := s.hart.domain.toNat, bank := s.elemBank .unit 0
      va := BitVec.ofNat 64 ((first + j) * 64) }

/-- R287. -/
def execVpf (off : BitVec 8) (sb sn : SReg) (s : State) : Host.Outcome State Fault Refusal :=
  member s (.vpf off sb sn) fun s =>
    .ok (s.effect (.fetch (s.prefetch (s.vbase sb off) (Nat.min (s.src.rs sn).toNat 65536))))

/-! ## Scratchpad (R288) -/

/-- The form of a scratchpad member: vb = 0 selects the slot form. -/
def scratchForm (vi : VReg) : Form := if vi = 0 then .slot else .indexed vi

/-- The nibble of a 4-bit element in its slice: by the parity of its slot. -/
def slotOf (l e : Nat) : Nat := e / l

/-- The probe of offsets: the first failure. -/
def scratchFault (n : Nat) (os : List (Nat × Word)) : Option (Nat × Word) :=
  os.findSome? fun x =>
    if x.2.toNat % n ≠ 0 then some (0x0B, x.2) else if 16384 < x.2.toNat + n then some (0x0C, x.2) else none

/-- The place of an offset of a lane's slice among the slices. -/
def State.slicePos (s : State) (e o : Nat) : Nat := 16384 * s.hart.regs.physLane (e % s.hart.lanes) + o

/-- A scratchpad member: its checks, then `k` with the offsets of its active elements; `reads` are the data registers that
it reads. -/
def scratchMember (s : State) (i : Instr) (g : Gov) (v : VReg) (off : BitVec 8) (sb : SReg) (vi : VReg) (reads : List VReg)
    (k : State → Nat → List (Nat × Nat) → State) : Host.Outcome State Fault Refusal :=
  member s i fun s =>
    let f := scratchForm vi
    let t := (s.src.rv v).tag
    let w := tagWidth t
    vmTags s t f (!tagMx t) <|
    vmRegs s v w f <|
    vmAddrs s 45 f (s.vbase sb off) w (s.vmActives g w f) fun s os =>
    match scratchFault (elemBytes w) os with
    | some (c, x) => .trap c x
    | none => parity s reads <| .ok (k s w (os.map fun x => (x.1, x.2.toNat)))

/-- R288. -/
def execVlsx (g : Gov) (vd : VReg) (off : BitVec 8) (sb : SReg) (vi : VReg) (s : State) : Host.Outcome State Fault Refusal :=
  scratchMember s (.vlsx g vd off sb vi) g vd off sb vi [] fun s w os =>
    s.writeV g vd (s.src.rv vd).tag (os.map fun x =>
      (x.1, elemOf w (slotOf s.hart.lanes x.1) (privRead s.hart.regs.scratch (s.slicePos x.1 x.2) (elemBytes w)))) keepScales

/-- R288: a 4-bit element writes its whole byte, both nibbles from the register (R281). -/
def execVssx (g : Gov) (va : VReg) (off : BitVec 8) (sb : SReg) (vi : VReg) (s : State) : Host.Outcome State Fault Refusal :=
  scratchMember s (.vssx g va off sb vi) g va off sb vi [va] fun s w os =>
    let l := s.hart.lanes
    let r := s.src.rv va
    let put (m : Memory) (x : Nat × Nat) : Memory :=
      let e := slotOf l x.1 / 2 * 2 * l + x.1 % l
      privWrite m (s.slicePos x.1 x.2) (elemBytes w)
        (if w = 4 then r.elem l 4 e + 16 * r.elem l 4 (e + l) else r.elem l w x.1)
    let touched := os.foldl (fun c x => c ||| 1#16 <<< (s.hart.regs.physLane (x.1 % l) / 4)) 0
    (s.modRegs fun q => { q with scratch := os.foldl put q.scratch }).effect (.touch touched)

/-! ## Home operations (R292, R293) -/

/-- R292: the elements are requested at the commit point; the convoy runs again when they have returned. -/
def execVldh (g : Gov) (vd : VReg) (off : BitVec 8) (sb : SReg) (vi : VReg) (acq : Bool) (s : State) :
    Host.Outcome State Fault Refusal :=
  member s (.vldh g vd off sb vi acq) fun s =>
    let f := Form.indexed vi
    let t := (s.src.rv vd).tag
    let w := tagWidth t
    vmTags s t f (!tagMx t) <|
    vmRegs s vd w f <|
    let act := s.vmActives g w f
    match s.hart.phase with
    | .returned key _ =>
      let s' := s.writeV g vd t (act.map fun e => (e, (s.hart.results.look e 0).toNat % 2 ^ w)) keepScales
      .ok (if acq then s'.effect (.acquire key) else s')
    | _ =>
      vmAddrs s 46 f (s.vbase sb off) w act fun s as =>
      afterProbe s false act (probe s .read (s.items f w none as) s.walks) fun s good =>
      .ok (s.effect (.home (good.map fun x => { idx := x.1.e, addr := x.2.1, size := w / 8, fn := .read }) acq false true))

/-- The operation of VAMO on elements of a tag, when it has one. -/
def VAmoOp.fn (op : VAmoOp) (t : Tag) : Option HomeFn :=
  if t = .fp32 then
    (match op with | .add => some .fadd | .min => some .fmin | .max => some .fmax | _ => none)
  else if tagInt t && !(tagWidth t == 4) then
    some (match op with
      | .add => .add
      | .min => if tagSigned t then .min else .minu
      | .max => if tagSigned t then .max else .maxu
      | .and => .and | .or => .or | .xor => .xor)
  else none

/-- R293. -/
def execVamo (g : Gov) (op : VAmoOp) (ord : Order) (va : VReg) (off : BitVec 8) (sb : SReg) (vi : VReg) (s : State) :
    Host.Outcome State Fault Refusal :=
  member s (.vamo g op ord va off sb vi) fun s =>
    let f := Form.indexed vi
    let r := s.src.rv va
    let w := tagWidth r.tag
    let fn := VAmoOp.fn op r.tag
    vmTags s r.tag f fn.isSome <|
    vmRegs s va w f <|
    let act := s.vmActives g w f
    vmAddrs s 46 f (s.vbase sb off) w act fun s as =>
    afterProbe s false act (probe s .rw (s.items f w none as) s.walks) fun s good =>
    parity s [va] <|
    .ok (s.effect (.home (good.map fun x =>
      { idx := noReply + x.1.e, addr := x.2.1, size := w / 8, fn := fn.getD .read
        y := BitVec.ofNat 64 (r.elem s.hart.lanes w x.1.e) }) (Order.acq ord) (Order.rel ord) false))

end Sys2Proof.Machine
end

