-- ==== Sys2Proof/Machine/VecPred.lean ====
section
/-! DEFINITION. Branches on predicates and the fragment buffer (R34, R137 to R140), tags (R130, R131), and predicate members
(R132 to R136). -/

namespace Sys2Proof.Machine

/-! ## Branches on predicates -/

/-- The elements that a branch on a predicate considers (R137). -/
def Regs.considered (r : Regs) : Nat := Nat.min r.vlen r.ftrim.toNat

/-- The elements with a set bit. -/
def Regs.setBits (r : Regs) (p : PReg) : List Nat := (List.range r.considered).filter fun e => (r.rp p).bits.getLsbD e

/-- The target of a taken branch. -/
def State.branchTo (s : State) (imm : BitVec 15) : Word := s.hart.pc + imm.signExtend 64 * 4

/-- The hart waits for the resolution of its branch, and then goes on at an address (R34). -/
def State.resolveAt (s : State) (pc : Word) : Res State := .wait s (.branch (s.now.toNat + 4) pc)

/-- R137. -/
def execVbany (p : PReg) (imm : BitVec 15) (s : State) : Host.Outcome State Fault Refusal :=
  word s (.vbany p imm) fun s =>
    s.resolveAt (if (s.hart.regs.setBits p).isEmpty then s.hart.pc + 4 else s.branchTo imm)

/-- R137. -/
def execVbnone (p : PReg) (imm : BitVec 15) (s : State) : Host.Outcome State Fault Refusal :=
  word s (.vbnone p imm) fun s =>
    s.resolveAt (if (s.hart.regs.setBits p).isEmpty then s.branchTo imm else s.hart.pc + 4)

/-- A mask of elements. -/
def maskOf (es : List Nat) : BitVec 16384 := es.foldl (fun b e => putBits b e 1 1) 0

/-- R138. -/
def execVbrf (p : PReg) (imm : BitVec 15) (s : State) : Host.Outcome State Fault Refusal :=
  word s (.vbrf p imm) fun s =>
    let r := s.hart.regs
    let t := r.setBits p
    let f := (List.range r.considered).filter fun e => !(r.rp p).bits.getLsbD e
    if t.isEmpty then s.resolveAt (s.hart.pc + 4)
    else if f.isEmpty then s.resolveAt (s.branchTo imm)
    else if 8 ≤ s.hart.frags.length then .trap 0x18 8
    else
      let pc := s.branchTo imm
      (s.modHart fun h => { h with frags := { resume := h.pc + 4, pred := p, mask := maskOf f } :: h.frags }).resolveAt pc

/-- R34: the branch that a hart waits at resolves; the hart goes on at the address it chose. -/
def execVbranchResolve (h : Nat) (s : State) : Host.Outcome State Fault Refusal :=
  .next (s.modCtx h fun x =>
    match x.phase with
    | .branch t pc =>
      if t ≤ (s.time x.stk).toNat then
        { x with pc := pc, phase := .run, slot := if x.slot = .waiting then .ready else x.slot }
      else x
    | _ => x)

/-- R139. -/
def execFrgpop (s : State) : Host.Outcome State Fault Refusal :=
  word s .frgpop fun s =>
    match s.hart.frags with
    | [] => .ok s.next
    | f :: r =>
      let full : BitVec 16384 := BitVec.ofNat 16384 (2 ^ (256 * s.hart.lanes) - 1)
      .ok (((s.modRegs fun x => x.wp f.pred (full &&& ~~~f.mask)).modHart fun h => { h with frags := r }).goto f.resume)

/-- The class of the plain vector members (R95). -/
def simpleClass : Nat := 35

/-! ## Tags -/

/-- R130: the tag changes, the bits and the valid-length tag stay; a first MX tag sets every scale (R51). -/
def execVtag (vd : VReg) (t : Tag) (s : State) : Host.Outcome State Fault Refusal :=
  member s (.vtag vd t) fun s =>
    formats s [t] <|
    let old := s.src.rv vd
    checkedBy s simpleClass (List.range s.hart.lanes) fun s _ =>
      s.modRegs fun r => { r with v := r.v.put vd.toNat { old with
        tag := t, scale := if tagMx t && !tagMx old.tag then unitScales else old.scale } }

/-- R131. -/
def execVtagq (sd : SReg) (va : VReg) (s : State) : Host.Outcome State Fault Refusal :=
  member s (.vtagq sd va) fun s =>
    let t := (s.src.rv va).tag
    let w := tagWidth t
    checkedRes s simpleClass (List.range s.hart.lanes) false fun s _ =>
      s.memberS sd (BitVec.ofNat 64 (tagCode t + w * 256 + s.hart.lanes * 1024 / w * 65536))

/-! ## Predicate logic -/

/-- The positions of a predicate. -/
def State.predBits (s : State) : Nat := 256 * s.hart.lanes

/-- A member that writes a predicate at active elements from a bit of each. -/
def predMember (s : State) (i : Instr) (g : Gov) (pd : PReg) (f : State → Nat → Bool) : Host.Outcome State Fault Refusal :=
  member s i fun s =>
    let act := s.actives g []
    checkedBy s simpleClass act fun s fix =>
      s.writeP g pd (act.map fun e => (e, fix 1 e (if f s e then 1 else 0) == 1))

/-- R132: positions outside the active elements below sa become 0. -/
def execPsetc (g : Gov) (pd : PReg) (ss : SReg) (s : State) : Host.Outcome State Fault Refusal :=
  member s (.psetc g pd ss) fun s =>
    let act := s.actives g []
    let n := (s.src.rs ss).toNat
    checkedBy s simpleClass act fun s fix =>
      if act.isEmpty then s
      else s.writeP { g with z := true } pd (act.map fun e => (e, fix 1 e (if e < n then 1 else 0) == 1))

/-- R133. -/
def execPand (g : Gov) (pd pa pb : PReg) (s : State) : Host.Outcome State Fault Refusal :=
  predMember s (.pand g pd pa pb) g pd fun s e => (s.src.rp pa).bits.getLsbD e && (s.src.rp pb).bits.getLsbD e

/-- R133. -/
def execPor (g : Gov) (pd pa pb : PReg) (s : State) : Host.Outcome State Fault Refusal :=
  predMember s (.por g pd pa pb) g pd fun s e => (s.src.rp pa).bits.getLsbD e || (s.src.rp pb).bits.getLsbD e

/-- R133. -/
def execPxor (g : Gov) (pd pa pb : PReg) (s : State) : Host.Outcome State Fault Refusal :=
  predMember s (.pxor g pd pa pb) g pd fun s e => (s.src.rp pa).bits.getLsbD e != (s.src.rp pb).bits.getLsbD e

/-- R133. -/
def execPnot (g : Gov) (pd pa : PReg) (s : State) : Host.Outcome State Fault Refusal :=
  predMember s (.pnot g pd pa) g pd fun s e => !(s.src.rp pa).bits.getLsbD e

/-- R133. -/
def execPandn (g : Gov) (pd pa pb : PReg) (s : State) : Host.Outcome State Fault Refusal :=
  predMember s (.pandn g pd pa pb) g pd fun s e => (s.src.rp pa).bits.getLsbD e && !(s.src.rp pb).bits.getLsbD e

/-! ## Predicates as words and in halves -/

/-- The bit at a position of a predicate, in lane `l`, slot `k`. -/
def State.laneBit (s : State) (p : PReg) (l k : Nat) : Bool := (s.src.rp p).bits.getLsbD (k * s.hart.lanes + l)

/-- R136. -/
def execPpack (vd : VReg) (pa : BitVec 2) (h : Bool) (s : State) : Host.Outcome State Fault Refusal :=
  member s (.ppack vd pa h) fun s =>
    formats s [.uint64] <|
    let l := s.hart.lanes
    let half := if h then 128 else 0
    checkedBy s simpleClass (List.range l) fun s fix =>
      let set := (List.range l).flatMap fun i => (List.range 8).flatMap fun j => ((List.range 128).filter fun k =>
        fix 1 i (if s.laneBit (BitVec.ofNat 5 (8 * pa.toNat + j)) i (half + k) then 1 else 0) == 1).map fun k =>
          i * 1024 + 128 * j + k
      s.modRegs fun r => r.wv vd { (s.src.rv vd) with
        bits := set.foldl (fun b p => putBits b p 1 1) 0, tag := .uint64, segs := 4, dirty := true }

/-- R136: half `h` of predicate pd + j, each bit as `fix` gives it for its lane. -/
def State.unpackOne (s : State) (x : BitVec 65536) (h : Bool) (p : PReg) (j : Nat) (fix : Nat → Nat → Nat → Nat) : BitVec 16384 :=
  let l := s.hart.lanes
  let half := if h then 128 else 0
  (List.range (128 * l)).foldl (fun b n =>
    putBits b ((half + n / l) * l + n % l) 1 (fix 1 (n % l) (bitsAt x (n % l * 1024 + 128 * j + n / l) 1))) (s.src.rp p).bits

/-- R136. -/
def execPunpack (pd : BitVec 2) (va : VReg) (h : Bool) (s : State) : Host.Outcome State Fault Refusal :=
  member s (.punpack pd va h) fun s =>
    parity s [va] <|
    let x := (s.src.rv va).bits
    checkedBy s simpleClass (List.range s.hart.lanes) fun s fix =>
      s.modRegs fun r => (List.range 8).foldl (fun r j =>
        let p : PReg := BitVec.ofNat 5 (8 * pd.toNat + j)
        r.wp p (s.unpackOne x h p j fix)) r

/-- R135. -/
def execPmovs (sd : SReg) (pa : PReg) (sk : SReg) (s : State) : Host.Outcome State Fault Refusal :=
  member s (.pmovs sd pa sk) fun s =>
    let k := (s.src.rs sk).toNat % 256
    checkedRes s simpleClass (List.range s.hart.lanes) false fun s fix =>
      let bits := (List.range 64).foldl (fun n i =>
        let e := 64 * k + i
        if e < s.predBits && fix 1 e (if (s.src.rp pa).bits.getLsbD e then 1 else 0) == 1 then n + 2 ^ i else n) 0
      s.memberS sd (BitVec.ofNat 64 bits)

/-- The active elements with a set bit (R134), each bit as `fix` gives it. -/
def State.activeSet (s : State) (g : Gov) (pa : PReg) (fix : Nat → Nat → Nat → Nat := fun _ _ x => x) : List Nat :=
  (s.actives g []).filter fun e => fix 1 e (if (s.src.rp pa).bits.getLsbD e then 1 else 0) == 1

/-- A scalar result over the active elements of a predicate: with none active, sd is unchanged, or 0 under .z (R134). The
checking lanes compare it (R181). -/
def activeScalar (s : State) (g : Gov) (sd : SReg) (pa : PReg) (x : List Nat → Word) : Res State :=
  checkedRes s 42 (s.actives g []) false fun s fix =>
    if s.anyActive g then s.memberS sd (x (s.activeSet g pa fix)) else if g.z then s.memberS sd 0 else .ok s

/-- R134. -/
def execPlead (g : Gov) (sd : SReg) (pa : PReg) (s : State) : Host.Outcome State Fault Refusal :=
  member s (.plead g sd pa) fun s =>
    activeScalar s g sd pa fun es => match es with | e :: _ => BitVec.ofNat 64 e | [] => BitVec.allOnes 64

/-- R134. -/
def execPnum (g : Gov) (sd : SReg) (pa : PReg) (s : State) : Host.Outcome State Fault Refusal :=
  member s (.pnum g sd pa) fun s => activeScalar s g sd pa fun es => BitVec.ofNat 64 es.length

end Sys2Proof.Machine
end

