-- ==== Sys2Proof/Machine/Dispatch.lean ====
section
/-! DEFINITION. The dispatch: one arm for each instruction. -/

namespace Sys2Proof.Machine

/-- One instruction, engine step or input. -/
def exec (i : Instr) (s : State) : Host.Outcome State Fault Refusal :=
  match i with
  | .add sd sa sb => Sys2Proof.Machine.execAdd sd sa sb s
  | .sub sd sa sb => Sys2Proof.Machine.execSub sd sa sb s
  | .and sd sa sb => Sys2Proof.Machine.execAnd sd sa sb s
  | .or sd sa sb => Sys2Proof.Machine.execOr sd sa sb s
  | .xor sd sa sb => Sys2Proof.Machine.execXor sd sa sb s
  | .sll sd sa sb => Sys2Proof.Machine.execSll sd sa sb s
  | .srl sd sa sb => Sys2Proof.Machine.execSrl sd sa sb s
  | .sra sd sa sb => Sys2Proof.Machine.execSra sd sa sb s
  | .slt sd sa sb => Sys2Proof.Machine.execSlt sd sa sb s
  | .sltu sd sa sb => Sys2Proof.Machine.execSltu sd sa sb s
  | .min sd sa sb => Sys2Proof.Machine.execMin sd sa sb s
  | .max sd sa sb => Sys2Proof.Machine.execMax sd sa sb s
  | .mul sd sa sb => Sys2Proof.Machine.execMul sd sa sb s
  | .mulh sd sa sb => Sys2Proof.Machine.execMulh sd sa sb s
  | .mulhu sd sa sb => Sys2Proof.Machine.execMulhu sd sa sb s
  | .div sd sa sb => Sys2Proof.Machine.execDiv sd sa sb s
  | .divu sd sa sb => Sys2Proof.Machine.execDivu sd sa sb s
  | .rem sd sa sb => Sys2Proof.Machine.execRem sd sa sb s
  | .remu sd sa sb => Sys2Proof.Machine.execRemu sd sa sb s
  | .clz sd sa => Sys2Proof.Machine.execClz sd sa s
  | .ctz sd sa => Sys2Proof.Machine.execCtz sd sa s
  | .popc sd sa => Sys2Proof.Machine.execPopc sd sa s
  | .sel sd sa sb sc => Sys2Proof.Machine.execSel sd sa sb sc s
  | .addi sd sa imm => Sys2Proof.Machine.execAddi sd sa imm s
  | .andi sd sa imm => Sys2Proof.Machine.execAndi sd sa imm s
  | .ori sd sa imm => Sys2Proof.Machine.execOri sd sa imm s
  | .xori sd sa imm => Sys2Proof.Machine.execXori sd sa imm s
  | .slti sd sa imm => Sys2Proof.Machine.execSlti sd sa imm s
  | .slli sd sa amt => Sys2Proof.Machine.execSlli sd sa amt s
  | .srli sd sa amt => Sys2Proof.Machine.execSrli sd sa amt s
  | .srai sd sa amt => Sys2Proof.Machine.execSrai sd sa amt s
  | .lui sd imm => Sys2Proof.Machine.execLui sd imm s
  | .auipc sd imm => Sys2Proof.Machine.execAuipc sd imm s
  | .ldB sd sa imm => Sys2Proof.Machine.execLdB sd sa imm s
  | .ldH sd sa imm => Sys2Proof.Machine.execLdH sd sa imm s
  | .ldW sd sa imm => Sys2Proof.Machine.execLdW sd sa imm s
  | .ldD sd sa imm => Sys2Proof.Machine.execLdD sd sa imm s
  | .ldBU sd sa imm => Sys2Proof.Machine.execLdBU sd sa imm s
  | .ldHU sd sa imm => Sys2Proof.Machine.execLdHU sd sa imm s
  | .ldWU sd sa imm => Sys2Proof.Machine.execLdWU sd sa imm s
  | .ldh sd sa off acq => Sys2Proof.Machine.execLdh sd sa off acq s
  | .stB sb sa imm => Sys2Proof.Machine.execStB sb sa imm s
  | .stH sb sa imm => Sys2Proof.Machine.execStH sb sa imm s
  | .stW sb sa imm => Sys2Proof.Machine.execStW sb sa imm s
  | .stD sb sa imm => Sys2Proof.Machine.execStD sb sa imm s
  | .ldsd sd sa imm => Sys2Proof.Machine.execLdsd sd sa imm s
  | .stsd sb sa imm => Sys2Proof.Machine.execStsd sb sa imm s
  | .amo op dbl ord sd sa sb => Sys2Proof.Machine.execAmo op dbl ord sd sa sb s
  | .amoCas dbl ord sd sa sb sc => Sys2Proof.Machine.execAmoCas dbl ord sd sa sb sc s
  | .beq sa sb imm => Sys2Proof.Machine.execBeq sa sb imm s
  | .bne sa sb imm => Sys2Proof.Machine.execBne sa sb imm s
  | .blt sa sb imm => Sys2Proof.Machine.execBlt sa sb imm s
  | .bge sa sb imm => Sys2Proof.Machine.execBge sa sb imm s
  | .bltu sa sb imm => Sys2Proof.Machine.execBltu sa sb imm s
  | .bgeu sa sb imm => Sys2Proof.Machine.execBgeu sa sb imm s
  | .jal sd imm => Sys2Proof.Machine.execJal sd imm s
  | .jalr sd sa imm => Sys2Proof.Machine.execJalr sd sa imm s
  | .vbany p imm => Sys2Proof.Machine.execVbany p imm s
  | .vbnone p imm => Sys2Proof.Machine.execVbnone p imm s
  | .vbrf p imm => Sys2Proof.Machine.execVbrf p imm s
  | .frgpop => Sys2Proof.Machine.execFrgpop s
  | .fadd dbl r sd sa sb => Sys2Proof.Machine.execFadd dbl r sd sa sb s
  | .fsub dbl r sd sa sb => Sys2Proof.Machine.execFsub dbl r sd sa sb s
  | .fmul dbl r sd sa sb => Sys2Proof.Machine.execFmul dbl r sd sa sb s
  | .fdiv dbl r sd sa sb => Sys2Proof.Machine.execFdiv dbl r sd sa sb s
  | .fsqrt dbl r sd sa => Sys2Proof.Machine.execFsqrt dbl r sd sa s
  | .fmin dbl sd sa sb => Sys2Proof.Machine.execFmin dbl sd sa sb s
  | .fmax dbl sd sa sb => Sys2Proof.Machine.execFmax dbl sd sa sb s
  | .fcmp c dbl sd sa sb => Sys2Proof.Machine.execFcmp c dbl sd sa sb s
  | .fcvt dst src r sd sa => Sys2Proof.Machine.execFcvt dst src r sd sa s
  | .ffma dbl r sd sa sb sc => Sys2Proof.Machine.execFfma dbl r sd sa sb sc s
  | .pub sc => Sys2Proof.Machine.execPub sc s
  | .acq k sa sb => Sys2Proof.Machine.execAcq k sa sb s
  | .pubacq sc k sa sb => Sys2Proof.Machine.execPubacq sc k sa sb s
  | .bar => Sys2Proof.Machine.execBar s
  | .fence => Sys2Proof.Machine.execFence s
  | .launch sa => Sys2Proof.Machine.execLaunch sa s
  | .wnext sd => Sys2Proof.Machine.execWnext sd s
  | .wsplit sd => Sys2Proof.Machine.execWsplit sd s
  | .wdone => Sys2Proof.Machine.execWdone s
  | .ctwait sd sa sb => Sys2Proof.Machine.execCtwait sd sa sb s
  | .ctinc sd sa sb => Sys2Proof.Machine.execCtinc sd sa sb s
  | .npbegin => Sys2Proof.Machine.execNpbegin s
  | .npend => Sys2Proof.Machine.execNpend s
  | .yield => Sys2Proof.Machine.execYield s
  | .exit => Sys2Proof.Machine.execExit s
  | .csrr sd csr => Sys2Proof.Machine.execCsrr sd csr s
  | .csrw sd csr sa => Sys2Proof.Machine.execCsrw sd csr sa s
  | .csrs sd csr sa => Sys2Proof.Machine.execCsrs sd csr sa s
  | .csrc sd csr sa => Sys2Proof.Machine.execCsrc sd csr sa s
  | .tret => Sys2Proof.Machine.execTret s
  | .evwait sd sa => Sys2Proof.Machine.execEvwait sd sa s
  | .halt => Sys2Proof.Machine.execHalt s
  | .ptinv sa => Sys2Proof.Machine.execPtinv sa s
  | .capfence sd sa => Sys2Proof.Machine.execCapfence sd sa s
  | .captest sd sa => Sys2Proof.Machine.execCaptest sd sa s
  | .bbox sa sb => Sys2Proof.Machine.execBbox sa sb s
  | .tstamp sd => Sys2Proof.Machine.execTstamp sd s
  | .trap imm => Sys2Proof.Machine.execTrap imm s
  | .vsetl sd sa tag c => Sys2Proof.Machine.execVsetl sd sa tag c s
  | .vsetlG sd sa tag c => Sys2Proof.Machine.execVsetlG sd sa tag c s
  | .mxon => Sys2Proof.Machine.execMxon s
  | .mxoff => Sys2Proof.Machine.execMxoff s
  | .illegalWord tval => Sys2Proof.Machine.execIllegalWord tval s
  | .vadd g vd va b sat r => Sys2Proof.Machine.execVadd g vd va b sat r s
  | .vsub g vd va b sat r => Sys2Proof.Machine.execVsub g vd va b sat r s
  | .vmul g vd va b sat r => Sys2Proof.Machine.execVmul g vd va b sat r s
  | .vmulh g vd va b => Sys2Proof.Machine.execVmulh g vd va b s
  | .vfma g vd va vb vc sat r => Sys2Proof.Machine.execVfma g vd va vb vc sat r s
  | .vfms g vd va vb vc sat r => Sys2Proof.Machine.execVfms g vd va vb vc sat r s
  | .vnfma g vd va vb vc sat r => Sys2Proof.Machine.execVnfma g vd va vb vc sat r s
  | .vdiv g vd va b sat r => Sys2Proof.Machine.execVdiv g vd va b sat r s
  | .vsqrt g vd va r => Sys2Proof.Machine.execVsqrt g vd va r s
  | .vrcp g vd va r => Sys2Proof.Machine.execVrcp g vd va r s
  | .vrsq g vd va r => Sys2Proof.Machine.execVrsq g vd va r s
  | .vexp2 g vd va r => Sys2Proof.Machine.execVexp2 g vd va r s
  | .vlog2 g vd va r => Sys2Proof.Machine.execVlog2 g vd va r s
  | .vtanh g vd va r => Sys2Proof.Machine.execVtanh g vd va r s
  | .vmin g vd va b => Sys2Proof.Machine.execVmin g vd va b s
  | .vmax g vd va b => Sys2Proof.Machine.execVmax g vd va b s
  | .vabs g vd va sat => Sys2Proof.Machine.execVabs g vd va sat s
  | .vneg g vd va sat => Sys2Proof.Machine.execVneg g vd va sat s
  | .vand g vd va b => Sys2Proof.Machine.execVand g vd va b s
  | .vor g vd va b => Sys2Proof.Machine.execVor g vd va b s
  | .vxor g vd va b => Sys2Proof.Machine.execVxor g vd va b s
  | .vnot g vd va => Sys2Proof.Machine.execVnot g vd va s
  | .vshl g vd va b sat => Sys2Proof.Machine.execVshl g vd va b sat s
  | .vshr g vd va b => Sys2Proof.Machine.execVshr g vd va b s
  | .vrot g vd va b right => Sys2Proof.Machine.execVrot g vd va b right s
  | .vclz g vd va => Sys2Proof.Machine.execVclz g vd va s
  | .vpopc g vd va => Sys2Proof.Machine.execVpopc g vd va s
  | .vclmul g vd va b hi => Sys2Proof.Machine.execVclmul g vd va b hi s
  | .vcmp g pd va b c => Sys2Proof.Machine.execVcmp g pd va b c s
  | .vsel g vd va vb pc => Sys2Proof.Machine.execVsel g vd va vb pc s
  | .vcvt g vd va d sat r => Sys2Proof.Machine.execVcvt g vd va d sat r s
  | .vscale g vd va b r => Sys2Proof.Machine.execVscale g vd va b r s
  | .vqnt g vd va d r => Sys2Proof.Machine.execVqnt g vd va d r s
  | .vmov g vd va => Sys2Proof.Machine.execVmov g vd va s
  | .vsplat g vd ss d => Sys2Proof.Machine.execVsplat g vd ss d s
  | .viota g vd ss d sat => Sys2Proof.Machine.execViota g vd ss d sat s
  | .vtag vd t => Sys2Proof.Machine.execVtag vd t s
  | .vtagq sd va => Sys2Proof.Machine.execVtagq sd va s
  | .psetc g pd ss => Sys2Proof.Machine.execPsetc g pd ss s
  | .pand g pd pa pb => Sys2Proof.Machine.execPand g pd pa pb s
  | .por g pd pa pb => Sys2Proof.Machine.execPor g pd pa pb s
  | .pxor g pd pa pb => Sys2Proof.Machine.execPxor g pd pa pb s
  | .pnot g pd pa => Sys2Proof.Machine.execPnot g pd pa s
  | .pandn g pd pa pb => Sys2Proof.Machine.execPandn g pd pa pb s
  | .ppack vd pa h => Sys2Proof.Machine.execPpack vd pa h s
  | .punpack pd va h => Sys2Proof.Machine.execPunpack pd va h s
  | .pmovs sd pa sk => Sys2Proof.Machine.execPmovs sd pa sk s
  | .vperm g vd va vb keep => Sys2Proof.Machine.execVperm g vd va vb keep s
  | .vput g vd va vb px => Sys2Proof.Machine.execVput g vd va vb px s
  | .vslu g vd va sk keep => Sys2Proof.Machine.execVslu g vd va sk keep s
  | .vsld g vd va sk keep => Sys2Proof.Machine.execVsld g vd va sk keep s
  | .vcomp g vd va sd => Sys2Proof.Machine.execVcomp g vd va sd s
  | .vexpd g vd va => Sys2Proof.Machine.execVexpd g vd va s
  | .vred g op ord sat r vd va vb sd => Sys2Proof.Machine.execVred g op ord sat r vd va vb sd s
  | .vscan g op ex sat r vd va => Sys2Proof.Machine.execVscan g op ex sat r vd va s
  | .vconf g pd va sd => Sys2Proof.Machine.execVconf g pd va sd s
  | .vzip g vd va vb hi keep => Sys2Proof.Machine.execVzip g vd va vb hi keep s
  | .vunzip g vd va vb odd keep => Sys2Proof.Machine.execVunzip g vd va vb odd keep s
  | .vbcast g vd va sk keep => Sys2Proof.Machine.execVbcast g vd va sk keep s
  | .vexts g sd va sk keep => Sys2Proof.Machine.execVexts g sd va sk keep s
  | .vinss g vd ss sk => Sys2Proof.Machine.execVinss g vd ss sk s
  | .plead g sd pa => Sys2Proof.Machine.execPlead g sd pa s
  | .pnum g sd pa => Sys2Proof.Machine.execPnum g sd pa s
  | .vld g vd off sb ssc ff ck => Sys2Proof.Machine.execVld g vd off sb ssc ff ck s
  | .vlds g vd off sb st ff ck => Sys2Proof.Machine.execVlds g vd off sb st ff ck s
  | .vldx g vd off sb vi ff ck => Sys2Proof.Machine.execVldx g vd off sb vi ff ck s
  | .vst g va off sb ssc => Sys2Proof.Machine.execVst g va off sb ssc s
  | .vsts g va off sb st => Sys2Proof.Machine.execVsts g va off sb st s
  | .vstx g va off sb vi => Sys2Proof.Machine.execVstx g va off sb vi s
  | .vlsx g vd off sb vi => Sys2Proof.Machine.execVlsx g vd off sb vi s
  | .vssx g va off sb vi => Sys2Proof.Machine.execVssx g va off sb vi s
  | .vldh g vd off sb vi acq => Sys2Proof.Machine.execVldh g vd off sb vi acq s
  | .vpf off sb sn => Sys2Proof.Machine.execVpf off sb sn s
  | .vamo g op ord va off sb vi => Sys2Proof.Machine.execVamo g op ord va off sb vi s
  | .tshape sd sm sn sk f => Sys2Proof.Machine.execTshape sd sm sn sk f s
  | .mma g acc va vb => Sys2Proof.Machine.execMma g acc va vb s
  | .mmas g acc va vb => Sys2Proof.Machine.execMmas g acc va vb s
  | .mxzero acc => Sys2Proof.Machine.execMxzero acc s
  | .mxext g vd acc sr d int sat r => Sys2Proof.Machine.execMxext g vd acc sr d int sat r s
  | .mxins g acc va sr => Sys2Proof.Machine.execMxins g acc va sr s
  | .mxpert sa => Sys2Proof.Machine.execMxpert sa s
  | .bsetl sd sa => Sys2Proof.Machine.execBsetl sd sa s
  | .balloc sa sb => Sys2Proof.Machine.execBalloc sa sb s
  | .bplane bd sa => Sys2Proof.Machine.execBplane bd sa s
  | .brlk sa sb sc => Sys2Proof.Machine.execBrlk sa sb sc s
  | .brul sa sb => Sys2Proof.Machine.execBrul sa sb s
  | .bldp bd sa sb sgn sat => Sys2Proof.Machine.execBldp bd sa sb sgn sat s
  | .bstp ba sa sb sgn => Sys2Proof.Machine.execBstp ba sa sb sgn s
  | .btov vd ba sk sgn => Sys2Proof.Machine.execBtov vd ba sk sgn s
  | .vtob bd va sk sgn sat => Sys2Proof.Machine.execVtob bd va sk sgn sat s
  | .bnot bd ba => Sys2Proof.Machine.execBnot bd ba s
  | .band bd ba bb => Sys2Proof.Machine.execBand bd ba bb s
  | .bor bd ba bb => Sys2Proof.Machine.execBor bd ba bb s
  | .bxor bd ba bb => Sys2Proof.Machine.execBxor bd ba bb s
  | .bmaj bd ba bb bc => Sys2Proof.Machine.execBmaj bd ba bb bc s
  | .badd bd ba bb sgn sat => Sys2Proof.Machine.execBadd bd ba bb sgn sat s
  | .bsub bd ba bb sgn sat => Sys2Proof.Machine.execBsub bd ba bb sgn sat s
  | .bmulc bd ba sc sgn => Sys2Proof.Machine.execBmulc bd ba sc sgn s
  | .bmac bd ba bb sgn => Sys2Proof.Machine.execBmac bd ba bb sgn s
  | .bmact bd bt sx sgn => Sys2Proof.Machine.execBmact bd bt sx sgn s
  | .bcmp bd ba bb c sgn => Sys2Proof.Machine.execBcmp bd ba bb c sgn s
  | .bsel bd ba bb bc => Sys2Proof.Machine.execBsel bd ba bb bc s
  | .bshl bd ba k col => Sys2Proof.Machine.execBshl bd ba k col s
  | .bshr bd ba k col sgn => Sys2Proof.Machine.execBshr bd ba k col sgn s
  | .bred sd ba => Sys2Proof.Machine.execBred sd ba s
  | .bseal ba => Sys2Proof.Machine.execBseal ba s
  | .bnext sa => Sys2Proof.Machine.execBnext sa s
  | .bwait sd => Sys2Proof.Machine.execBwait sd s
  | .cpy k sdst ssrc slen c pk => Sys2Proof.Machine.execCpy k sdst ssrc slen c pk s
  | .cpy2d k sdst ssrc slen c srows sstr pk => Sys2Proof.Machine.execCpy2d k sdst ssrc slen c srows sstr pk s
  | .cpyd k sdst ssrc slen snonce sidx pk => Sys2Proof.Machine.execCpyd k sdst ssrc slen snonce sidx pk s
  | .cpye k sdst ssrc slen c srem pk => Sys2Proof.Machine.execCpye k sdst ssrc slen c srem pk s
  | .ckey k ssrc sslot => Sys2Proof.Machine.execCkey k ssrc sslot s
  | .cwait sd smask => Sys2Proof.Machine.execCwait sd smask s
  | .cstat sd k word => Sys2Proof.Machine.execCstat sd k word s
  | .convoyRetire => Sys2Proof.Machine.execConvoyRetire s
  | .coreResetEnd core => Sys2Proof.Machine.execCoreResetEnd core s
  | .asyncTrap => Sys2Proof.Machine.execAsyncTrap s
  | .overrunFault h => Sys2Proof.Machine.execOverrunFault h s
  | .vbranchResolve h => Sys2Proof.Machine.execVbranchResolve h s
  | .preemptRequest h replace => Sys2Proof.Machine.execPreemptRequest h replace s
  | .preemptAccept h => Sys2Proof.Machine.execPreemptAccept h s
  | .drainComplete h => Sys2Proof.Machine.execDrainComplete h s
  | .saveComplete h => Sys2Proof.Machine.execSaveComplete h s
  | .resume h core slot => Sys2Proof.Machine.execResume h core slot s
  | .thermalMigration h core => Sys2Proof.Machine.execThermalMigration h core s
  | .placement stk w => Sys2Proof.Machine.execPlacement stk w s
  | .logSpaceFreed h => Sys2Proof.Machine.execLogSpaceFreed h s
  | .pinDrop core slot sector => Sys2Proof.Machine.execPinDrop core slot sector s
  | .memoryReply core sector => Sys2Proof.Machine.execMemoryReply core sector s
  | .homeOpResult h => Sys2Proof.Machine.execHomeOpResult h s
  | .mergeBeacon stk => Sys2Proof.Machine.execMergeBeacon stk s
  | .mergeBeaconReceive stk src f a => Sys2Proof.Machine.execMergeBeaconReceive stk src f a s
  | .mergeBeaconOverdue stk src => Sys2Proof.Machine.execMergeBeaconOverdue stk src s
  | .mergeApply stk => Sys2Proof.Machine.execMergeApply stk s
  | .compaction log => Sys2Proof.Machine.execCompaction log s
  | .mergeQueueResend stk => Sys2Proof.Machine.execMergeQueueResend stk s
  | .copyChunkStart core => Sys2Proof.Machine.execCopyChunkStart core s
  | .copyChunkComplete core => Sys2Proof.Machine.execCopyChunkComplete core s
  | .ckeyApply stk => Sys2Proof.Machine.execCkeyApply stk s
  | .launchCut stk idx => Sys2Proof.Machine.execLaunchCut stk idx s
  | .launchDone stk idx => Sys2Proof.Machine.execLaunchDone stk idx s
  | .idleSplit core => Sys2Proof.Machine.execIdleSplit core s
  | .splitRequest stk src w => Sys2Proof.Machine.execSplitRequest stk src w s
  | .splitReply stk => Sys2Proof.Machine.execSplitReply stk s
  | .instanceRestore stk n => Sys2Proof.Machine.execInstanceRestore stk n s
  | .instanceSpent stk w => Sys2Proof.Machine.execInstanceSpent stk w s
  | .evwaitTimeout h => Sys2Proof.Machine.execEvwaitTimeout h s
  | .infieldTestDue core => Sys2Proof.Machine.execInfieldTestDue core s
  | .infieldTestEnd core failed => Sys2Proof.Machine.execInfieldTestEnd core failed s
  | .infieldTestDeadline core => Sys2Proof.Machine.execInfieldTestDeadline core s
  | .bankMicroprogramStart stk die => Sys2Proof.Machine.execBankMicroprogramStart stk die s
  | .bankCompletion stk die e => Sys2Proof.Machine.execBankCompletion stk die e s
  | .refreshSlot stk die => Sys2Proof.Machine.execRefreshSlot stk die s
  | .dramSensorRead stk => Sys2Proof.Machine.execDramSensorRead stk s
  | .rowLockEffective stk n => Sys2Proof.Machine.execRowLockEffective stk n s
  | .rowRelease stk n => Sys2Proof.Machine.execRowRelease stk n s
  | .leaseExpiry stk n => Sys2Proof.Machine.execLeaseExpiry stk n s
  | .bcpWatchdogReset stk die => Sys2Proof.Machine.execBcpWatchdogReset stk die s
  | .bcpResetEnd stk => Sys2Proof.Machine.execBcpResetEnd stk s
  | .residencyCommand stk v => Sys2Proof.Machine.execResidencyCommand stk v s
  | .residencyDone stk => Sys2Proof.Machine.execResidencyDone stk s
  | .timeBeacon => Sys2Proof.Machine.execTimeBeacon s
  | .timeBeaconReceive stk t => Sys2Proof.Machine.execTimeBeaconReceive stk t s
  | .timeBeaconOverdue stk => Sys2Proof.Machine.execTimeBeaconOverdue stk s
  | .pfbFreeze stk cause detail => Sys2Proof.Machine.execPfbFreeze stk cause detail s
  | .freezeMessage stk cause detail => Sys2Proof.Machine.execFreezeMessage stk cause detail s
  | .serviceControlWrite stk off v => Sys2Proof.Machine.execServiceControlWrite stk off v s
  | .capmaskWrite stk c v => Sys2Proof.Machine.execCapmaskWrite stk c v s
  | .firmwareCapmaskWrite stk c v => Sys2Proof.Machine.execFirmwareCapmaskWrite stk c v s
  | .haltRelease stk c v => Sys2Proof.Machine.execHaltRelease stk c v s
  | .stackPtinv stk v => Sys2Proof.Machine.execStackPtinv stk v s
  | .pfbClearFrozen stk => Sys2Proof.Machine.execPfbClearFrozen stk s
  | .keyWrapKeyWrite stk v => Sys2Proof.Machine.execKeyWrapKeyWrite stk v s
  | .channelBindingWrite stk n v => Sys2Proof.Machine.execChannelBindingWrite stk n v s
  | .counterClear stk off => Sys2Proof.Machine.execCounterClear stk off s
  | .hostWrite port dom pa ide bytes => Sys2Proof.Machine.execHostWrite port dom pa ide bytes s
  | .hostRead port dom pa n ide => Sys2Proof.Machine.execHostRead port dom pa n ide s
  | .ptmRequest port => Sys2Proof.Machine.execPtmRequest port s
  | .tdiLeaveRun d => Sys2Proof.Machine.execTdiLeaveRun d s
  | .doorbell stk ch port v => Sys2Proof.Machine.execDoorbell stk ch port v s
  | .downLaunchHead stk ch => Sys2Proof.Machine.execDownLaunchHead stk ch s
  | .downLaunchTail stk ch => Sys2Proof.Machine.execDownLaunchTail stk ch s
  | .downCounterAdvance stk ch => Sys2Proof.Machine.execDownCounterAdvance stk ch s
  | .downNotify stk ch => Sys2Proof.Machine.execDownNotify stk ch s
  | .downResync stk ch => Sys2Proof.Machine.execDownResync stk ch s
  | .upMessage stk ch => Sys2Proof.Machine.execUpMessage stk ch s
  | .report stk => Sys2Proof.Machine.execReport stk s
  | .remoteWrite stk entry off add bytes => Sys2Proof.Machine.execRemoteWrite stk entry off add bytes s
  | .ethernetFrame peer seq ack bytes => Sys2Proof.Machine.execEthernetFrame peer seq ack bytes s
  | .frameResend peer => Sys2Proof.Machine.execFrameResend peer s
  | .connectionFail peer => Sys2Proof.Machine.execConnectionFail peer s
  | .flitReplay stk edge m crc => Sys2Proof.Machine.execFlitReplay stk edge m crc s
  | .linkPause stk edge m => Sys2Proof.Machine.execLinkPause stk edge m s
  | .linkUnpause stk edge m => Sys2Proof.Machine.execLinkUnpause stk edge m s
  | .linkRetrain stk edge m => Sys2Proof.Machine.execLinkRetrain stk edge m s
  | .linkRetrainEnd stk edge m => Sys2Proof.Machine.execLinkRetrainEnd stk edge m s
  | .linkClearRetry stk edge m => Sys2Proof.Machine.execLinkClearRetry stk edge m s
  | .linkInjectArm stk edge m v => Sys2Proof.Machine.execLinkInjectArm stk edge m v s
  | .linkInjectFire stk edge m => Sys2Proof.Machine.execLinkInjectFire stk edge m s
  | .linkWindowEnd stk edge m => Sys2Proof.Machine.execLinkWindowEnd stk edge m s
  | .powerSample stk mw => Sys2Proof.Machine.execPowerSample stk mw s
  | .thermalAlert stk die t => Sys2Proof.Machine.execThermalAlert stk die t s
  | .thermalShutdown => Sys2Proof.Machine.execThermalShutdown s
  | .coldReset => Sys2Proof.Machine.execColdReset s
  | .warmReset => Sys2Proof.Machine.execWarmReset s
  | .perst port low => Sys2Proof.Machine.execPerst port low s
  | .firmwareUpdate image => Sys2Proof.Machine.execFirmwareUpdate image s
  | .raiseFusedMinimum v => Sys2Proof.Machine.execRaiseFusedMinimum v s
  | .pldmFreeze => Sys2Proof.Machine.execPldmFreeze s
  | .pldmColdReset => Sys2Proof.Machine.execPldmColdReset s
  | .pldmWarmReset => Sys2Proof.Machine.execPldmWarmReset s
  | .readPhotoFinishEntries stk first count => Sys2Proof.Machine.execReadPhotoFinishEntries stk first count s
  | .readCounterBlock stk off count => Sys2Proof.Machine.execReadCounterBlock stk off count s
  | .clearFrozen stk => Sys2Proof.Machine.execClearFrozen stk s
  | .spdmKeyWrap key => Sys2Proof.Machine.execSpdmKeyWrap key s
  | .tick => Sys2Proof.Machine.execTick s
  | .mergeQueueDelivery stk n => Sys2Proof.Machine.execMergeQueueDelivery stk n s
  | .spdmKeyExchange both => Sys2Proof.Machine.execSpdmKeyExchange both s
  | .tdiEnterRun d run => Sys2Proof.Machine.execTdiEnterRun d run s

end Sys2Proof.Machine
end

