-- ==== Sys2Proof/Machine/Fetch.lean ====
section
/-! DEFINITION. Instruction fetch (R100, R228, R235, R454), the checks of a whole convoy (R26, R27, R99) and the beginning
of a convoy. -/

namespace Sys2Proof.Machine

/-! ## Fetch -/

/-- The byte that a fetch reads at a canonical address: a shared sector's, else home memory's; never a relay log's (R244).
A row locked by the hart's gang is read in place (R311). -/
def State.fetchByte (s : State) (p : Nat) : Byte :=
  if (s.stack (homeOf p)).ownRow s.hart.gangKey (frameOf p) then s.mem.read p
  else
    match (s.core s.hart.core).view.find? fun x => x.addr == sectorOf p && x.pin == none with
    | some x => x.data.extractLsb' (8 * (p % 64)) 8
    | none => s.mem.read p

/-- The bytes of a fetch from physical addresses: `p` for the bytes on the first page, `q` for a last byte on the next. -/
def State.fetchView (s : State) (a p q n : Nat) : Nat → Nat
  | 0 => 0
  | i + 1 =>
    let j := n - (i + 1)
    (s.fetchByte (if (a + j) / 65536 = a / 65536 then p + j else q - i)).toNat + 256 * State.fetchView s a p q n i

/-- A sector made readable for a fetch, as a shared sector of the view cache. -/
def State.ensureFetch (s : State) (sec : Nat) (res : Bool) : Res State :=
  match s.served sec with
  | .inPlace => .ok s
  | .ownBad => .fault s 0x0E (BitVec.ofNat 64 sec)
  | .ownWait => .wait s (.deferredRead sec)
  | sv =>
    match (s.core s.hart.core).view.find? fun x => x.addr == sec && x.pin == none with
    | some _ => .ok (s.countView (sec + 1) true)
    | none =>
      match sv with
      | .poisoned => .fault (s.countView (sec + 1) false) 0x0E (BitVec.ofNat 64 sec)
      | .wait | .cut => .wait (s.countView (sec + 1) false) (.deferredRead sec)
      | _ => .ok ((s.countView (sec + 1) false).fill s.hart.core sec res)

/-- A fetch by a compute hart: translated in the fetch bank of its core, then read in its view. -/
def State.fetchShared (s : State) (a : Word) (n : Nat) : Res (State × Nat) :=
  let last := a + BitVec.ofNat 64 (n - 1)
  let as : List (Nat × Word) := if a.toNat / 65536 = last.toNat / 65536 then [(0, a)] else [(0, a), (0, last)]
  (translateAll s .fetch as s.walks).andThen (fun _ => (s, 0)) fun x =>
    let p := x.1.headD (0, false)
    let q := x.1.getLastD (0, false)
    let s := s.setTlb x.2
    let last := if as.length = 1 then p.1 + n - 1 else q.1
    (((s.ensureFetch (sectorOf p.1) p.2).then fun s =>
      if sectorOf last = sectorOf p.1 then .ok s else s.ensureFetch (sectorOf last) q.2).keepWalks s).andThen
      (fun s => (s, 0)) fun s => .ok (s, s.fetchView a.toNat p.1 q.1 n n)

/-- A fetch by a service core, from the body of its image alone (R454). -/
def State.fetchImage (s : State) (a : Word) (n : Nat) : Res (State × Nat) :=
  let base := Config.window + 0x400100
  if a.toNat < base ∨ Config.window + 0x400000 + s.image.length < a.toNat + n then .trap 0x02 a
  else .ok (s, bytesAt s.image (a.toNat - Config.window - 0x400000) n)

/-- The `n` bytes that the selected context fetches at an address. -/
def State.fetchBytes (s : State) (a : Word) (n : Nat) : Res (State × Nat) :=
  if s.hart.service then s.fetchImage a n else s.fetchShared a n

/-- The member words that a header's count names, from member `k` on. -/
def State.fetchMembers (s : State) (k : Nat) : Nat → Res (State × List (BitVec 64))
  | 0 => .ok (s, [])
  | n + 1 =>
    (s.fetchBytes (s.hart.memberAddr k) 8).andThen (fun x => (x.1, [])) fun x =>
      (State.fetchMembers x.1 (k + 1) n).andThen id fun y => .ok (y.1, BitVec.ofNat 64 x.2 :: y.2)

/-! ## The convoy as a whole -/

/-- Rows of R27 that look at the header and the unit fields of its members: unit codes, units that appear too often, slots
that disagree, fields of unused slots, reserved bits. -/
def headerSound (h : Header) (ws : List (BitVec 64)) : Bool :=
  let n := h.members
  let units := (List.range n).map fun k => (h.unit k).toNat
  units.all (fun u => decide (u < 6)) &&
  (List.range 6).all (fun u => decide ((units.filter fun x => x == u).length ≤ if u = 0 then 2 else 1)) &&
  (List.range n).all (fun k => (ws.getD k 0).extractLsb' 0 3 == h.unit k) &&
  (List.range 4).all (fun k => decide (k < n) || (h.unit k == 0 && !h.chained k)) &&
  h.reserved == 0

/-- Members checked in order (R99 stage 1, step 5): the instructions, or the cause and value of the first failure. -/
def stage1All (s : State) (n k : Nat) : List (BitVec 64) → Except (Nat × Word) (List Instr)
  | [] => .ok []
  | w :: r =>
    match decodeMember w with
    | .error _ => .error (0x10, s.hart.memberAddr k)
    | .ok i =>
      if (Instr.memberInfo i).alone && decide (1 < n) then .error (0x10, s.hart.memberAddr k)
      else match stage1 s k i with
        | some e => .error e
        | none => match stage1All s n (k + 1) r with
          | .ok l => .ok (i :: l)
          | .error e => .error e

/-- Stage 1 of R99 after the fetch: the members, or the failure. -/
def convoyChecks (s : State) (h : Header) (ws : List (BitVec 64)) : Except (Nat × Word) (List Instr) :=
  let a := s.hart.pc
  if a.toNat % 8 ≠ 4 then .error (0x10, a)
  else if !headerSound h ws then .error (0x10, a)
  else if h.matrix ≠ s.hart.regs.mode then .error (0x12, a)
  else match stage1All s h.members 0 ws with
    | .error e => .error e
    | .ok is =>
      if 16 < (is.map fun i => (Instr.memberInfo i).writes).foldl (· + ·) 0 then .error (0x10, a) else .ok is

/-- The convoy begun: its registers are recorded for R28 and R30. -/
def State.beginConvoy (s : State) (h : Header) : State :=
  s.modHart fun x => { x with saved := x.regs, cv := { active := true, count := h.members, chain := h.chain }
                              att := if x.answered then x.att else { x.att with ran := [], walked := [] } }

/-! ## An instruction laid where the next step fetches it -/

/-- The module with one context in slot 0 of core 0 of stack 0, in domain 0, at address 0, entitled to every class and
format, whose code page has the physical address 0 and whose turn is next. -/
def State.withProgramAt (s : State) (pc : Word) (matrix : Bool) (m : Memory) : State :=
  { s with
    others := Tbl.drop (if s.hart.key = 0 then s.others else s.others.put s.hart.key s.hart) 0
    hart := { pc := pc, usemask := Config.allCaps, regs := { grant := 1, vlen := if matrix then 1024 else 128, mode := matrix } }
    mem := m.write Config.ownerTableOff 0
    cores := s.cores.put 0 { (s.core 0) with
      capmask := Config.allCaps
      tlb := [{ bank := 0, dom := 0, page := 0, level := 3, entry := 0x13 }]
      lat := [(0, { owner := 0, assigned := true })] }
    agenda := [.issue 0] }

/-- The bits of one instruction placed for the next step: a scalar word at address 0, a member as a convoy of one whose
header is at address 4. -/
def State.placeWord (s : State) (nbits w : Nat) : State :=
  if nbits ≤ 32 then s.withProgramAt 0 false (s.mem.writeN 0 4 w)
  else
    let unit : BitVec 3 := BitVec.ofNat 3 w
    let h : Header := { reserved := 0, matrix := unit == 3, chain := 0, units := unit.setWidth 12, count := 0 }
    s.withProgramAt 4 (unit == 3) ((s.mem.writeN 4 4 h.join.toNat).writeN 8 8 w)

end Sys2Proof.Machine
end

