-- ==== Sys2Proof/Machine/Issue.lean ====
section
/-! DEFINITION. The issue of a context's next instruction: fetch, the fate of what was fetched, and a convoy as the run of
its members and its retirement. -/

namespace Sys2Proof.Machine

/-- A trap outcome at the instruction of the selected context. -/
def trapHere (s : State) (c : Nat) (v : Word) : Host.Outcome State Fault Refusal := .next (s.takeTrap c v s.hart.pc)

/-- What a fetch that did not succeed makes of an instruction, which has not issued. -/
def settleFetch {α : Type} (s : State) (r : Res (State × α)) (k : State × α → Host.Outcome State Fault Refusal) :
    Host.Outcome State Fault Refusal :=
  match r with
  | .ok a => k a
  | .trap c v => trapHere s c v
  | .fault s' c v => trapHere s' c v
  | .late _ x => trapHere s 0x1B x
  | .wait x p => .next ((x.1.modHart fun h => { h with att := { h.att with issued := false } }).park p)

/-- What stands in for results that have still to be asked for: the v-registers and the predicates that hold it, and whether
FTRIM does. -/
structure Pending where
  vregs : List VReg := []
  preds : List PReg := []
  trim : Bool := false
  deriving DecidableEq, Repr

/-- The eight predicates that PPACK and PUNPACK name (R136). -/
def eightPreds (q : BitVec 2) : List PReg := (List.range 8).map fun j => BitVec.ofNat 5 (8 * q.toNat + j)

/-- The predicates that a member writes (R92, R126). -/
def Instr.predsOut : Instr → List PReg
  | .vcmp _ d .. | .vconf _ d .. | .psetc _ d _ | .pand _ d .. | .por _ d .. | .pxor _ d .. | .pnot _ d _ | .pandn _ d .. => [d]
  | .punpack q .. => eightPreds q
  | .vput _ _ _ _ p | .cpy _ _ _ _ _ p | .cpy2d _ _ _ _ _ _ _ p | .cpyd _ _ _ _ _ _ p | .cpye _ _ _ _ _ _ p =>
    if p = 0 then [] else [p]
  | _ => []

/-- The governing fields of a member that has them (R74). -/
def Instr.gov : Instr → Option Gov
  | .vadd g .. | .vsub g .. | .vmul g .. | .vmulh g .. | .vfma g .. | .vfms g .. | .vnfma g .. | .vdiv g .. | .vsqrt g .. | .vrcp g ..
  | .vrsq g .. | .vexp2 g .. | .vlog2 g .. | .vtanh g .. | .vmin g .. | .vmax g .. | .vabs g .. | .vneg g .. | .vand g .. | .vor g ..
  | .vxor g .. | .vnot g .. | .vshl g .. | .vshr g .. | .vrot g .. | .vclz g .. | .vpopc g .. | .vclmul g .. | .vcmp g .. | .vsel g ..
  | .vcvt g .. | .vscale g .. | .vqnt g .. | .vmov g .. | .vsplat g .. | .viota g .. | .psetc g .. | .pand g .. | .por g .. | .pxor g ..
  | .pnot g .. | .pandn g .. | .vperm g .. | .vput g .. | .vslu g .. | .vsld g .. | .vcomp g .. | .vexpd g .. | .vred g .. | .vscan g ..
  | .vconf g .. | .vzip g .. | .vunzip g .. | .vbcast g .. | .vexts g .. | .vinss g .. | .plead g .. | .pnum g .. | .vld g .. | .vlds g ..
  | .vldx g .. | .vst g .. | .vsts g .. | .vstx g .. | .vlsx g .. | .vssx g .. | .vldh g .. | .vamo g .. | .mma g .. | .mmas g ..
  | .mxext g .. | .mxins g .. => some g
  | _ => none

/-- The predicates that a member reads: the one that governs it and its sources; p0 is no variable. -/
def Instr.predsIn (i : Instr) : List PReg :=
  (((Instr.gov i).toList.map fun g => g.pred) ++ match i with
    | .vsel _ _ _ _ p | .pnot _ _ p | .pmovs _ p _ | .plead _ _ p | .pnum _ _ p => [p]
    | .pand _ _ a b | .por _ _ a b | .pxor _ _ a b | .pandn _ _ a b => [a, b]
    | .ppack _ q _ => eightPreds q
    | _ => []).filter fun p => !(p == 0)

/-- A member reads earlier results (R28). -/
def Hart.chained (h : Hart) : Bool := decide (0 < h.cv.idx) && h.cv.chain.getLsbD (h.cv.idx - 1)

/-- The v-registers that a member writes: those that `memberInfo` names first. -/
def Instr.vregsOut (i : Instr) : List VReg :=
  (Instr.memberInfo i).vregs.take ((Instr.memberInfo i).writes - (Instr.predsOut i).length)

/-- A member keeps something of what its destinations held (R62). -/
def Instr.merges (i : Instr) : Bool :=
  match i with
  | .ppack .. | .cpy .. | .cpy2d .. | .cpyd .. | .cpye .. => false
  | .vput .. | .vred .. => true
  | _ => !((Instr.gov i).any fun g => g.z)

/-- A member reads a source that holds a stand-in. -/
def Pending.reads (p : Pending) (i : Instr) : Bool :=
  (Instr.predsIn i).any p.preds.contains || ((Instr.memberInfo i).vregs.drop (Instr.vregsOut i).length).any p.vregs.contains

/-- A member reads what stands in for a result, or keeps some of it: it runs again with the result. -/
def Pending.meets (p : Pending) (h : Hart) (i : Instr) : Bool :=
  p.trim || (h.chained && (p.reads i || ((Instr.merges i) && ((Instr.predsOut i).any p.preds.contains || (Instr.vregsOut i).any p.vregs.contains))))

/-- What stands in for results after a member that asks for one or meets a stand-in: its destinations too. -/
def Pending.after (p : Pending) (i : Instr) : Pending :=
  { vregs := (Instr.vregsOut i) ++ p.vregs
    preds := (Instr.predsOut i) ++ p.preds
    trim := p.trim || match i with | .vld _ _ _ _ _ ff _ | .vlds _ _ _ _ _ ff _ | .vldx _ _ _ _ _ ff _ => ff | _ => false }

/-- What stands in for results after another member: its destinations no more. -/
def Pending.without (p : Pending) (i : Instr) : Pending :=
  { p with vregs := p.vregs.filter fun r => !(Instr.vregsOut i).contains r, preds := p.preds.filter fun r => !(Instr.predsOut i).contains r }

/-- The results that a convoy has still to ask for. -/
def Hart.asked (h : Hart) : Nat := h.cv.effects.countP Effect.waits

/-- The addresses of a member's elements rest on what stands in for a result: on FTRIM, or when the member is chained on its index
register or on the predicate that governs it. -/
def Pending.places (p : Pending) (h : Hart) (i : Instr) : Bool :=
  p.trim || h.chained &&
  let by_ (g : Gov) : Bool := !(g.pred == 0) && p.preds.contains g.pred
  match i with
  | .vld g .. | .vlds g .. | .vst g .. | .vsts g .. => by_ g
  | .vldx g _ _ _ vi _ _ | .vstx g _ _ _ vi | .vldh g _ _ _ vi _ | .vamo g _ _ _ _ _ vi => by_ g || p.vregs.contains vi
  | .vlsx g _ _ _ vi | .vssx g _ _ _ vi => by_ g || (!(vi == 0) && p.vregs.contains vi)
  | _ => false

/-- A member's scalar result rests on what stands in for a result; a tag does not. -/
def Pending.gives (p : Pending) (h : Hart) (i : Instr) : Bool :=
  match i with
  | .vtagq .. => false
  | _ => p.trim || (h.chained && p.reads i)

/-- A member that did not go on did so because of the values that stand in for results: it waits or takes a memory fault at an
address that rests on them, or a stack-limit fault by a value that does. -/
def Pending.excuses (p : Pending) (i : Instr) (s : State) : Bool :=
  s.hart.asks &&
  match exec i (s.modHart fun h => { h with tlevel := 0 }) with
  | .next t =>
    let c := t.hart.trap1.cause.toNat
    if t.hart.tlevel = 0 ∨ (8 ≤ c ∧ c ≤ 0x0C) ∨ c = 0x0E then p.places s.hart i else c == 0x1B && p.gives s.hart i
  | _ => false

/-- A member looks outside the registers of its hart: at memory, at its gang's banks or at its copies. -/
def Instr.looksOut (i : Instr) : Bool :=
  let c := (Instr.memberInfo i).cls
  (decide (43 ≤ c) && decide (c ≤ 46)) || (decide (50 ≤ c) && decide (c ≤ 56))

/-- What a member did, from the states before and after it: the registers that it changed, and its destinations. -/
def ranFrom (s t : State) (i : Instr) : Ran :=
  let r := s.hart.regs
  let q := t.hart.regs
  { idx := s.hart.cv.idx
    v := q.v.filter fun e => !(r.v.contains e) || (Instr.vregsOut i).contains (BitVec.ofNat 6 e.1)
    p := q.p.filter fun e => !(r.p.contains e) || (Instr.predsOut i).contains (BitVec.ofNat 5 e.1)
    bp := q.bp.filter fun e => !(r.bp.contains e)
    ftrim := q.ftrim
    effects := t.hart.cv.effects.take (t.hart.cv.effects.length - s.hart.cv.effects.length) }

/-- What a member that looks outside its hart did is kept, so that it neither looks nor fails again when the convoy runs with its
results (R100, R208). -/
def State.keepRan (s t : State) (i : Instr) : State :=
  if Instr.looksOut i && !s.hart.answered then
    t.modHart fun h => { h with att := { h.att with ran := ranFrom s t i :: h.att.ran } }
  else t

/-- What the member executing now did before the convoy's requests left. -/
def Hart.ranNow (h : Hart) : Option Ran := if h.answered then h.att.ran.find? fun r => r.idx == h.cv.idx else none

/-- A member done as before the convoy's requests left. -/
def State.redo (s : State) (r : Ran) : State :=
  (s.modHart fun h => { h with
    regs := { (r.v.foldl (fun q e => q.wv (BitVec.ofNat 6 e.1) e.2) h.regs) with
      p := r.p.foldl (fun t e => t.put e.1 e.2) h.regs.p
      bp := r.bp.foldl (fun t e => t.put e.1 e.2) h.regs.bp
      ftrim := r.ftrim }
    cv := { h.cv with effects := r.effects ++ h.cv.effects } }).memberDone

/-- Members run in order; when one traps or waits the rest do not run, and when all have run the convoy retires. Behind a member
whose result has still to be asked for, a member that meets what stands in for it runs again with the result, and is passed over
if it stops because of the stand-in; a member that looks outside its hart and does not meet it runs only once. Every other
failure is taken before anything leaves the hart (R99, R208). -/
def runMembers (s : State) (p : Pending) : List Instr → Host.Outcome State Fault Refusal
  | [] => exec .convoyRetire s
  | i :: r =>
    match s.hart.ranNow with
    | some k => runMembers (s.redo k) p r
    | none =>
      let meets := s.hart.asks && p.meets s.hart i
      match exec i s with
      | .next s' =>
        if s'.hart.cv.active then
          if meets || decide (s.hart.asked < s'.hart.asked) then runMembers s' (p.after i) r
          else runMembers (s.keepRan s' i) (p.without i) r
        else if p.excuses i s then runMembers s.memberDone (p.after i) r
        else .next s'
      | o => o

/-- The instruction word, or the words of the convoy, that the context executes, kept while it is under way; it has issued. -/
def State.latch (s : State) (ws : List Word) : State :=
  s.modHart fun h => { h with inst := ws, att := { h.att with issued := true } }

/-- A convoy whose member words are here: its checks, then its members. -/
def runMemberWords (s : State) (h : Header) (ws : List (BitVec 64)) : Host.Outcome State Fault Refusal :=
  match convoyChecks s h ws with
  | .error (0x10, v) => exec (.illegalWord v) s
  | .error (c, v) => trapHere s c v
  | .ok is => runMembers (s.beginConvoy h) {} is

/-- A convoy header: a convoy that is under way has its member words, another fetches them. -/
def runConvoy (s : State) (w : Word) (h : Header) : Host.Outcome State Fault Refusal :=
  if s.hart.underWay then runMemberWords s h (s.hart.inst.drop 1)
  else settleFetch s (s.fetchMembers 0 h.members) fun x => runMemberWords (x.1.latch (w :: x.2)) h x.2

/-- A 32-bit word. -/
def runWord (s : State) (w : BitVec 32) : Host.Outcome State Fault Refusal :=
  match fetched w with
  | .word i => exec i s
  | .convoy h => if s.hart.service then exec (.illegalWord (w.setWidth 64)) s else runConvoy s (w.setWidth 64) h
  | .bad _ => exec (.illegalWord (w.setWidth 64)) s

/-- The marks of an issue (R36): the core has issued on this tick, from this slot. A waiting context entered again is only
marked as tried. -/
def State.markIssue (s : State) : State :=
  if s.hart.phase = .run && !s.hart.cv.active then
    let s := s.modHart fun h => { h with readyTicks := 0, skip := false }
    (s.modCore s.hart.core fun c => { c with issued := true, rr := s.hart.slotNo }).countCore s.hart.core 0
  else s.modHart fun h => { h with tried := true }

/-- An instruction of the context is under way and cannot be given up (R38, R208). -/
def Hart.inFlight (h : Hart) : Bool :=
  h.cv.active || match h.phase with
    | .ordering | .published _ | .acquiring | .requested _ | .returned _ _ | .released _ | .branch _ _ => true
    | .retry | .deferredRead _ => h.att.issued
    | _ => false

/-- The predicates as the next instruction samples them: chunks completed while they stood are set (R126). -/
def State.sample (s : State) : State := if s.hart.sampled then s else s.modHart Hart.flushChunks

/-- The instruction at the program counter is fetched and runs; one that is under way goes on from where it stands. -/
def runNext (s : State) : Host.Outcome State Fault Refusal :=
  if s.hart.underWay then runWord s ((s.hart.inst.headD 0).setWidth 32)
  else settleFetch s (s.fetchBytes s.hart.pc 4) fun x =>
    runWord (x.1.latch [BitVec.ofNat 64 x.2]) (BitVec.ofNat 32 x.2)

/-- The next instruction of context `k` issues, or the one it waits at is entered again. -/
def issueCtx (s : State) (k : Nat) : Host.Outcome State Fault Refusal :=
  let s := s.select k
  if s.hart.key ≠ k ∨ s.hart.slot = .saved ∨ s.hart.slot = .saving ∨ s.hart.slot = .ended then .next s
  else
    let s := s.markIssue
    match s.hart.phase with
    | .requested _ | .branch _ _ => .next s
    | .readError sec => trapHere s 0x0E (BitVec.ofNat 64 sec)
    | _ =>
      if s.hart.cv.active then exec .convoyRetire s
      else if s.hart.tlevel = 0 && !s.hart.inFlight && (s.hart.async30.isSome || s.hart.async31.isSome) then exec .asyncTrap s
      else if (s.hart.phase = .run ∨ s.hart.phase = .retry) ∧ !s.hart.underWay ∧ s.forcedWaits then .next (s.park .retry)
      else runNext s.forcedPublish.sample

end Sys2Proof.Machine
end

