-- ==== Sys2Proof/Machine/Engine.lean ====
section
/-! DEFINITION. Which agent moves next: the agenda, then the module's own engines, then the contexts that wait, then the
Ready context that each core chooses (R36), then the clock. -/

namespace Sys2Proof.Machine

/-- What an agent would do now, if anything is due. -/
abbrev Due := Option (Host.Outcome State Fault Refusal)

/-- A step that is due under a condition. -/
def whenDue (c : Bool) (f : Unit → Host.Outcome State Fault Refusal) : Due := if c then some (f ()) else none

/-! ## Memory and time -/

/-- The merge engine of a stack can go on. -/
def State.mergeReady (s : State) (stk : Nat) : Bool :=
  let t := s.stack stk
  match t.nextMerge with
  | none => false
  | some e =>
    (match e.origin with | .publication l q => !s.lineGood l q | _ => false) ||
    (e.part (t.defers e.key)).isNone || decide (t.deferred.length < deferDepth) || !t.deferStall

/-- The first entry on its way to a stack that can arrive: a path leads from its sender, which sent none before it (R398, R402). -/
def State.arrivesAt (s : State) (k : Nat) : Option Nat :=
  let es := (s.stack k).inbound
  (List.range es.length).find? fun n =>
    match es[n]? with
    | some e => s.reaches (s.senderOf e) k && !((es.take n).any fun x => s.senderOf x == s.senderOf e)
    | none => false

/-- Memory, links and beacons of a stack. -/
def dueMemory (s : State) (k : Nat) : Due :=
  let t := s.stack k
  let now := (s.time k).toNat
  (whenDue t.resCmd.isSome fun _ => execResidencyDone k s) <|>
  (match s.arrivesAt k with | some n => some (execMergeQueueDelivery k n s) | none => none) <|>
  (whenDue (t.refused.any fun e => decide (e.1 ≤ now)) fun _ => execMergeQueueResend k s) <|>
  (whenDue (s.mergeReady k) fun _ => execMergeApply k s) <|>
  (t.links.findSome? fun l =>
    (whenDue (l.2.pause && l.2.state == 2) fun _ => execLinkPause k (l.1 / 8) (l.1 % 8) s) <|>
    (whenDue (l.2.state == 4 && decide (l.2.done ≤ now)) fun _ => execLinkRetrainEnd k (l.1 / 8) (l.1 % 8) s) <|>
    (whenDue (now % 65536 == 0 && (l.2.threshold || l.2.window != 0)) fun _ => execLinkWindowEnd k (l.1 / 8) (l.1 % 8) s))

/-- Beacons, once bring-up has begun them (R445), and the events of those that are late. -/
def dueBeacons (s : State) : Due :=
  let ks := List.range Config.stackCount
  (if s.bringUp = 0 then none
   else
    (whenDue s.timeDue fun _ => execTimeBeacon s) <|>
    (ks.findSome? fun k =>
      let now := (s.time k).toNat
      whenDue (now % 64 == 0 && !((s.stack k).beaconSent == some now)) fun _ => execMergeBeacon k s) <|>
    (ks.findSome? fun k => ks.findSome? fun j => whenDue (s.beaconIsLate k j) fun _ => execMergeBeaconOverdue k j s)) <|>
  (ks.findSome? fun k => whenDue (s.timeIsLate k) fun _ => execTimeBeaconOverdue k s)

/-! ## Banks -/

/-- The bank command processor of a stack. -/
def dueBanks (s : State) (k : Nat) : Due :=
  let t := s.stack k
  let now := (s.time k).toNat
  (t.channels.findSome? fun c =>
    (whenDue (s.channelStuck k c.1) fun _ => execBcpWatchdogReset k c.1 s) <|>
    (whenDue (c.2.ended now) fun _ => execBankCompletion k c.1 ⟨[], 0⟩ s)) <|>
  (match t.bcpReset with | some u => whenDue (decide (u ≤ now) || !t.bcpq.isEmpty) fun _ => execBcpResetEnd k s | none => none) <|>
  (t.locks.findSome? fun l =>
    (whenDue (t.lockReady l.1).isSome fun _ => execRowLockEffective k l.1 s) <|>
    (whenDue ((t.brulOf l.1).isSome || ((t.endedLock l.1).isSome && s.bankKeyReady k)) fun _ => execRowRelease k l.1 s) <|>
    (whenDue (s.leaseOver k l.1).isSome fun _ => execLeaseExpiry k l.1 s)) <|>
  (if t.bcpq.isEmpty || t.bcpReset.isSome then none
   else (List.range 12).findSome? fun d =>
    whenDue (t.nextStart d).isSome fun _ => execBankMicroprogramStart k d s) <|>
  ((List.range 12).findSome? fun d => whenDue (t.slotDue now d) fun _ => execRefreshSlot k d s) <|>
  (whenDue (now % 600000 == 0 && !(t.sensed == some now)) fun _ => execDramSensorRead k s)

/-! ## Launches -/

/-- The order in which placement serves instances (R364). -/
def State.placeOrder (s : State) (x : Walker) : List Nat :=
  let l := s.launchAt x.home x.launch
  [if recSprint l.words then 0 else 1, 7 - recPrio l.words, l.arrival.toNat, x.serial.toNat]

/-- An instance of higher priority and the same class waits for cores of the context's stack that it can have: the context
resumes after its placement (R37, R38). -/
def State.outranked (s : State) (h : Hart) : Bool :=
  (s.stack h.stk).walkers.any fun w =>
    let ws := (s.launchAt w.2.home w.2.launch).words
    recSprint ws == h.sprint && decide (h.prio < recPrio ws) && (s.roomCores h.stk w.2).isSome

/-- A core that a saved context could resume on if it had room there (R41). -/
def State.couldUse (s : State) (h : Hart) (g : Nat) : Bool :=
  (match h.migrate with | some m => m == g | none => true) &&
  (if h.held = 0 then h.usemask &&& ~~~(s.core g).capmask == 0 else h.heldCore == g) &&
  ((s.stack h.stk).reservationOf (g % 48)).isSome == h.sprint

/-- A saved context's instance has a walker entry, or one is free, or one that holds contexts in slots will be (R365). -/
def State.entryComes (s : State) (h : Hart) : Bool :=
  let t := s.stack h.instStack
  (s.frozenOf h).isNone || (freeIndex t.walkers 32).isSome ||
  t.walkers.any fun w => w.2.bound.any fun k => match s.ctx k with | some x => x.resident | none => false

/-- The place in which a saved context resumes now. -/
def State.resumeNow (s : State) (h : Hart) : Option (Nat × Nat) :=
  if h.slot = .saved ∧ !s.outranked h then
    (s.resumePlace h).bind fun p => if (s.resumeAll h p.1 p.2).isSome then some p else none
  else none

/-- A placement of an instance leaves the cores that it would take to a saved context of its class and of no lower priority that
could use one of them, whether it can resume at once or has to wait for more room (R37). -/
def State.yieldsTo (s : State) (k : Nat) (x : Walker) (h : Hart) : Bool :=
  let ws := (s.launchAt x.home x.launch).words
  h.slot == .saved && h.stk == k && h.sprint == recSprint ws && decide (recPrio ws ≤ h.prio) && s.entryComes h &&
  ((s.placeCores k x).getD []).any (s.couldUse h)

/-- The instance of a stack that places next. -/
def State.nextPlacement (s : State) (k : Nat) : Option Nat :=
  let ws := (s.stack k).walkers.filter fun w =>
    w.2.state == .active && (s.placeNext k w.1).isSome && !(s.harts.any (s.yieldsTo k w.2))
  (chooseBy (fun a b => lexLt (s.placeOrder a.2) (s.placeOrder b.2)) ws).map Prod.fst

/-- A piece of a cut can be made now. -/
def State.cutReady (s : State) (k idx : Nat) (l : Launch) : Bool :=
  (l.state == .waiting && s.waitHolds k l.words 0 && s.waitHolds k l.words 1) ||
  (l.state == .running && l.pieces.any fun p => (s.makePiece k idx p).isSome)

/-- An idle core's split can go on. -/
def State.splitReady (s : State) (g : Nat) : Bool :=
  match s.idleChoice g, freeIndex (s.stack (g / 48)).walkers 32 with
  | some x, some free =>
    if x.1 = g / 48 then (s.splitInto (g / 48) x.2.1 (g / 48) free).isSome
    else (s.holdEntry (g / 48) x.2.2.2.home x.2.2.2.launch).isSome
  | _, _ => false

/-- The down ring of a channel: a pair that finds the launch table full waits there, and nothing behind it is read (R407). -/
def dueDown (s : State) (k ch : Nat) (c : Chan) : Due :=
  match s.downNext k ch with
  | none => none
  | some (_, _, none, _) => some (execDownLaunchHead k ch s)
  | some (_, _, some m, _, p) =>
    match c.head, msgType m with
    | some h, 2 =>
      whenDue ((freeIndex (s.stack k).launches 256).isSome || (s.recFault (pairRecord h m) false).isSome) fun _ =>
        execDownLaunchTail k ch s
    | some _, _ => some (execDownLaunchHead k ch s)
    | none, 2 => some (execDownLaunchTail k ch s)
    | none, 3 =>
      whenDue (decide (4095 < bytesAt m 8 8) || bytesAt m 0x10 8 == 0 || s.portReady p) fun _ => execDownCounterAdvance k ch s
    | none, 4 => some (execDownNotify k ch s)
    | none, 5 => some (execDownResync k ch s)
    | none, _ => some (execDownLaunchHead k ch s)

/-- The Waiting entries of a stack in the order in which they are examined: sprint first, then priority, then arrival (R360). -/
def State.waitingOrder (s : State) (k : Nat) : Option (Nat × Launch) :=
  chooseBy (fun a b => lexLt (rank a.2) (rank b.2))
    ((s.stack k).launches.filter fun l => l.2.state == .waiting && s.cutReady k l.1 l.2)
where
  /-- Its place in that order. -/
  rank (l : Launch) : List Nat := [if recSprint l.words then 0 else 1, 7 - recPrio l.words, l.arrival.toNat]

/-- The context that the walker unit asks to make room: of the first instance that waits for cores which contexts of lower
priority hold, one that has not been asked (R38). -/
def State.toPreempt (s : State) (k : Nat) : Option Nat :=
  let ws := (s.stack k).walkers.filter fun w => (s.placeNext k w.1).isNone && (s.roomCores k w.2).isSome
  match chooseBy (fun a b => lexLt (s.placeOrder a.2) (s.placeOrder b.2)) ws with
  | none => none
  | some w =>
    let words := (s.launchAt w.2.home w.2.launch).words
    ((s.roomCores k w.2).getD []).findSome? fun g =>
      if s.eligible g words then none else ((s.below g words).find? fun h => !h.preempt).map fun h => h.key

/-- Launches, walkers, reports and host channels of a stack. -/
def dueLaunches (s : State) (k : Nat) : Due :=
  let t := s.stack k
  (t.chans.findSome? fun c =>
    (dueDown s k c.1 c.2) <|> (whenDue (s.upNext k c.1).isSome fun _ => execUpMessage k c.1 s)) <|>
  (whenDue (!t.reports.isEmpty && s.onNetwork) fun _ => execReport k s) <|>
  (match s.waitingOrder k with | some l => some (execLaunchCut k l.1 s) | none => none) <|>
  (t.launches.findSome? fun l =>
    (whenDue (s.cutReady k l.1 l.2) fun _ => execLaunchCut k l.1 s) <|>
    (whenDue (s.launchOver k l.1) fun _ => execLaunchDone k l.1 s)) <|>
  (t.walkers.findSome? fun w => whenDue (w.2.state == .spent && w.2.bound.isEmpty && s.reaches k w.2.home) fun _ => execInstanceSpent k w.1 s) <|>
  (match s.nextPlacement k with | some w => some (execPlacement k w s) | none => none) <|>
  (match s.toPreempt k with | some h => some (execPreemptRequest h false s) | none => none)

/-- An idle core asks for a split of a sprint launch. -/
def State.splitsSprint (s : State) (g : Nat) : Bool :=
  match s.idleChoice g with
  | some x => recSprint x.2.2.1.words
  | none => false

/-- Idle cores, when some instance can be split: requests for sprint launches first (R363). -/
def dueSplits (s : State) : Due :=
  if s.stackTab.all fun t => t.2.walkers.all fun w => !(w.2.state == .active && decide (2 ≤ w.2.rest)) then none
  else
    let gs := (List.range (Config.stackCount * Config.coresPerStack)).filter s.splitReady
    match (gs.find? s.splitsSprint).or gs.head? with
    | some g => some (execIdleSplit g s)
    | none => none

/-! ## Cores and contexts -/

/-- The key-slot change of a CKEY can go on: it clears the slot, its source can be read, or the read of a locked row is to be held. -/
def State.ckeyReady (s : State) (k : Nat) : Bool :=
  match s.readyCkey k with
  | none => false
  | some (g, c) => c.x.getLsbD 14 || (match s.copyRead g c c.src.toNat 40 with | .wait x => (s.copyHold g c 0 x).isSome | _ => true)

/-- The copy engine, the tests and the reset of a core. -/
def dueCore (s : State) (g : Nat) (c : CoreS) : Due :=
  let now := (s.time (g / 48)).toNat
  (whenDue (s.doneChunk g).isSome fun _ => execCopyChunkComplete g s) <|>
  (whenDue ((s.pickCopy g).isSome || !(s.copyHolds g).isEmpty) fun _ => execCopyChunkStart g s) <|>
  (whenDue ((g % 48 == 0 || !c.copies.isEmpty) && s.ckeyReady (g / 48)) fun _ => execCkeyApply (g / 48) s) <|>
  (match c.resetEnd with | some t => whenDue (decide (t ≤ now)) fun _ => execCoreResetEnd g s | none => none) <|>
  (whenDue (s.testFalls g) fun _ => execInfieldTestDue g s) <|>
  (whenDue (s.testOverdue g) fun _ => execInfieldTestDeadline g s) <|>
  (match c.testRun with | some (0, _) => some (execInfieldTestEnd g c.failing s) | _ => none) <|>
  (c.view.findSome? fun x => match x.pin with
    | some slot => whenDue (x.key.le (s.stack (homeOf x.addr)).applied) fun _ => execPinDrop g slot x.addr s
    | none => none)

/-- A saved context can be moved to the core that its migration names. -/
def State.canMove (s : State) (h : Hart) : Option Nat :=
  match h.migrate with
  | some g => if h.slot = .saved ∧ h.held ≠ 0 ∧ h.heldCore ≠ g ∧ (s.moveHeld h g).isSome then some g else none
  | none => none

/-- Steps of a context that are not its own instructions. -/
def dueContext (s : State) (h : Hart) : Due :=
  let now := (s.time h.stk).toNat
  (match h.phase with
    | .branch t _ => whenDue (decide (t ≤ now)) fun _ => execVbranchResolve h.key s
    | .requested _ => whenDue (h.awaiting == 0) fun _ => execHomeOpResult h.key s
    | .event (some d) => whenDue (decide (d ≤ now)) fun _ => execEvwaitTimeout h.key s
    | .testing u _ =>
      whenDue (decide (u ≤ now) && !(match (s.core h.core).testRun with | some (0, _) => true | _ => false)) fun _ =>
        execInfieldTestEnd h.core (s.core h.core).failing s
    | .deferredRead sec => whenDue ((s.select h.key).canServe sec) fun _ => execMemoryReply h.core sec s
    | _ => none) <|>
  (match h.npSince with | some t => whenDue (decide (t + Config.npBound ≤ now)) fun _ => execOverrunFault h.key s | none => none) <|>
  (whenDue h.accepts fun _ => execPreemptAccept h.key s) <|>
  (whenDue (h.slot == .draining && (s.drained h.key).isSome) fun _ => execDrainComplete h.key s) <|>
  (whenDue (h.slot == .saving) fun _ => execSaveComplete h.key s) <|>
  (match s.canMove h with | some g => some (execThermalMigration h.key g s) | none => none) <|>
  (match s.resumeNow h with | some p => some (execResume h.key p.1 p.2 s) | none => none)

/-- A context that waits is entered again, once a tick (R20). -/
def Hart.polls (h : Hart) : Bool :=
  (h.slot == .waiting || h.slot == .sleeping) && !h.tried &&
  ((h.tlevel == 0 && (h.async30.isSome || h.async31.isSome)) ||
    match h.phase with
    | .run => h.cv.active
    | .requested _ | .branch _ _ | .halted | .testing _ _ | .deferredRead _ | .arrived _ => false
    | .event _ => h.event
    | _ => true)

/-! ## Issue (R36) -/

/-- The effective priority of a hart. -/
def Hart.effective (h : Hart) : Nat := if h.sprint then 8 else Nat.min 7 (h.prio + h.readyTicks / 4096)

/-- A Ready hart may issue on this tick: its core has not issued, its clock is not stretched away (R442), and YIELD does not hold
it back. -/
def State.mayIssue (s : State) (h : Hart) : Bool :=
  s.isReady h && !h.skip && !(s.core h.core).issued && decide ((s.time h.stk).toNat % 8 < 8 - (s.core h.core).stretch)

/-- The distance of a slot from the one that issued last. -/
def State.turn (s : State) (h : Hart) : Nat := (h.slotNo + 3 - (s.core h.core).rr) % 4

/-- A hart precedes another of its core. -/
def State.precedes (s : State) (a b : Hart) : Bool := lexLt [8 - a.effective, s.turn a] [8 - b.effective, s.turn b]

/-- The hart that its core chooses. -/
def State.isChosen (s : State) (h : Hart) : Bool :=
  s.mayIssue h && !(s.harts.any fun x => x.core == h.core && s.mayIssue x && s.precedes x h)

/-- The context asks its walker unit next: its next instruction is WNEXT or WSPLIT. -/
def State.asksWalker (s : State) (h : Hart) : Bool :=
  match (s.select h.key).fetchBytes h.pc 4 with
  | .ok x => match fetched (BitVec.ofNat 32 x.2) with
    | .word (.wnext _) | .word (.wsplit _) => true
    | _ => false
  | _ => false

/-- The one with the lowest hart id. -/
def lowestHart (hs : List Hart) : Option Hart := chooseBy (fun a b => decide (a.loc < b.loc)) hs

/-- The hart that goes next on this tick: of those that are entered again and those that their cores choose, the one with the
lowest hart id, which orders the commit points of a tick (R306); a walker unit serves the sprint harts of a tick first (R363). -/
def State.chosen (s : State) : Option Hart :=
  let hs := s.harts.filter fun h => h.polls || s.isChosen h
  match lowestHart hs with
  | none => none
  | some h =>
    let first := hs.filter fun x => !h.sprint && x.sprint && x.instStack == h.instStack && x.phase == .run && s.asksWalker x
    if !first.isEmpty && s.asksWalker h then lowestHart first else some h

/-! ## One step -/

/-- The stacks between which a message goes; none for one that crosses no edge. -/
def Msg.ends : Msg → Option (Nat × Nat)
  | .freeze j k _ _ | .beacon k j _ _ | .split k j _ | .splitReply j k => some (j, k)
  | .time k _ _ => some (0, k)

/-- A message is still on its way: a time beacon takes 6 ticks a hop (R387, R398). -/
def Msg.early (m : Msg) (now : Word) : Bool :=
  match m with
  | .time _ _ at_ => decide (now.toNat < at_.toNat)
  | _ => false

/-- A message is received; one that is on its way or finds an edge that carries nothing waits, and so do those that its sender
sends there after it (R398, R402). -/
def receive (m : Msg) (s : State) : Host.Outcome State Fault Refusal :=
  let behind := match m.ends with
    | some (j, k) => m.early s.ticks || !s.reaches j k || s.stalled.any fun x => x.ends == some (j, k)
    | none => false
  if behind then .next { s with stalled := s.stalled ++ [m] }
  else match m with
    | .freeze _ k c d => execFreezeMessage k c d s
    | .beacon k j f a => execMergeBeaconReceive k j f a s
    | .split k j w => execSplitRequest k j w s
    | .splitReply j k => .next (s.splitReplied j k)
    | .time k t _ => execTimeBeaconReceive k t s

/-- The first of the module's engines that has something to do. -/
def engineDue (s : State) : Due :=
  (s.stackTab.findSome? fun t => dueMemory s t.1) <|>
  dueBeacons s <|>
  (s.stackTab.findSome? fun t => dueBanks s t.1) <|>
  (s.logs.findSome? fun l => whenDue l.2.reclaimable fun _ => execCompaction l.1 s) <|>
  (s.cores.findSome? fun c => if c.1 < 1152 then dueCore s c.1 c.2 else none) <|>
  (s.stackTab.findSome? fun t => dueLaunches s t.1) <|>
  (s.harts.findSome? fun h => dueContext s h) <|>
  (s.conns.findSome? fun c =>
    let now := (s.time (pathStack c.1)).toNat
    (whenDue (s.onNetwork && c.2.dead now) fun _ => execConnectionFail c.1 s) <|>
    (whenDue (s.onNetwork && !c.2.failed && !(c.2.stale now).isEmpty) fun _ => execFrameResend c.1 s)) <|>
  dueSplits s

/-- What works on the management controller's supply while clocks are stopped (R443, R450, R451). -/
def Instr.standby : Instr → Bool
  | .coldReset | .pldmColdReset | .perst .. | .firmwareUpdate _ | .readPhotoFinishEntries .. | .readCounterBlock .. | .clearFrozen _
  | .thermalAlert .. => true
  | _ => false

/-- The module's own next step. -/
def ownStep (s : State) : Host.Outcome State Fault Refusal :=
  match engineDue s with
  | some o => o
  | none =>
    match s.chosen with
    | some h => issueCtx s h.key
    | none => exec .tick s

/-- Nothing moves on its own: clocks are stopped, or the module is held in reset. -/
def State.still (s : State) : Bool := s.stopped || s.inReset

/-- One step of the module: the head of the agenda, else its own next step; while the module is still, nothing but the management
controller and the board's signals work. -/
def advance (s : State) : Host.Outcome State Fault Refusal :=
  match s.agenda with
  | .event i :: r => if s.still && !Instr.standby i then .next { s with agenda := r } else exec i { s with agenda := r }
  | .input i :: r => if s.still && !i.standby then .next { s with agenda := r } else receiveInput i { s with agenda := r }
  | .msg m :: r => if s.still then .next { s with agenda := r } else receive m { s with agenda := r }
  | .issue k :: r => if s.still then .next { s with agenda := r } else issueCtx { s with agenda := r } k
  | [] => if s.still then .next s else ownStep s

end Sys2Proof.Machine
end

