-- ==== Sys2Proof/Safety.lean ====
section
/-! DEFINITION. What counts as a safe run, and the terms in which claims are stated: when the checks of a word or of a
member pass (R98, R99), and the states that their effects give. -/

namespace Sys2Proof

/-- A step that neither faults nor is refused. -/
def Safe (s : Machine.State) : Prop := ∃ t, Machine.step s = .next t

namespace Machine

/-! ## Words -/

/-- The checks of R98 pass on a word of the selected context: legality, privilege, mode, use mask and CAPMASK. -/
def WordAdmitted (s : State) (i : Instr) : Prop :=
  (s.hart.service = true → (Instr.wordInfo i).service = true) ∧
  ((Instr.wordInfo i).priv = true → s.hart.tlevel ≠ 0 ∨ s.hart.service = true) ∧
  (if s.hart.regs.mode then (Instr.wordInfo i).matrix else (Instr.wordInfo i).vector) = true ∧
  (s.hart.service = false →
    s.hart.usemask.getLsbD (Instr.wordInfo i).cls = true ∧
    (s.core s.hart.core).capmask.getLsbD (Instr.wordInfo i).cls = true)

/-- The word answers this next state whenever its checks pass. -/
def WordGives (i : Instr) (s t : State) : Prop := WordAdmitted s i → exec i s = .next t

/-- The word writes `x` to `sd` and goes on, whenever its checks and the stack-limit check (R104) pass. -/
def WordWrites (i : Instr) (s : State) (sd : SReg) (x : Word) : Prop :=
  WordAdmitted s i → s.belowLimit sd x = false → exec i s = .next (s.ws sd x).next

/-- The word traps, whenever its checks pass. -/
def WordTraps (i : Instr) (s : State) (cause : Nat) (val : Word) : Prop :=
  WordAdmitted s i → exec i s = .next (s.takeTrap cause val s.hart.pc)

/-- The state after the draw of a word that rounds in mode `m`: SR advances RNGS once (R54). -/
def afterDraw (s : State) (m : Rnd) : State :=
  if m = .sr then s.modRegs fun r => { r with rngs := rngStep r.rngs } else s

/-- The number drawn. -/
def drawnFor (s : State) (m : Rnd) : Nat := if m = .sr then rngDraw (rngStep s.hart.regs.rngs) else 0

/-- The state with flags ORed into FPSTAT (R58). -/
def withFlags (s : State) (f : BitVec 6) : State := s.modRegs fun r => { r with fpstat := r.fpstat ||| f }

/-- The word writes `x` to `sd` and ORs `f` into FPSTAT, whenever its checks and the stack-limit check pass. -/
def WordWritesFlags (i : Instr) (s u : State) (sd : SReg) (x : Word) (f : BitVec 6) : Prop :=
  WordAdmitted s i → s.belowLimit sd x = false → exec i s = .next ((withFlags u f).ws sd x).next

/-! ## Members -/

/-- The checks of stage 1 pass on the member executing now (R99): register cap, privilege, mode, use mask, CAPMASK. -/
def MemberAdmitted (s : State) (i : Instr) : Prop :=
  (∀ r ∈ (Instr.memberInfo i).vregs, r.toNat < s.hart.cap) ∧
  ((Instr.memberInfo i).priv = true → s.hart.tlevel ≠ 0) ∧
  (if s.hart.regs.mode then (Instr.memberInfo i).matrix else (Instr.memberInfo i).vector) = true ∧
  s.hart.usemask.getLsbD (Instr.memberInfo i).cls = true ∧
  (s.hart.underWay = true ∨ (s.core s.hart.core).capmask.getLsbD (Instr.memberInfo i).cls = true)

/-- The member answers the state of its effect, with the convoy at its next member, whenever its checks pass. -/
def MemberGives (i : Instr) (s u : State) : Prop := MemberAdmitted s i → exec i s = .next u.memberDone

/-- What a BK member does by the lowest failing condition of its list (R319): with none, under `ready`, it answers `u`; reason
`n` is a bank fault, and the one that reports a torn row clears the gang's notice. -/
def Checked (s : State) (i : Instr) (conds : List (Bool × Nat)) (n : Nat) (ready : Prop) (u : State) : Prop :=
  let fault (v : State) : State := v.takeTrap 0x20 (BitVec.ofNat 64 (n + s.hart.cv.idx * 2 ^ 24 + 2 ^ 32)) s.hart.pc
  ready → (lowest conds = none → MemberGives i s u) ∧
    (lowest conds = some n → n ≠ 8 → MemberAdmitted s i → exec i s = .next (fault s)) ∧
    (lowest conds = some n → n = 8 →
      MemberGives i s (fault (s.modGang s.hart.gangKey fun g => { g with torn := false })))

/-- The format checks pass (R96, R97). -/
def FormatsAdmitted (s : State) (ts : List Tag) : Prop :=
  ∀ t ∈ ts, s.hart.usemask.getLsbD (tagCode t) = true ∧
    (s.hart.underWay = true ∨ (s.core s.hart.core).capmask.getLsbD (tagCode t) = true)

/-- A member that rounds has a rounding mode (R53). -/
def RoundingGiven (s : State) (rounds : Bool) (r : Rnd) : Prop :=
  rounds = true → (Rnd.mode r s.hart.regs.fpctl).isSome = true

/-- The rounding mode of a member. -/
def roundingOf (s : State) (rounds : Bool) (r : Rnd) : Rnd :=
  if rounds then (Rnd.mode r s.hart.regs.fpctl).getD .rne else .rne

/-- The vector-length check passes on registers with their widths (R124). -/
def LengthsFit (s : State) (rs : List (VReg × Nat)) : Prop :=
  s.hart.regs.mode = true ∨ ∀ r ∈ rs, s.hart.regs.vlen ≤ s.positions r.2

/-- No register is uncorrectable (R123). -/
def RegistersSound (s : State) (rs : List VReg) : Prop := ∀ r ∈ rs, s.src.bad.contains r = false

/-- The lanes of the core have no fault that members of the class meet (R165). -/
def LanesSound (s : State) (cls : Nat) : Prop :=
  (∀ d ∈ (s.core s.hart.core).defects, d.cls ≠ cls) ∧ ∀ x ∈ s.hart.att.stood, x.2.cls ≠ cls

/-- The checks of stage 2 pass on a member that reads registers under their tags and writes one (R99). -/
def OperandsAdmitted (s : State) (reads : List (VReg × Tag)) (vd : VReg) (t : Tag) (rounds : Bool) (r : Rnd) : Prop :=
  FormatsAdmitted s (reads.map Prod.snd ++ [t]) ∧ RoundingGiven s rounds r ∧
  LengthsFit s (reads.map (fun x => (x.1, tagWidth x.2)) ++ [(vd, tagWidth t)]) ∧ RegistersSound s (reads.map Prod.fst)

/-- The effect of a member that computes the elements of its result one by one: flags, RNGS, and the register written. -/
def elementsDone (s : State) (g : Gov) (vd : VReg) (t : Tag) (act : List Nat) (draws : Bool) (f : Nat → Nat → Nat × FpFlags)
    (scale : VRegS → BitVec 4096 := keepScales) : State :=
  let x := runElems draws f act s.hart.regs.rngs
  ((s.raise x.2.1).modRegs fun r => { r with rngs := x.2.2 }).writeV g vd t x.1 scale

/-! ## Copies -/

/-- The canonical address of the byte at address `x`, of pages that are (address, canonical address, bytes). -/
def placed (ps : List (Nat × Nat × Nat)) (x : Nat) : Nat :=
  match ps.find? fun p => decide (p.1 ≤ x) && decide (x < p.1 + p.2.2) with
  | some p => p.2.1 + (x - p.1)
  | none => 0

/-- A record of this origin on its way home writes byte `b` at canonical address `y`. -/
def State.sendsByte (t : State) (o : Origin) (y : Nat) (b : Byte) : Prop :=
  ∃ e ∈ (t.stack (homeOf y)).inbound, e.origin = o ∧ ∃ m d, e.body = .record (sectorOf y) m d ∧ m.getLsbD (y % 64) = true ∧
    d.extractLsb' (8 * (y % 64)) 8 = b

/-- Records on their way home write the `n` little-endian bytes of `v` at canonical address `a`. -/
def State.sendsWord (t : State) (a n v : Nat) : Prop :=
  ∀ i, i < n → ∃ o, t.sendsByte o (a + i) (BitVec.ofNat 8 (v / 256 ^ i))

/-! ## Encodings -/

/-- The row has an encoding: a word or a member. The other rows of the opcode table are steps and inputs of the module. -/
def Instr.coded : Instr → Bool
  | .illegalWord .. | .convoyRetire | .coreResetEnd .. | .asyncTrap | .overrunFault .. | .vbranchResolve ..
  | .preemptRequest .. | .preemptAccept .. | .drainComplete .. | .saveComplete .. | .resume .. | .thermalMigration ..
  | .placement .. | .logSpaceFreed .. | .pinDrop .. | .memoryReply .. | .homeOpResult .. | .mergeBeacon ..
  | .mergeBeaconReceive .. | .mergeBeaconOverdue .. | .mergeApply .. | .compaction .. | .mergeQueueResend ..
  | .copyChunkStart .. | .copyChunkComplete .. | .ckeyApply .. | .launchCut .. | .launchDone .. | .idleSplit ..
  | .splitRequest .. | .splitReply .. | .instanceRestore .. | .instanceSpent .. | .evwaitTimeout .. | .infieldTestDue ..
  | .infieldTestEnd .. | .infieldTestDeadline .. | .bankMicroprogramStart .. | .bankCompletion .. | .refreshSlot ..
  | .dramSensorRead .. | .rowLockEffective .. | .rowRelease .. | .leaseExpiry .. | .bcpWatchdogReset ..
  | .bcpResetEnd .. | .residencyCommand .. | .residencyDone .. | .timeBeacon | .timeBeaconReceive ..
  | .timeBeaconOverdue .. | .pfbFreeze .. | .freezeMessage .. | .serviceControlWrite .. | .capmaskWrite ..
  | .firmwareCapmaskWrite .. | .haltRelease .. | .stackPtinv .. | .pfbClearFrozen .. | .keyWrapKeyWrite ..
  | .channelBindingWrite .. | .counterClear .. | .hostWrite .. | .hostRead .. | .ptmRequest .. | .tdiLeaveRun ..
  | .doorbell .. | .downLaunchHead .. | .downLaunchTail .. | .downCounterAdvance .. | .downNotify .. | .downResync ..
  | .upMessage .. | .report .. | .remoteWrite .. | .ethernetFrame .. | .frameResend .. | .connectionFail ..
  | .flitReplay .. | .linkPause .. | .linkUnpause .. | .linkRetrain .. | .linkRetrainEnd .. | .linkClearRetry ..
  | .linkInjectArm .. | .linkInjectFire .. | .linkWindowEnd .. | .powerSample .. | .thermalAlert .. | .thermalShutdown
  | .coldReset | .warmReset | .perst .. | .firmwareUpdate .. | .raiseFusedMinimum .. | .pldmFreeze | .pldmColdReset
  | .pldmWarmReset | .readPhotoFinishEntries .. | .readCounterBlock .. | .clearFrozen .. | .spdmKeyWrap .. | .tick
  | .mergeQueueDelivery .. | .spdmKeyExchange .. | .tdiEnterRun .. => false
  | _ => true

/-! ## Units -/

/-- Every unit that an event names exists: its stack, core, slot, die, port, channel, link module, lock or function. -/
def Instr.unitsExist : Instr → Bool
  | .coreResetEnd core | .thermalMigration _ core | .copyChunkStart core
  | .copyChunkComplete core | .infieldTestDue core | .infieldTestDeadline core => isCore core
  | .resume _ core slot | .pinDrop core slot _ => isCore core && decide (slot < 4)
  | .placement stk _ | .launchCut stk _ | .launchDone stk _ | .splitReply stk | .instanceRestore stk _
  | .instanceSpent stk _ => isStack stk
  | .mergeBeacon stk | .mergeApply stk | .mergeQueueResend stk | .ckeyApply stk | .dramSensorRead stk
  | .bcpResetEnd stk | .residencyCommand stk _ | .residencyDone stk | .timeBeaconReceive stk _
  | .timeBeaconOverdue stk | .pfbFreeze stk _ _ | .freezeMessage stk _ _ | .serviceControlWrite stk _ _
  | .stackPtinv stk _ | .pfbClearFrozen stk | .keyWrapKeyWrite stk _ | .counterClear stk _ | .report stk
  | .powerSample stk _ | .mergeQueueDelivery stk _ => isStack stk
  | .mergeBeaconReceive stk src _ _ | .mergeBeaconOverdue stk src => isStack stk && isStack src
  | .idleSplit core => isCore core
  | .splitRequest stk src _ => isStack stk && isStack src
  | .infieldTestEnd core _ | .memoryReply core _ => decide (core < 1176)
  | .bankMicroprogramStart stk die | .bankCompletion stk die _ | .refreshSlot stk die
  | .bcpWatchdogReset stk die => isStack stk && decide (die < 12)
  | .rowLockEffective stk n | .rowRelease stk n | .leaseExpiry stk n => isStack stk && decide (n < lockSlots)
  | .capmaskWrite stk c _ | .firmwareCapmaskWrite stk c _ | .haltRelease stk c _ => coreOf stk c
  | .channelBindingWrite stk n _ => isStack stk && decide (n < 64)
  | .hostWrite port _ _ _ _ | .hostRead port _ _ _ _ => isPort port
  | .ptmRequest port | .perst port _ => decide (port < 2)
  | .tdiLeaveRun d | .tdiEnterRun d _ => decide (d < 64)
  | .doorbell stk ch port _ => isChannel stk ch && decide (port < 2)
  | .downLaunchHead stk ch | .downLaunchTail stk ch | .downCounterAdvance stk ch | .downNotify stk ch
  | .downResync stk ch | .upMessage stk ch => isChannel stk ch
  | .remoteWrite stk entry _ _ _ => isStack stk && decide (entry < 4096)
  | .flitReplay stk edge m _ | .linkPause stk edge m | .linkUnpause stk edge m | .linkRetrain stk edge m
  | .linkRetrainEnd stk edge m | .linkClearRetry stk edge m | .linkInjectArm stk edge m _
  | .linkInjectFire stk edge m | .linkWindowEnd stk edge m => linkUnit stk edge m
  | .thermalAlert stk die _ => isStack stk && decide (die < 14)
  | _ => true

/-! ## Frames -/

/-- The step was a trap of the instruction of the selected context. -/
def Trapped (s t : State) : Prop :=
  ∃ c v, t = s.takeTrap c v s.hart.pc ∨ ∃ w, t = (s.setTlb w).takeTrap c v s.hart.pc

/-- A word changed at most its register `sd`, where it goes on, and, with `flags`, FPSTAT and RNGS: every other register of
the context, its trap banks, its fragments, every other context, all memory and every table stand as they were. -/
def WordFrame (s t : State) (sd : SReg) (flags : Bool) : Prop :=
  (∀ r, r ≠ sd → t.rs r = s.rs r) ∧ t = { s with hart := t.hart } ∧
  t.hart = { s.hart with regs := t.hart.regs, pc := t.hart.pc, phase := t.hart.phase, slot := t.hart.slot
                         att := t.hart.att, results := t.hart.results, awaiting := t.hart.awaiting } ∧
  t.hart.regs = { s.hart.regs with s := t.hart.regs.s
                                   fpstat := if flags then t.hart.regs.fpstat else s.hart.regs.fpstat
                                   rngs := if flags then t.hart.regs.rngs else s.hart.regs.rngs }

/-- Every log is as it was, but for what an instruction that `reads` has settled of the replays that were put off (R311). -/
def LogsKept (s t : State) (reads : Bool) : Prop :=
  if reads then ∀ k, t.log k = { s.log k with owed := (t.log k).owed } else t.logs = s.logs

/-- The step was a trap of a scalar load, after what its translation and its check of the sector did. -/
def LoadTrapped (s t : State) : Prop :=
  ∃ (u : State) (c : Nat) (v : Word), t = u.takeTrap c v s.hart.pc ∧ u.hart = { s.hart with att := u.hart.att } ∧ u.mem = s.mem ∧
    u.logs = s.logs ∧ u.others = s.others ∧ u.gangs = s.gangs

/-- A member changed at most its register `vd`, RNGS and the convoy in progress: every other register of the context, where it
goes on, its trap banks, every other context, the logs and home memory stand as they were. -/
def MemberFrame (s t : State) (vd : VReg) : Prop :=
  (∀ r, r ≠ vd → t.hart.regs.rv r = s.hart.regs.rv r) ∧ t.mem = s.mem ∧ t.logs = s.logs ∧ t.others = s.others ∧
  t.gangs = s.gangs ∧ t.hart = { s.hart with regs := t.hart.regs, cv := t.hart.cv, att := t.hart.att } ∧
  t.hart.regs = { s.hart.regs with v := t.hart.regs.v, bad := t.hart.regs.bad, rngs := t.hart.regs.rngs }

/-- A scalar load changed at most its register `sd`, where it goes on or that it waits, and what the views, the caches and the
translations hold: every other register of the context, its trap banks, every other context, the logs, the gangs and home memory
stand as they were. -/
def LoadFrame (s t : State) (sd : SReg) : Prop :=
  (∀ r, r ≠ sd → t.rs r = s.rs r) ∧ t.mem = s.mem ∧ LogsKept s t true ∧ t.others = s.others ∧ t.gangs = s.gangs ∧
  t.hart = { s.hart with regs := t.hart.regs, pc := t.hart.pc, phase := t.hart.phase, slot := t.hart.slot, cv := t.hart.cv
                         att := t.hart.att, results := t.hart.results, awaiting := t.hart.awaiting } ∧
  t.hart.regs = { s.hart.regs with s := t.hart.regs.s }

/-- The step was a trap of a member, after what its checks and the checking lanes had done. -/
def MemberTrapped (s t : State) (reads : Bool := false) : Prop :=
  ∃ (u : State) (c : Nat) (v : Word), t = u.takeTrap c v s.hart.pc ∧ u.hart = { s.hart with regs := u.hart.regs, cv := u.hart.cv, att := u.hart.att } ∧
    u.hart.cv.active = s.hart.cv.active ∧ (s.hart.cv.active = false → u.hart.regs = s.hart.regs) ∧
    u.mem = s.mem ∧ LogsKept s u reads ∧ u.others = s.others ∧ u.gangs = s.gangs

/-- A member waits, and its convoy was given up until it can go on: the registers are those from before the convoy. -/
def MemberWaits (s t : State) (reads : Bool := false) : Prop :=
  t.hart.regs = s.hart.saved ∧ t.hart.cv = {} ∧ t.hart.pc = s.hart.pc ∧ t.hart.trap1 = s.hart.trap1 ∧ t.hart.trap2 = s.hart.trap2 ∧
  t.mem = s.mem ∧ LogsKept s t reads ∧ t.others = s.others ∧ t.gangs = s.gangs

/-- A member changed at most the vector registers `vs`, the predicates `ps`, RNGS, with `trim` FTRIM, with `slices` the
scratchpad, and the convoy in progress, which holds its scalar result and its effects until it retires. -/
def MemberKeeps (s t : State) (vs : List VReg) (ps : List PReg) (trim slices : Bool) (reads : Bool := false) : Prop :=
  (∀ r, r ∉ vs → t.hart.regs.rv r = s.hart.regs.rv r) ∧ (∀ p, p ∉ ps → t.hart.regs.rp p = s.hart.regs.rp p) ∧
  t.mem = s.mem ∧ LogsKept s t reads ∧ t.others = s.others ∧ t.gangs = s.gangs ∧
  t.hart = { s.hart with regs := t.hart.regs, cv := t.hart.cv, att := t.hart.att } ∧
  t.hart.regs = { s.hart.regs with v := t.hart.regs.v, p := t.hart.regs.p, bad := t.hart.regs.bad, rngs := t.hart.regs.rngs
                                   ftrim := if trim then t.hart.regs.ftrim else s.hart.regs.ftrim
                                   scratch := if slices then t.hart.regs.scratch else s.hart.regs.scratch }

/-! ## Events of contexts -/

/-- Every context stands in the table under its own key, once. -/
def ContextsKeyed (s : State) : Prop :=
  (∀ e ∈ s.others, e.2.key = e.1 ∧ e.1 ≠ s.hart.key) ∧ (s.others.map Prod.fst).Nodup

/-- Context `h` became `y`; every other context, the memory and the logs stand as they were. -/
def ContextBecomes (s t : State) (h : Nat) (y : Hart) : Prop :=
  t.ctx h = some y ∧ (∀ k, k ≠ h → t.ctx k = s.ctx k) ∧ t.mem = s.mem ∧ t.logs = s.logs

end Machine

end Sys2Proof
end

