-- ==== Sys2Proof/Certificates/Slice0/Obligations.lean ====
section
/-! DEFINITION. The statements for the provers: each is a def Obligations.<Name> : Prop. -/

open Sys2Proof Sys2Proof.Machine

/-! ## Integer words -/

/-- R105, R107, R108: the value each integer word writes. -/
def Obligations.IntegerWordsWriteTheirResult : Prop :=
  ∀ (s : State) (sd sa sb sc : SReg) (imm : BitVec 15) (amt : BitVec 6) (im : BitVec 20),
    let x := s.rs sa
    let y := s.rs sb
    let i := imm.signExtend 64
    WordWrites (.add sd sa sb) s sd (x + y) ∧ WordWrites (.sub sd sa sb) s sd (x - y) ∧
    WordWrites (.and sd sa sb) s sd (x &&& y) ∧ WordWrites (.or sd sa sb) s sd (x ||| y) ∧
    WordWrites (.xor sd sa sb) s sd (x ^^^ y) ∧
    WordWrites (.sll sd sa sb) s sd (x <<< (y.toNat % 64)) ∧ WordWrites (.srl sd sa sb) s sd (x >>> (y.toNat % 64)) ∧
    WordWrites (.sra sd sa sb) s sd (x.sshiftRight (y.toNat % 64)) ∧
    WordWrites (.slt sd sa sb) s sd (if x.toInt < y.toInt then 1 else 0) ∧
    WordWrites (.sltu sd sa sb) s sd (if x.toNat < y.toNat then 1 else 0) ∧
    WordWrites (.min sd sa sb) s sd (if x.toInt < y.toInt then x else y) ∧
    WordWrites (.max sd sa sb) s sd (if x.toInt < y.toInt then y else x) ∧
    WordWrites (.mul sd sa sb) s sd (x * y) ∧
    WordWrites (.mulh sd sa sb) s sd (BitVec.ofInt 64 (x.toInt * y.toInt / 2 ^ 64)) ∧
    WordWrites (.mulhu sd sa sb) s sd (BitVec.ofNat 64 (x.toNat * y.toNat / 2 ^ 64)) ∧
    WordWrites (.popc sd sa) s sd (BitVec.ofNat 64 (popc x)) ∧
    WordWrites (.clz sd sa) s sd (BitVec.ofNat 64 (leadingZeros x.toNat 64)) ∧
    WordWrites (.ctz sd sa) s sd (BitVec.ofNat 64 (trailingZeros x.toNat 64)) ∧
    WordWrites (.sel sd sa sb sc) s sd (if s.rs sc ≠ 0 then x else y) ∧
    WordWrites (.addi sd sa imm) s sd (x + i) ∧ WordWrites (.andi sd sa imm) s sd (x &&& i) ∧
    WordWrites (.ori sd sa imm) s sd (x ||| i) ∧ WordWrites (.xori sd sa imm) s sd (x ^^^ i) ∧
    WordWrites (.slti sd sa imm) s sd (if x.toInt < i.toInt then 1 else 0) ∧
    WordWrites (.slli sd sa amt) s sd (x <<< amt.toNat) ∧ WordWrites (.srli sd sa amt) s sd (x >>> amt.toNat) ∧
    WordWrites (.srai sd sa amt) s sd (x.sshiftRight amt.toNat) ∧
    WordWrites (.lui sd im) s sd ((im ++ 0#12).signExtend 64) ∧
    WordWrites (.auipc sd im) s sd (s.hart.pc + (im ++ 0#12).signExtend 64)

/-- R105, R106: DIV, DIVU, REM and REMU write the quotient rounded toward zero and the remainder, for every operand, and raise
no trap but the stack-limit fault of R104. R106: the quotient q and the remainder r always satisfy x = q y + r modulo 2^64,
signed and unsigned, and the one overflow gives -2^63 and 0. -/
def Obligations.DivisionIsTotalAndExact : Prop :=
  (∀ (s : State) (sd sa sb : SReg),
     let x := s.rs sa
     let y := s.rs sb
     let gives (i : Instr) (q : Word) : Prop := WordWrites i s sd q ∧ (s.belowLimit sd q = true → WordTraps i s 0x1B q)
     gives (.div sd sa sb) (if y = 0 then BitVec.allOnes 64 else BitVec.ofInt 64 (x.toInt.tdiv y.toInt)) ∧
     gives (.rem sd sa sb) (if y = 0 then x else BitVec.ofInt 64 (x.toInt.tmod y.toInt)) ∧
     gives (.divu sd sa sb) (if y = 0 then BitVec.allOnes 64 else BitVec.ofNat 64 (x.toNat / y.toNat)) ∧
     gives (.remu sd sa sb) (if y = 0 then x else BitVec.ofNat 64 (x.toNat % y.toNat))) ∧
  ((∀ x y : Word, divS x y * y + remS x y = x) ∧ (∀ x y : Word, divU x y * y + remU x y = x) ∧
   (∀ x : Word, divS x 0 = BitVec.allOnes 64 ∧ divU x 0 = BitVec.allOnes 64 ∧ remS x 0 = x ∧ remU x 0 = x) ∧
   divS (BitVec.intMin 64) (BitVec.allOnes 64) = BitVec.intMin 64 ∧ remS (BitVec.intMin 64) (BitVec.allOnes 64) = 0 ∧
   divU (BitVec.intMin 64) (BitVec.allOnes 64) = 0 ∧ remU (BitVec.intMin 64) (BitVec.allOnes 64) = BitVec.intMin 64)

/-- R104: an ADDI, ADD, LUI, JAL or CSRR that would write to s2 a value below SPLIM traps instead with that value, and nothing
takes effect first. Under the late check (EVWAIT, CAPTEST, WNEXT, WSPLIT, CTWAIT, CTINC, LDH, AMO, and a member whose result
comes at the commit point) every effect stands but the write of s2, and the trap returns to what follows. -/
def Obligations.StackLimitReplacesTheWrite : Prop :=
  (∀ (s : State) (sd sa sb : SReg) (imm : BitVec 15) (im : BitVec 20) (csr : BitVec 15),
    let below (i : Instr) (x : Word) : Prop :=
      sd = 2 → x.toNat < s.hart.regs.splim.toNat → WordTraps i s 0x1B x
    below (.add sd sa sb) (s.rs sa + s.rs sb) ∧ below (.addi sd sa imm) (s.rs sa + imm.signExtend 64) ∧
    below (.lui sd im) ((im ++ 0#12).signExtend 64) ∧ below (.jal sd im) (s.hart.pc + 4) ∧
    (s.hasCsr csr.toNat = true → below (.csrr sd csr) (s.csrRead csr.toNat))) ∧
  (∀ (s u v w : State) (sa sb sc : SReg) (off : BitVec 12) (acq dbl : Bool) (op : AmoOp) (ord : Order) (x : Word) (k : Key) (xs : List Word),
     let h := s.hart
     let c := s.counter (s.rs sa).toNat
     let late (i : Instr) (u : State) (x : Word) : Prop :=
       u.belowLimit 2 x = true → WordGives i s (u.next.takeTrap 0x1B x (u.hart.pc + 4))
     let fresh : Prop := ∀ k xs, h.phase ≠ .requested k ∧ h.phase ≠ .returned k xs
     (h.event = true → late (.evwait 2 sa) (s.modHart fun h => { h with event := false }) 1) ∧
     (h.event = false → h.phase = .returned k xs → late (.evwait 2 sa) s 0) ∧
     (h.phase = .returned k xs → let failed := xs.getD 1 0 &&& xs.headD 0
       late (.captest 2 sa) (s.endTest h.core (some h) (xs.getD 1 0) failed) failed) ∧
     (h.tile = none → fresh → s.takeTile = (u, some x) → late (.wnext 2) u x) ∧
     (h.tile = none → fresh → s.takeTile = (u, none) → u.splitFor = some (v, false) → v.takeTile = (w, some x) → late (.wnext 2) w x) ∧
     (h.tile = none → h.phase = .returned k xs → xs.headD 0 ≠ 0 → s.takeTile = (u, some x) → late (.wnext 2) u x) ∧
     (freeIndex (s.stack h.instStack).walkers 32 = none → late (.wsplit 2) s 0) ∧
     (∀ n free y, s.walkerOf h = some (n, y) → freeIndex (s.stack h.instStack).walkers 32 = some free →
       let ws := (s.launchAt h.home h.launch).words
       admits ws h.instStack h.instStack = true → s.covers h.core ws = true → s.splitInto h.instStack n h.instStack free = some u →
       late (.wsplit 2) u (BitVec.ofNat 64 (y.stop - (y.next + (y.rest + 1) / 2)))) ∧
     ((s.rs sa).toNat ≤ 4095 → (s.rs sb).toNat ≤ c.value.toNat → c.key.le s.settled = true →
       late (.ctwait 2 sa sb) ((s.refreshAll h.core c.key).raiseFloor c.key) c.value) ∧
     ((s.rs sa).toNat ≤ 4095 → h.phase = .published k → s.rs sb = 0 → late (.ctinc 2 sa sb) s c.value) ∧
     ((s.rs sa).toNat ≤ 4095 → h.phase = .published k → s.rs sb ≠ 0 → s.canKey = true →
       late (.ctinc 2 sa sb) (s.takeKey.advanceCounter s.stk (s.rs sa).toNat (s.rs sb) s.nextKey) (c.value + s.rs sb)) ∧
     (h.phase = .returned k xs →
       (s.acquireKey acq k = some u → late (.ldh 2 sa off acq) u (extend false 8 (xs.headD 0).toNat)) ∧
       (s.acquireKey (Sys2Proof.Machine.Order.acq ord) k = some u →
         late (.amo op dbl ord 2 sa sb) u (extend true (if dbl then 8 else 4) (xs.headD 0).toNat) ∧
         late (.amoCas dbl ord 2 sa sb sc) u (extend true (if dbl then 8 else 4) (xs.headD 0).toNat)))) ∧
  (∀ (s u : State) (pre out : List Effect) (x : Word) (sent : Bool),
     let es := pre ++ [Effect.scalar 2 x true]
     s.hart.cv.active = true → s.hart.cv.effects.reverse = es → (s.hart.answered = true ∨ ∀ e ∈ pre, e.waits = false) →
     (s.hart.cv.sent = true ∨ s.fits es = true) → commitAll s s.hart.cv.sent [] pre = (u, [], out, sent, none) →
     (∀ sd y l, Effect.scalar sd y l ∈ out → sd ≠ 2) → u.belowLimit 2 x = true → u.hart.tlevel < 2 →
     ∃ t, exec .convoyRetire s = .next t ∧ t.rs 2 = u.rs 2 ∧ t.mem = u.mem ∧ t.logs = u.logs ∧ t.hart.cseq = u.hart.cseq + 1 ∧
       t.hart.tlevel = u.hart.tlevel + 1 ∧
       (let b := if u.hart.tlevel = 0 then t.hart.trap1 else t.hart.trap2
        b.epc = u.hart.memberAddr u.hart.cv.count ∧ b.cause = 0x1B ∧ b.val = x))

/-! ## Branches, memory words and floating point -/

/-- R109: a branch goes to its address plus four times its immediate when its condition holds, else to the next word; it is of
class base, and writes no register. R110, R111: JAL and JALR write the address of the next word to sd and go to their target;
JALR to an address that is no multiple of 4 traps with that address. -/
def Obligations.BranchesAndJumpsGoToTheirTarget : Prop :=
  (∀ (s : State) (sa sb : SReg) (imm : BitVec 15),
     let x := s.rs sa
     let y := s.rs sb
     let goes (i : Instr) (c : Prop) [Decidable c] : Prop := (Instr.wordInfo i).cls = 32 ∧
       WordGives i s (s.goto (if c then s.hart.pc + imm.signExtend 64 * 4 else s.hart.pc + 4))
     (∀ pc, (s.goto pc).hart.regs = s.hart.regs) ∧
     goes (.beq sa sb imm) (x = y) ∧ goes (.bne sa sb imm) (x ≠ y) ∧
     goes (.blt sa sb imm) (x.toInt < y.toInt) ∧ goes (.bge sa sb imm) (y.toInt ≤ x.toInt) ∧
     goes (.bltu sa sb imm) (x.toNat < y.toNat) ∧ goes (.bgeu sa sb imm) (y.toNat ≤ x.toNat)) ∧
  (∀ (s : State) (sd sa : SReg) (imm : BitVec 15) (im : BitVec 20),
     s.belowLimit sd (s.hart.pc + 4) = false →
     WordGives (.jal sd im) s ((s.ws sd (s.hart.pc + 4)).goto (s.hart.pc + im.signExtend 64 * 4)) ∧
     ((s.rs sa + imm.signExtend 64).toNat % 4 = 0 →
       WordGives (.jalr sd sa imm) s ((s.ws sd (s.hart.pc + 4)).goto (s.rs sa + imm.signExtend 64))) ∧
     ((s.rs sa + imm.signExtend 64).toNat % 4 ≠ 0 →
       WordTraps (.jalr sd sa imm) s 0x04 (s.rs sa + imm.signExtend 64)))

/-- R112: a scalar load whose address is aligned writes the bytes that it reads, sign-extended or zero-extended; where the
address is misaligned it traps with the address. R112, R252: a scalar store of a compute hart stages the low bytes of its
register at its canonical address and goes on; where the address is misaligned it traps with the address. R113: LDSD writes
the eight bytes at its offset; STSD writes them, marks their block in SDMDIRTY, and leaves every other byte; an offset past
the end traps, and one that is no multiple of 8 traps. -/
def Obligations.ScalarLoadsAndStoresMoveBytes : Prop :=
  (∀ (s u : State) (sd sa : SReg) (imm : BitVec 15) (x : Nat),
     let a := s.rs sa + imm.signExtend 64
     let loads (i : Instr) (signed : Bool) (n : Nat) : Prop :=
       (s.load a n = .ok (u, x) → WordAdmitted s i → u.belowLimit sd (extend signed n x) = false →
         exec i s = .next (u.ws sd (extend signed n x)).next) ∧
       (a.toNat % n ≠ 0 → WordTraps i s 0x0B a)
     loads (.ldB sd sa imm) true 1 ∧ loads (.ldH sd sa imm) true 2 ∧ loads (.ldW sd sa imm) true 4 ∧
     loads (.ldD sd sa imm) true 8 ∧ loads (.ldBU sd sa imm) false 1 ∧ loads (.ldHU sd sa imm) false 2 ∧
     loads (.ldWU sd sa imm) false 4) ∧
  (∀ (s u : State) (sb sa : SReg) (imm : BitVec 15) (p : Nat) (b : Bool) (t : Walks),
     let a := s.rs sa + imm.signExtend 64
     let stores (i : Instr) (n : Nat) : Prop :=
       (s.hart.service = false → a.toNat % n = 0 → inWindow a.toNat = false →
         translateAll s .write [(1, a)] s.walks = .ok ([(p, b)], t) →
         (s.setTlb t).storeBytes ((List.range n).map fun j => (p + j, (s.rs sb).extractLsb' (8 * j) 8)) = .ok u →
         WordGives i s u.next) ∧
       (a.toNat % n ≠ 0 → WordTraps i s 0x0B a)
     stores (.stB sb sa imm) 1 ∧ stores (.stH sb sa imm) 2 ∧ stores (.stW sb sa imm) 4 ∧ stores (.stD sb sa imm) 8) ∧
  (∀ (s : State) (sd sa sb : SReg) (imm : BitVec 15),
     let o := s.rs sa + imm.signExtend 64
     (o.toNat < 65536 → o.toNat % 8 = 0 →
       WordWrites (.ldsd sd sa imm) s sd (BitVec.ofNat 64 (privRead s.hart.regs.sdm o.toNat 8)) ∧
       (WordAdmitted s (.stsd sb sa imm) → ∃ t, exec (.stsd sb sa imm) s = .next t ∧ t.hart.pc = s.hart.pc + 4 ∧
         privRead t.hart.regs.sdm o.toNat 8 = (s.rs sb).toNat ∧
         t.hart.regs.sdmDirty = s.hart.regs.sdmDirty ||| 1#32 <<< (o.toNat / 2048) ∧
         (∀ a, a < o.toNat ∨ o.toNat + 8 ≤ a → privRead t.hart.regs.sdm a 1 = privRead s.hart.regs.sdm a 1) ∧
         (∀ n, t.rs n = s.rs n) ∧ t.mem = s.mem)) ∧
     (65536 ≤ o.toNat → WordTraps (.ldsd sd sa imm) s 0x0D o ∧ WordTraps (.stsd sb sa imm) s 0x0D o) ∧
     (o.toNat < 65536 → o.toNat % 8 ≠ 0 → WordTraps (.ldsd sd sa imm) s 0x0B o ∧ WordTraps (.stsd sb sa imm) s 0x0B o))

/-- R114, R235, R267: a scalar load of a compute hart, aligned and outside the private window, whose page is in the scalar TLB
bank with read permission, reads the bytes as the hart's own stores and its view give them, and changes no register, no memory
and no view, where its sector is in the view and no replay of it is owed (notes/assumptions/121.md), or (R285) the hart has stored every byte itself,
and whose owner byte can be read. R114, R252: bytes stored with room in staging, which holds one open record a sector, change what the hart reads at their addresses and nowhere else, and leave home memory, every register and every other
context unchanged. -/
def Obligations.StoresAreReadBackByTheirHart : Prop :=
  (∀ (s : State) (a : Word) (n : Nat) (e : TlbEntry) (p : Nat) (x : Sector),
     s.hart.service = false → a.toNat % n = 0 → a.toNat < Config.window →
     (s.core s.hart.core).tlb.find? (fun e => e.hits 1 s.hart.domain.toNat a.toNat) = some e →
     canonical (pteAddr e.entry + a.toNat % 2 ^ offsetBits e.level) = some p →
     pteDom e.entry = s.hart.domain.toNat → e.entry.getLsbD 2 = true → s.owner p = s.hart.domain.toNat →
     s.cutOff s.stk (ownerSector p) = none →
     (s.reads p n = false ∨
       viewFind (s.core s.hart.core).view s.hart.slotNo (sectorOf p) = some x ∧ s.served (sectorOf p) ≠ .ownWait ∧
         s.served (sectorOf p) ≠ .ownBad ∧ s.owes (sectorOf p) = false) →
     ∃ u, s.load a n = .ok (u, s.viewN p n) ∧ u.hart = { s.hart with att := u.hart.att } ∧ u.mem = s.mem ∧ u.logs = s.logs ∧
       u.others = s.others ∧
       ∀ g, (u.core g).view = (s.core g).view) ∧
  (∀ (s : State) (p : Nat) (b : Byte),
     s.hart.service = false → ((s.stack (homeOf p)).lockOn (frameOf p)) = none → (s.hart.staging.map Prod.fst).Nodup →
     (s.hart.staging.any (fun r => r.1 == sectorOf p) = true ∨ s.hart.staging.length < 512) →
     ∃ u, s.storeByte p b = .ok u ∧ u.viewByte p = b ∧ (∀ q, q ≠ p → u.viewByte q = s.viewByte q) ∧
       u.hart.regs = s.hart.regs ∧ u.mem = s.mem ∧ u.logs = s.logs ∧ u.others = s.others)

/-- R272, R289 to R291: LDH, AMO and compare-and-swap send one home operation of their address, size, operation and operands under
the hart's next key and wait for it; under .rel and .ar they first publish at hart scope, and send it then at the place that was
translated before. When its result has returned they write it, sign-extended from their size, under the late check; under .acq and
.ar only once the settled point reaches the operation's key, to which all sectors are refreshed and the floor is raised. -/
def Obligations.HomeWordsSendThenWriteTheOldValue : Prop :=
  ∀ (s u v : State) (sd sa sb sc : SReg) (off : BitVec 12) (op : AmoOp) (dbl acq : Bool) (ord : Order) (p : Nat) (r : Bool) (k : Key)
      (xs : List Word),
    let n := if dbl then 8 else 4
    let runs (i : Instr) (a : Word) (n : Nat) (how : Access) (acq rel signed : Bool) (el : HomeEl) : Prop :=
      let x := extend signed n (xs.headD 0).toNat
      let begins : Prop := s.hart.phase = .run ∧ a.toNat % n = 0 ∧ inWindow a.toNat = false ∧ s.access how a = .ok (u, p, r)
      let seen := if acq = true ∧ s.hart.service = false then (s.refreshAll s.hart.core k).raiseFloor k else s
      (begins → rel = false ∨ s.hart.service = true → u.canKey = true →
        WordGives i s ((u.sendHome [el]).park (.requested u.nextKey))) ∧
      (begins → rel = true → s.hart.service = false → u.publish 0 false = .ok v → WordGives i s
        ((v.modHart fun h => { h with att := { h.att with place := some p } }).park (.published (v.log v.hart.key).ptKey))) ∧
      (s.hart.phase = .published k → s.hart.att.place = some p →
        (s.canKey = true → WordGives i s ((s.sendHome [el]).park (.requested s.nextKey))) ∧
        (s.canKey = false → WordGives i s (s.park (.published k)))) ∧
      (s.hart.phase = .requested k → WordGives i s (s.park (.requested k))) ∧
      (s.hart.phase = .returned k xs → acq = false ∨ s.hart.service = true ∨ k.le s.settled = true → WordAdmitted s i →
        seen.belowLimit sd x = false → exec i s = .next (seen.ws sd x).next) ∧
      (s.hart.phase = .returned k xs → acq = true → s.hart.service = false → k.le s.settled = false →
        WordGives i s (s.park (.returned k xs)))
    runs (.ldh sd sa off acq) (s.rs sa + off.signExtend 64 * 8) 8 .read acq false false { idx := 0, addr := p, size := 8, fn := .read } ∧
    (u.hart = s.hart → runs (.amo op dbl ord sd sa sb) (s.rs sa) n .rw (Sys2Proof.Machine.Order.acq ord) (Sys2Proof.Machine.Order.rel ord) true
      { idx := 0, addr := p, size := n, fn := AmoOp.fn op, y := s.rs sb }) ∧
    (u.hart = s.hart → runs (.amoCas dbl ord sd sa sb sc) (s.rs sa) n .rw (Sys2Proof.Machine.Order.acq ord) (Sys2Proof.Machine.Order.rel ord) true
      { idx := 0, addr := p, size := n, fn := .cas, y := s.rs sb, z := s.rs sc })

/-- R290, R291: a location that is not poisoned and not torn is changed by a home operation to the value of its table, its old
value is the result, and every byte outside it stays. -/
def Obligations.HomeOperationReturnsTheOldValue : Prop :=
  ∀ (s : State) (el : HomeEl),
    s.badSector (sectorOf el.addr) = false →
    let old := s.mem.readN el.addr el.size
    (s.applyEl el).2 = BitVec.ofNat 64 old ∧
    (∀ a, a < el.addr ∨ el.addr + el.size ≤ a → (s.applyEl el).1.mem.read a = s.mem.read a) ∧
    (s.applyEl el).1.mem.readN el.addr el.size = el.fn.apply el.size old el.y.toNat el.z.toNat % 256 ^ el.size

/-- R115, R116: each scalar floating-point word that rounds rounds its exact result once in its mode, ORs its flags into
FPSTAT, and draws once under SR. R116, R117: FMIN and FMAX write the chosen operand and FCMP 1 or 0, with NV as their rules
give; neither rounds. -/
def Obligations.FloatWordsRoundOnceOrChoose : Prop :=
  (∀ (s : State) (sd sa sb sc : SReg) (dbl : Bool) (r m : Rnd) (k1 k2 : CvtKind),
     Rnd.mode r s.hart.regs.fpctl = some m →
     let x := scalarNum s dbl (s.rs sa)
     let y := scalarNum s dbl (s.rs sb)
     let z := scalarNum s dbl (s.rs sc)
     let ctl := fpCtl s.hart.regs.fpctl
     let rounds (i : Instr) (q : FNum × FpFlags) : Prop :=
       let e := roundTo (scalarFmt dbl) ctl q.1 m (drawnFor s m)
       WordWritesFlags i s (afterDraw s m) sd (BitVec.ofNat 64 e.1) (q.2 ||| e.2)
     rounds (.fadd dbl r sd sa sb) (x.add y m) ∧ rounds (.fsub dbl r sd sa sb) (x.add y.negate m) ∧
     rounds (.fmul dbl r sd sa sb) (x.mul y) ∧ rounds (.fdiv dbl r sd sa sb) (x.div y) ∧
     rounds (.fsqrt dbl r sd sa) x.sqrt ∧ rounds (.ffma dbl r sd sa sb sc) (x.fma y z m) ∧
     (let v := readKind s k2 (s.rs sa)
      let e := writeKind ctl k1 v m (drawnFor s m)
      WordWritesFlags (.fcvt k1 k2 r sd sa) s (afterDraw s m) sd e.1 (sigFlags [v] ||| e.2))) ∧
  (∀ (s : State) (sd sa sb : SReg) (dbl : Bool) (c : FCond),
     let x := scalarNum s dbl (s.rs sa)
     let y := scalarNum s dbl (s.rs sb)
     WordWritesFlags (.fmin dbl sd sa sb) s s sd
       (BitVec.ofNat 64 (roundTo (scalarFmt dbl) ⟨false, false⟩ (x.min y) .rne 0).1) (sigFlags [x, y]) ∧
     WordWritesFlags (.fmax dbl sd sa sb) s s sd
       (BitVec.ofNat 64 (roundTo (scalarFmt dbl) ⟨false, false⟩ (x.max y) .rne 0).1) (sigFlags [x, y]) ∧
     WordWritesFlags (.fcmp c dbl sd sa sb) s s sd (bit (FCond.holds c x y) 64) (FCond.flags c x y))

/-! ## Ordering, launches, control registers and traps -/

/-- R296 to R300: PUB goes on when the publication has reached its scope, ACQ when its acquire is done, PUBACQ when both are,
BAR when its rendezvous has completed and its acquire is done, and FENCE at once. R257, R252, R254: a publication with room
and a key takes the key of this tick for its source, leaves no open record and no record without a key, and moves the
published tail to the write tail. -/
def Obligations.OrderingWordsAndPublication : Prop :=
  (∀ (s u v : State) (sc : Scope) (k : LogSet) (sa sb : SReg) (key : Key) (n : Nat),
     let fresh := s.hart.phase = .run
     let done := s.publish (scopeCode sc) false = .ok u ∧ u.scopeReached sc (u.log u.hart.key).ptKey = true
     (fresh → done → WordGives (.pub sc) s u.next) ∧
     (s.hart.phase = .published key → s.scopeReached sc key = true → WordGives (.pub sc) s s.next) ∧
     (s.hart.phase = .published key → s.scopeReached sc key = false → WordGives (.pub sc) s (s.park (.published key))) ∧
     (setLegal s k = true → s.acquire (s.logSet k (s.rs sa) (s.rs sb)) = .ok u → WordGives (.acq k sa sb) s u.next) ∧
     (setLegal s k = true → fresh → done → u.acquire (u.logSet k (u.rs sa) (u.rs sb)) = .ok v →
       WordGives (.pubacq sc k sa sb) s v.next) ∧
     (s.hart.inGang = true → s.hart.phase = .released n → s.acquire (s.logSet .gang 0 0) = .ok u → WordGives .bar s u.next) ∧
     (s.hart.inGang = true → s.hart.phase = .arrived false → WordGives .bar s (s.park (.arrived false))) ∧
     WordGives .fence s s.next) ∧
  (∀ (s u : State) (scope : Nat) (reserve : Bool),
     s.publish scope reserve = .ok u →
     u.hart.staging = [] ∧ (u.log s.hart.key).pt = (u.log s.hart.key).wt ∧
     (u.log s.hart.key).ptKey = Key.mk s.now.toNat s.hart.source ∧
     (u.log s.hart.key).lastKey = Key.mk s.now.toNat s.hart.source ∧
     (∀ r ∈ (u.log s.hart.key).recs, r.key ≠ none) ∧
     ((s.log s.hart.key).lastKey = 0 ∨ (s.log s.hart.key).lastKey.time < s.now.toNat) ∧
     u.hart.regs = s.hart.regs ∧ u.hart.pc = s.hart.pc)

/-- R378 to R386: the launch words do their work and go on, when the spec lets them: LAUNCH enters a sound record, WNEXT takes
a tile, or asks for the split of an instance of another stack and waits for the reply, WSPLIT cuts the upper half of its instance off as a new one and gives its size, or writes 0, WDONE releases the tile, CTWAIT ends when the counter has reached its value and its key is
settled, CTINC adds under a key after its publication, and EXIT leaves after its publication. R384, R385: NPBEGIN opens a
region at TIME unless one is open, NPEND closes it, and YIELD gives up the next issue. -/
def Obligations.LaunchAndSchedulingWords : Prop :=
  (∀ (s u v : State) (sd sa sb : SReg) (ws : List Word) (x : Word) (idx : Nat) (key : Key),
     let c := s.counter (s.rs sa).toNat
     let fresh : Prop := ∀ k xs, s.hart.phase ≠ .requested k ∧ s.hart.phase ≠ .returned k xs
     (s.hart.service = false → (s.rs sa).toNat % 128 = 0 → s.loadWords (s.rs sa) 16 = .ok (u, ws) → u.recFault ws false = none →
       freeIndex (u.stack s.hart.stk).launches 256 = some idx → u.publish 0 false = .ok v →
       WordGives (.launch sa) s (v.enterLaunch s.hart.stk idx ws (v.log s.hart.key).ptKey s.hart.domain).next) ∧
     (s.hart.tile = none → fresh → s.takeTile = (u, some x) → u.belowLimit sd x = false → WordGives (.wnext sd) s (u.ws sd x).next) ∧
     (s.hart.tile = none → fresh → s.takeTile = (u, none) → u.splitFor = none → u.belowLimit sd (BitVec.allOnes 64) = false →
       WordGives (.wnext sd) s (u.ws sd (BitVec.allOnes 64)).next) ∧
     (s.hart.tile = none → fresh → s.takeTile = (u, none) → u.splitFor = some (v, true) → WordGives (.wnext sd) s (v.park (.requested 0))) ∧
     (s.hart.tile = none → s.hart.phase = .requested key → WordGives (.wnext sd) s (s.park (.requested key))) ∧
     (∀ xs, s.hart.tile = none → s.hart.phase = .returned key xs →
       (xs.headD 0 ≠ 0 → s.takeTile = (u, some x) → u.belowLimit sd x = false → WordGives (.wnext sd) s (u.ws sd x).next) ∧
       (xs.headD 0 = 0 → WordWrites (.wnext sd) s sd (BitVec.allOnes 64))) ∧
     (s.hart.tile ≠ none → WordTraps (.wnext sd) s 0x22 4) ∧
     (∀ (w : Nat) (y : Walker) (c : List Nat),
       let ws := (s.launchAt s.hart.home s.hart.launch).words
       s.hart.tile = none → fresh → s.walkerOf s.hart = some (w, y) → (s.stack s.hart.instStack).walkers.look w {} = y → y.state = .active →
       y.next < y.stop → tileOf ws y.next = some c → s.belowLimit sd (tileWord c) = false → WordAdmitted s (.wnext sd) →
       ∃ t, exec (.wnext sd) s = .next t ∧ t.hart.pc = s.hart.pc + 4 ∧ t.hart.tile = some y.next ∧ (sd ≠ 0 → t.rs sd = tileWord c) ∧
         (∀ r, r ≠ sd → t.rs r = s.rs r) ∧
         let z := (t.stack s.hart.instStack).walkers.look w {}
         z.next = y.next + 1 ∧ z.out = y.out + 1 ∧ z.stop = y.stop ∧ z.state = .active) ∧
     (∀ (w free : Nat) (y : Walker),
       let l := s.launchAt s.hart.home s.hart.launch
       let k := s.hart.instStack
       let mid := y.next + (y.rest + 1) / 2
       let n : Word := BitVec.ofNat 64 (y.stop - mid)
       s.walkerOf s.hart = some (w, y) → (s.stack k).walkers.look w {} = y → freeIndex (s.stack k).walkers 32 = some free →
       y.state = .active → 2 ≤ y.rest → l.state = .running → admits l.words k k = true → s.covers s.hart.core l.words = true →
       s.belowLimit sd n = false → WordAdmitted s (.wsplit sd) →
       ∃ t, exec (.wsplit sd) s = .next t ∧ t.hart.pc = s.hart.pc + 4 ∧ (sd ≠ 0 → t.rs sd = n) ∧
         (let lower := (t.stack k).walkers.look w {}
          lower.next = y.next ∧ lower.stop = mid ∧ lower.state = .active) ∧
         let upper := (t.stack k).walkers.look free {}
         upper.state = .active ∧ upper.next = mid ∧ upper.stop = y.stop ∧ upper.home = y.home ∧ upper.launch = y.launch ∧
           upper.out = 0 ∧ upper.bound = []) ∧
     (freeIndex (s.stack s.hart.instStack).walkers 32 = none → WordWrites (.wsplit sd) s sd 0) ∧
     (∀ (w : Nat) (y : Walker), s.walkerOf s.hart = some (w, y) → (s.stack s.hart.instStack).walkers.look w {} = y → y.rest < 2 →
       WordWrites (.wsplit sd) s sd 0) ∧
     (s.hart.tile ≠ none → WordGives .wdone s s.dropTile.next) ∧ (s.hart.tile = none → WordTraps .wdone s 0x22 5) ∧
     ((s.rs sa).toNat ≤ 4095 → (s.rs sb).toNat ≤ c.value.toNat → c.key.le s.settled = true → s.belowLimit sd c.value = false →
       WordGives (.ctwait sd sa sb) s ((((s.refreshAll s.hart.core c.key).raiseFloor c.key).ws sd c.value).next)) ∧
     ((s.rs sa).toNat ≤ 4095 → s.hart.phase = .published key → s.rs sb = 0 → WordWrites (.ctinc sd sa sb) s sd c.value) ∧
     ((s.rs sa).toNat ≤ 4095 → s.hart.phase = .published key → s.rs sb ≠ 0 → s.canKey = true →
       s.belowLimit sd (c.value + s.rs sb) = false →
       ∃ t, (WordAdmitted s (.ctinc sd sa sb) → exec (.ctinc sd sa sb) s = .next t) ∧ t.hart.pc = s.hart.pc + 4 ∧
         ((t.stack s.stk).ccs.look (s.rs sa).toNat {}).value = c.value + s.rs sb ∧
         ((t.stack s.stk).ccs.look (s.rs sa).toNat {}).key = c.key.max s.nextKey ∧ (sd ≠ 0 → t.rs sd = c.value + s.rs sb)) ∧
     (s.dropTile.publish 0 false = .ok u → s.hart.service = true ∨ s.reaches s.stk s.hart.home = true → WordGives .exit s u.leave) ∧
     (s.hart.service = false → s.reaches s.stk s.hart.home = false → WordGives .exit s (s.park .ordering))) ∧
  (∀ s : State,
     WordGives .npbegin s (s.modHart fun h => { h with npSince := some (h.npSince.getD s.now.toNat) }).next ∧
     WordGives .npend s (s.modHart fun h => { h with npSince := none }).next ∧
     (WordAdmitted s .yield → ∃ t, exec .yield s = .next t ∧ t.hart.pc = s.hart.pc + 4 ∧ t.hart.skip = true ∧
       t.hart.readyTicks = 0 ∧ t.hart.regs = s.hart.regs ∧ t.mem = s.mem ∧ (t.core s.hart.core).rr = s.hart.slotNo))

/-- R212: a CSR word writes the old value to sd, and CSRW its source, CSRS the old value with the source's ones set, CSRC with
them cleared, to a register that the context has and may write; CSRS and CSRC with s0 write nothing. R211, R213: a CSR word
that names a register the context has not, or writes one that is read-only, is illegal. R57, R54, R103, R203: what a written
control register of the hart reads as afterwards: its defined bits, with RNGS taking the seed of R54 for 0; no other such
register changes. That such a word is illegal before it is privileged, at level 0, is this model's reading
(notes/assumptions/100.md), and so is which hart has which register (notes/assumptions/20.md). -/
def Obligations.ControlRegistersAreReadAndWritten : Prop :=
  (∀ (s : State) (sd sa : SReg) (csr : BitVec 15),
     let n := csr.toNat
     let old := s.csrRead n
     let x := s.rs sa
     s.hasCsr n = true → s.belowLimit sd old = false →
     WordGives (.csrr sd csr) s ((s.ws sd old).next) ∧
     (csrWritable n = true → WordGives (.csrw sd csr sa) s (((s.csrWrite n x).ws sd old).next)) ∧
     (csrWritable n = true → sa ≠ 0 → WordGives (.csrs sd csr sa) s (((s.csrWrite n (old ||| x)).ws sd old).next)) ∧
     (csrWritable n = true → sa ≠ 0 → WordGives (.csrc sd csr sa) s (((s.csrWrite n (old &&& ~~~x)).ws sd old).next)) ∧
     WordGives (.csrs sd csr 0) s ((s.ws sd old).next) ∧ WordGives (.csrc sd csr 0) s ((s.ws sd old).next)) ∧
  (∀ (s : State) (sd sa : SReg) (csr : BitVec 15),
     let illegal (i : Instr) : Prop := exec i s = .next (s.takeTrap 0x10 (wordOf i) s.hart.pc)
     (s.hasCsr csr.toNat = false → illegal (.csrr sd csr)) ∧
     (s.hasCsr csr.toNat = false ∨ csrWritable csr.toNat = false → illegal (.csrw sd csr sa) ∧
       (sa ≠ 0 → illegal (.csrs sd csr sa) ∧ illegal (.csrc sd csr sa)))) ∧
  (∀ (s : State) (x : Word),
     (s.csrWrite 0x000 x).csrRead 0x000 = x &&& 0x1F ∧ (s.csrWrite 0x001 x).csrRead 0x001 = x &&& 0x3F ∧
     (s.csrWrite 0x002 x).csrRead 0x002 = (if x = 0 then Config.rngSeed else x) ∧
     (s.csrWrite 0x003 x).csrRead 0x003 = x &&& 0x1FFFF ∧ (s.csrWrite 0x005 x).csrRead 0x005 = x &&& 0xFFFF ∧
     (s.csrWrite 0x00D x).csrRead 0x00D = x &&& 0xFF ∧
     (s.csrWrite 0x100 x).csrRead 0x100 = x ∧ (s.csrWrite 0x101 x).csrRead 0x101 = x &&& 0x7F ∧
     (s.csrWrite 0x102 x).csrRead 0x102 = x ∧ (s.csrWrite 0x103 x).csrRead 0x103 = x &&& 0x17 ∧
     (s.csrWrite 0x104 x).csrRead 0x104 = x ∧ (s.csrWrite 0x108 x).csrRead 0x108 = x ∧
     (s.csrWrite 0x10C x).csrRead 0x10C = x ∧
     (∀ n ∈ [0x000, 0x001, 0x002, 0x003, 0x005, 0x00D, 0x100, 0x101, 0x102, 0x103, 0x104],
       ∀ m ∈ [0x000, 0x001, 0x002, 0x003, 0x005, 0x00D, 0x100, 0x101, 0x102, 0x103, 0x104, 0x108, 0x109, 0x10A, 0x10B, 0x10C, 0x110],
         m ≠ n → (s.csrWrite n x).csrRead m = s.csrRead m))

/-- R207, R203: a trap of a hart below level 2 with no convoy in progress saves the address, cause and value in the bank of
the new level, saves the mode, sleep and region bits in its TSTAT, raises the level, and goes to the level's handler; every
general register, every other context and memory stay. R30: a trap of a convoy puts every register back as it was before the
convoy and drops its effects and flags. R209: a trap at level 2 enters the crash event with the causes of all levels and stops
a service core, with the buffer frozen; of a compute core the context is lost: its unpublished records are discarded, its gang
and its launch are told, and its core's other contexts are asked to make room for 4,096 ticks, or the core reset begins where
there are none: CAPMASK takes firmware's value, the tables are emptied, and it ends 2,048 ticks later. That the context is lost before the
others are asked, and that a second crash leaves the 4,096 ticks as they run, is the model's reading
(notes/assumptions/71.md). -/
def Obligations.TrapEntrySavesAndUnwinds : Prop :=
  (∀ (s : State) (c : Nat) (v epc : Word),
     s.hart.tlevel < 2 → s.hart.cv.active = false →
     let h := s.hart
     let t := s.takeTrap c v epc
     let b := if h.tlevel = 0 then t.hart.trap1 else t.hart.trap2
     t.hart.tlevel = h.tlevel + 1 ∧ b.epc = epc ∧ b.cause = causeBits c ∧ b.val = v ∧
     b.stat.getLsbD 0 = h.regs.mode ∧ b.stat.getLsbD 1 = decide (h.slot = .sleeping) ∧ b.stat.getLsbD 2 = h.npSince.isSome ∧
     b.scr = (if h.tlevel = 0 then h.trap1.scr else h.trap2.scr) ∧
     (if h.tlevel = 0 then t.hart.trap2 = h.trap2 else t.hart.trap1 = h.trap1) ∧
     t.hart.pc = handlerOf h (s.core h.core).tvec (h.tlevel + 1) ∧ t.hart.regs = h.regs ∧ t.hart.frags = h.frags ∧
     t.mem = s.mem ∧ t.others = s.others ∧ t.logs = s.logs) ∧
  (∀ (s : State) (c : Nat) (v epc : Word),
     s.hart.tlevel < 2 → s.hart.cv.active = true →
     let t := s.takeTrap c v epc
     t.hart.regs = s.hart.saved ∧ t.hart.cv = {} ∧ t.hart.tlevel = s.hart.tlevel + 1 ∧ t.mem = s.mem ∧ t.logs = s.logs) ∧
  (∀ (s : State) (c : Nat) (v epc : Word),
     let h := s.hart
     let t := s.takeTrap c v epc
     let g := h.core
     let now := s.time h.stk
     let cause := (causeBits c).toNat
     let here (k : Nat) (y : Hart) : Prop :=
       k ≠ h.key ∧ s.ctx k = some y ∧ y.service = false ∧ y.core = g ∧ y.resident = true
     2 ≤ h.tlevel →
     (c ≠ 0x1A → (s.stack h.stk).pfb.frozen = false → (∀ e ∈ s.cores, e.2.copies = []) →
       let p := (s.stack h.stk).pfb
       ∃ w1 w2 : Word, (t.stack h.stk).pfb.entries.look p.idx.toNat [] = [now, w1, w2, epc] ∧ w1.toNat % 256 = 6 ∧
         w2.toNat / 2 ^ 48 = h.loc % 65536 ∧
         w2.toNat % 2 ^ 48 = h.trap1.cause.toNat + 256 * h.trap2.cause.toNat + 65536 * cause) ∧
     (h.service = true → t.hart.slot = .sleeping ∧ t.hart.phase = .halted ∧ (t.stack h.stk).pfb.frozen = true ∧ t.mem = s.mem) ∧
     (h.service = false → h.slot ≠ .ended → ContextsKeyed s →
       t.ctx h.key = none ∧ (∀ r ∈ (t.log h.key).recs, r.key ≠ none) ∧
       (h.inGang = true → (t.gang h.gangKey).gone = (s.gang h.gangKey).gone + 1) ∧
       (h.launch < 256 → (t.stack h.stk).reports = (s.stack h.stk).reports ++ [failureReport h now cause epc]) ∧
       (let l := s.launchAt h.home h.launch
        l.state = .running → 2 ≤ l.ctxs → (t.launchAt h.home h.launch).state = .failed) ∧
       (∀ k y, here k y → (s.core g).resetWait = none → (∃ z, t.ctx k = some z ∧ z.preempt = true) ∧
         (t.core g).resetWait = some (now.toNat + 4096) ∧ (t.core g).resetCause = cause ∧ (t.core g).resetEpc = epc) ∧
       (∀ k y, here k y → (s.core g).resetWait ≠ none → (t.core g).resetWait = (s.core g).resetWait) ∧
       ((∀ k y, ¬ here k y) → (t.core g).capmask = (s.core g).fwCapmask ∧ (t.core g).resetEnd = some (now.toNat + 2048) ∧
         (t.core g).view = [] ∧ (t.core g).tlb = [] ∧ (t.core g).lat = [] ∧ (t.core g).tvec = (s.core g).tvec)))

/-- R215: TRAP takes cause 0x1C with its immediate, and returns to the next word. R90: what is no instruction takes cause
0x10. R206: a pending asynchronous cause is taken at level 0, the overrun first. R210: TRET at level 1 or 2 whose saved mode
is the mode lowers the level and goes to the saved address; from level 1 a set RPL requests
re-placement, of the hart and with it of its gang (R44). At another mode it
is illegal. -/
def Obligations.TrapsAreTakenAndReturnedFrom : Prop :=
  (∀ (s : State) (imm : BitVec 8) (x v w : Word),
     WordGives (.trap imm) s (s.takeTrap 0x1C (imm.setWidth 64) (s.hart.pc + 4)) ∧
     exec (.illegalWord x) s = .next (s.takeTrap 0x10 x s.hart.pc) ∧
     (s.hart.tlevel = 0 → s.hart.async30 = some v →
       exec .asyncTrap s = .next ((s.modHart fun h => { h with async30 := none }).takeTrap 0x30 v s.hart.pc)) ∧
     (s.hart.tlevel = 0 → s.hart.async30 = none → s.hart.async31 = some w →
       exec .asyncTrap s = .next ((s.modHart fun h => { h with async31 := none }).takeTrap 0x31 w s.hart.pc))) ∧
  (∀ s : State,
     let h := s.hart
     let b := if h.tlevel = 1 then h.trap1 else h.trap2
     (h.tlevel ≠ 0 → h.regs.mode = b.stat.getLsbD 0 → WordAdmitted s .tret → ∃ t, exec .tret s = .next t ∧
       t.hart.tlevel = h.tlevel - 1 ∧ t.hart.pc = b.epc ∧ t.hart.slot = .ready ∧ t.hart.phase = .run ∧
       (h.service = false → h.tlevel = 1 → b.stat.getLsbD 4 = true → t.hart.preempt = true ∧ t.hart.replace = true) ∧
       (h.tlevel ≠ 1 ∨ b.stat.getLsbD 4 = false → t.hart.preempt = h.preempt ∧ t.hart.replace = h.replace ∧ t.others = s.others) ∧
       (ContextsKeyed s → h.service = false → h.tlevel = 1 → b.stat.getLsbD 4 = true → ∀ k y, k ≠ h.key → s.ctx k = some y →
         t.ctx k = some (if y.service = false ∧ y.resident = true ∧ h.inGang = true ∧ y.inGang = true ∧ y.gangKey = h.gangKey then
           { y with preempt := true, replace := true } else y)) ∧
       t.hart.regs = h.regs ∧ t.hart.trap1 = h.trap1 ∧ t.hart.trap2 = h.trap2 ∧ t.mem = s.mem ∧ t.logs = s.logs) ∧
     (h.tlevel ≠ 0 → h.regs.mode ≠ b.stat.getLsbD 0 → WordTraps .tret s 0x10 (wordOf .tret)))

/-- R202: at trap level 0 of a compute hart the privileged words take a privilege trap with the word. R97, R98: a legal word
of the mode whose class the use mask lacks takes cause 0x13, and one whose class CAPMASK lacks takes cause 0x14, each with the
class number; shown of the words of class base, multiply and divide, scalar float, and home operations. -/
def Obligations.PrivilegeAndClassChecksTrap : Prop :=
  (∀ (s : State) (sd sa : SReg) (csr : BitVec 15),
     s.hart.service = false → s.hart.tlevel = 0 →
     (∀ i ∈ [Instr.tret, .halt, .ptinv sa, .capfence sd sa, .captest sd sa],
       exec i s = .next (s.takeTrap 0x11 (wordOf i) s.hart.pc)) ∧
     (s.hasCsr csr.toNat = true → csrPriv csr = true →
       exec (.csrr sd csr) s = .next (s.takeTrap 0x11 (wordOf (.csrr sd csr)) s.hart.pc))) ∧
  (∀ (s : State) (sd sa sb : SReg) (off : BitVec 12),
     s.hart.service = false →
     ∀ p ∈ [(Instr.add sd sa sb, 32), (.fence, 32), (.mul sd sa sb, 33), (.div sd sa sb, 33), (.fmin true sd sa sb, 34),
         (.ldh sd sa off false, 46)],
       (s.hart.usemask.getLsbD p.2 = false → exec p.1 s = .next (s.takeTrap 0x13 (BitVec.ofNat 64 p.2) s.hart.pc)) ∧
       (s.hart.usemask.getLsbD p.2 = true → (s.core s.hart.core).capmask.getLsbD p.2 = false →
         exec p.1 s = .next (s.takeTrap 0x14 (BitVec.ofNat 64 p.2) s.hart.pc)))

/-- R216 to R223: EVWAIT with hart.event set clears it and writes 1, at its end without an event writes 0, and else sleeps
until TIME plus its operand; HALT is reported, sleeps, and goes on when it is released; PTINV drops the translations it names from its
core's TLB; CAPFENCE writes the capabilities left and fences the rest; CAPTEST sleeps for the test and then writes what
failed; BBOX enters its event; TSTAMP writes TIME. R220: a fence by a compute hart clears the bits it names in its core's
CAPMASK, and no register, no memory and no other core changes. That HALT's report is an entry of a list of its stack
(notes/assumptions/66.md), and that CAPTEST ends exactly 120,000 ticks after it began (notes/assumptions/3.md), are this
model's readings. -/
def Obligations.SystemWordsAndFences : Prop :=
  (∀ (s : State) (sd sa sb : SReg) (k : Key) (xs : List Word) (n : Nat),
     let x := s.rs sa
     (s.hart.event = true → s.belowLimit sd 1 = false →
       WordGives (.evwait sd sa) s (((s.modHart fun h => { h with event := false }).ws sd 1).next)) ∧
     (s.hart.event = false → s.hart.phase = .returned k xs → WordWrites (.evwait sd sa) s sd 0) ∧
     (s.hart.event = false → s.hart.phase = .run → WordGives (.evwait sd sa) s
       (s.park (.event (if x = 0 then none else some (s.now.toNat + x.toNat))))) ∧
     (s.hart.phase = .run → WordGives .halt s ((if s.hart.service then s else
       s.modStack s.stk fun t => { t with halts := t.halts ++ [s.hart.loc] }).park .halted)) ∧
     (s.hart.phase = .released n → WordGives .halt s s.next) ∧
     WordGives (.ptinv sa) s ((s.modCore s.hart.core fun c =>
       { c with tlb := if sa = 0 then [] else c.tlb.filter fun e => !(x.toNat / 2 ^ offsetBits e.level == e.page / 2 ^ offsetBits e.level) }).next) ∧
     (let rest := (s.core s.hart.core).capmask &&& ~~~x
      s.belowLimit sd rest = false → WordGives (.capfence sd sa) s (((s.fenceOwn 1 x).ws sd rest).next)) ∧
     (s.hart.phase = .run → s.testing s.hart.core = false →
       WordGives (.captest sd sa) s (s.park (.testing (s.now.toNat + 120000) (x &&& (s.core s.hart.core).capmask)))) ∧
     (s.hart.phase = .run → s.testing s.hart.core = true → WordGives (.captest sd sa) s (s.park .testWait)) ∧
     (let bits := xs.getD 1 0
      let failed := bits &&& xs.headD 0
      s.hart.phase = .returned k xs → (s.endTest s.hart.core (some s.hart) bits failed).belowLimit sd failed = false →
       WordGives (.captest sd sa) s (((s.endTest s.hart.core (some s.hart) bits failed).ws sd failed).next)) ∧
     WordGives (.bbox sa sb) s ((s.pfbHart s.hart 0x20 x (s.rs sb &&& 0xFFFFFFFFFFFF)).next) ∧
     WordWrites (.tstamp sd) s sd s.now) ∧
  (∀ (s : State) (src : Nat) (bits : Word) (g : Nat),
     s.hart.service = false → s.hart.core < 1152 →
     ((s.fenceOwn src bits).core s.hart.core).capmask = (s.core s.hart.core).capmask &&& ~~~bits ∧
     (g ≠ s.hart.core → (s.fenceOwn src bits).core g = s.core g) ∧
     (s.fenceOwn src bits).hart.regs = s.hart.regs ∧ (s.fenceOwn src bits).mem = s.mem)

/-- R22, R128: VSETL sets VLEN to the smaller of its request and what the grant holds of its tag, sets FTRIM to 0xFFFF, and
writes the length. A request above the grant gets the largest power of two that the grant and the free clusters supply, in the
lowest free clusters; one below keeps the lowest of its own; where the grant changes, every vector reads as zero with its tag
kept, every predicate as false, and the scratchpad slices of kept clusters stay while the others read as zero. R25: VSETL.G
waits until its gang has met, and then does so with the gang's count. R183: MXON saves VLEN, counts all positions, zeroes the tiles and sets the shape; MXOFF restores VLEN; neither changes a
vector, a predicate, the grant or a scalar register. -/
def Obligations.LengthAndMatrixModeWords : Prop :=
  (∀ (s : State) (sd sa : SReg) (tag : Tag) (c : Clus) (m : Nat),
     let cur := popc s.hart.regs.grant
     let want := Clus.want c cur
     let free := (s.core s.hart.core).freeClusters
     let n := grantCount s.hart.regs.grant free want
     let under (b : BitVec 16) (i : Nat) : Nat := ((List.range i).filter fun j => b.getLsbD j).length
     let len := Nat.min (s.rs sa).toNat (4 * n * 1024 / tagWidth tag)
     let lenG := Nat.min (s.rs sa).toNat (4 * m * 1024 / tagWidth tag)
     (s.hart.inGang = false ∨ want = cur → want = cur ∨ s.hart.frags = [] → s.belowLimit sd (BitVec.ofNat 64 len) = false →
       WordAdmitted s (.vsetl sd sa tag c) → ∃ t, exec (.vsetl sd sa tag c) s = .next t ∧ t.hart.pc = s.hart.pc + 4 ∧
         t.hart.regs.vlen = len ∧ t.hart.regs.ftrim = 0xFFFF ∧ (sd ≠ 0 → t.rs sd = BitVec.ofNat 64 len) ∧
         (n = cur → t.hart.regs.v = s.hart.regs.v ∧ t.hart.regs.p = s.hart.regs.p ∧ t.hart.regs.grant = s.hart.regs.grant ∧
           t.hart.regs.scratch = s.hart.regs.scratch) ∧
         (want ≤ cur → n = want) ∧
         (cur < want → cur ≤ n ∧ n ≤ Nat.max cur (Nat.min want (cur + popc free)) ∧ (n = cur ∨ ∃ k, n = 2 ^ k) ∧
           ∀ k, 2 ^ k ≤ Nat.min want (cur + popc free) → 2 ^ k ≤ n) ∧
         (s.hart.slot ≠ .ended → ∀ i, i < 16 → (t.hart.regs.grant.getLsbD i = true ↔
           if n < cur then s.hart.regs.grant.getLsbD i = true ∧ under s.hart.regs.grant i < n
           else s.hart.regs.grant.getLsbD i = true ∨
             ((free &&& ~~~s.hart.regs.grant).getLsbD i = true ∧ under (free &&& ~~~s.hart.regs.grant) i < n - cur))) ∧
         (t.hart.regs.grant ≠ s.hart.regs.grant →
           (∀ r, (t.hart.regs.rv r).bits = 0 ∧ (t.hart.regs.rv r).segs = 0 ∧ (t.hart.regs.rv r).tag = (s.hart.regs.rv r).tag) ∧
           (∀ p, p ≠ 0 → (t.hart.regs.rp p).bits = 0) ∧
           ∀ a, cellRead 0 t.hart.regs.scratch a =
             if (t.hart.regs.grant &&& s.hart.regs.grant).getLsbD (a / 65536) then cellRead 0 s.hart.regs.scratch a else 0) ∧
         (∀ r, r ≠ sd → t.rs r = s.rs r) ∧ t.mem = s.mem) ∧
     (s.hart.inGang = true → sd ≠ 2 → s.hart.phase = .run → s.hart.passed = some m →
       WordGives (.vsetlG sd sa tag c) s
         ((((s.modHart fun h => { h with passed := none }).modRegs fun r => { r with vlen := lenG, ftrim := 0xFFFF }).ws sd
           (BitVec.ofNat 64 lenG)).next)) ∧
     (s.hart.inGang = true → sd ≠ 2 → s.hart.phase = .run → s.hart.passed = none → s.hart.rendezvous = false →
       want = cur ∨ s.hart.frags = [] → WordAdmitted s (.vsetlG sd sa tag c) →
       let gang := s.gang s.hart.gangKey
       let wants := gang.wants.put s.hart.key want
       let ms := s.harts.filter fun h => wants.any fun e => e.1 == h.key
       let n := s.gangGrant ms ((wants.map Prod.snd).foldl Nat.min 16)
       (wants.length + gang.gone < gang.size → ∃ t, exec (.vsetlG sd sa tag c) s = .next t ∧ t.hart.phase = .arrived true ∧
         t.hart.rendezvous = true ∧ (t.gang s.hart.gangKey).wants = wants ∧ t.hart.regs = s.hart.regs ∧ t.mem = s.mem) ∧
       (gang.size ≤ wants.length + gang.gone → s.hart.slot ≠ .ended →
         (∀ h ∈ ms, h.slot ≠ .draining ∧ h.slot ≠ .saving ∧ h.slot ≠ .saved) →
         ∃ t, exec (.vsetlG sd sa tag c) s = .next t ∧ t.hart.pc = s.hart.pc + 4 ∧ t.hart.regs.ftrim = 0xFFFF ∧
           t.hart.regs.vlen = Nat.min (s.rs sa).toNat (4 * n * 1024 / tagWidth tag) ∧
           (t.gang s.hart.gangKey).wants = [] ∧ t.mem = s.mem)) ∧
     (s.hart.inGang = true → sd ≠ 2 → s.hart.phase = .released m →
       WordGives (.vsetlG sd sa tag c) s
         (((s.modRegs fun r => { r with vlen := lenG, ftrim := 0xFFFF }).ws sd (BitVec.ofNat 64 lenG)).next)) ∧
     (s.hart.inGang = true → sd ≠ 2 → s.hart.phase = .arrived true →
       WordGives (.vsetlG sd sa tag c) s (s.park (.arrived true)))) ∧
  (∀ s : State,
     let r := s.hart.regs
     let keeps (t : State) : Prop := t.hart.pc = s.hart.pc + 4 ∧ t.hart.regs.v = r.v ∧ t.hart.regs.p = r.p ∧
       t.hart.regs.grant = r.grant ∧ t.hart.regs.s = r.s ∧ t.hart.frags = s.hart.frags ∧ t.hart.regs.ftrim = 0xFFFF ∧
       t.hart.regs.mxpcmd = 0 ∧ t.mem = s.mem
     (WordAdmitted s .mxon → ∃ t, exec .mxon s = .next t ∧ keeps t ∧ t.hart.regs.mode = true ∧ t.hart.regs.savedVlen = r.vlen ∧
       t.hart.regs.vlen = 256 * s.hart.lanes ∧ (∀ n i j, t.hart.regs.tileElem n i j = 0) ∧
       t.hart.regs.tshm = Nat.min 32 (2 * s.hart.lanes) ∧ t.hart.regs.tshn = 16 * s.hart.lanes ∧ t.hart.regs.tshk = 16) ∧
     (WordAdmitted s .mxoff → ∃ t, exec .mxoff s = .next t ∧ keeps t ∧ t.hart.regs.mode = false ∧
       t.hart.regs.vlen = r.savedVlen ∧ t.hart.regs.tshm = r.tshm ∧ t.hart.regs.tshn = r.tshn ∧ t.hart.regs.tshk = r.tshk))

/-- R34, R137, R138: VBANY and VBNONE look at the predicate's bits below VLEN and FTRIM, wait four ticks, and then go to the target
or to the next word; VBRF with both outcomes parks the elements without the bit, and with eight fragments parked traps. Each goes on
there when its four ticks have passed. R139:
FRGPOP with no fragment goes on; else it takes the newest, makes its predicate false at the parked elements and true at every
other position of the grant, and goes to the fragment's address. R34: a branch that has resolved goes on at its address. That
VBRF parks its fragment, and takes the trap of the ninth, at issue and not when it resolves is this model's choice
(notes/assumptions/27.md). -/
def Obligations.PredicateBranchesAndFragments : Prop :=
  (∀ (s : State) (p : PReg) (imm : BitVec 15),
     let r := s.hart.regs
     let bitAt (e : Nat) : Bool := (r.rp p).bits.getLsbD e
     let some_ := ∃ e, e < r.vlen ∧ e < r.ftrim.toNat ∧ bitAt e = true
     let all_ := ∀ e, e < r.vlen → e < r.ftrim.toNat → bitAt e = true
     let target := s.hart.pc + imm.signExtend 64 * 4
     let resolves (t : State) (pc : Word) : Prop := ∀ u, u.hart = t.hart → s.now.toNat + 4 ≤ (u.time u.hart.stk).toNat →
       ∃ v, exec (.vbranchResolve u.hart.key) u = .next v ∧ v.hart.pc = pc ∧ v.hart.phase = .run ∧ v.hart.slot = .ready ∧
         v.hart.regs = u.hart.regs ∧ v.hart.frags = u.hart.frags ∧ v.mem = u.mem
     let goes (i : Instr) (pc : Word) : Prop := WordAdmitted s i → ∃ t, exec i s = .next t ∧
       t = s.park (.branch (s.now.toNat + 4) pc) ∧ resolves t pc
     (some_ → goes (.vbany p imm) target ∧ goes (.vbnone p imm) (s.hart.pc + 4)) ∧
     (¬ some_ → goes (.vbany p imm) (s.hart.pc + 4) ∧ goes (.vbnone p imm) target ∧ goes (.vbrf p imm) (s.hart.pc + 4)) ∧
     (some_ → all_ → goes (.vbrf p imm) target) ∧
     (some_ → ¬ all_ → 8 ≤ s.hart.frags.length → WordTraps (.vbrf p imm) s 0x18 8) ∧
     (some_ → ¬ all_ → s.hart.frags.length < 8 → WordAdmitted s (.vbrf p imm) → ∃ t f, exec (.vbrf p imm) s = .next t ∧
       t.hart.phase = .branch (s.now.toNat + 4) target ∧ resolves t target ∧
       t.hart.frags = f :: s.hart.frags ∧ f.resume = s.hart.pc + 4 ∧ f.pred = p ∧
       (∀ e, e < 16384 → f.mask.getLsbD e = (decide (e < r.vlen) && decide (e < r.ftrim.toNat) && !bitAt e)) ∧
       (s.hart.cv.active = false → t.hart.regs = r) ∧ t.mem = s.mem)) ∧
  (∀ (s : State) (f : Fragment) (fs : List Fragment) (t : Nat) (pc : Word),
     (s.hart.frags = [] → WordGives .frgpop s s.next) ∧
     (s.hart.frags = f :: fs → WordAdmitted s .frgpop → ∃ u, exec .frgpop s = .next u ∧ u.hart.pc = f.resume ∧ u.hart.frags = fs ∧
       (f.pred ≠ 0 → ∀ e, (u.hart.regs.rp f.pred).bits.getLsbD e =
         (decide (e < 256 * s.hart.lanes) && decide (e < 16384) && !f.mask.getLsbD e)) ∧
       (∀ p, p ≠ f.pred → u.hart.regs.rp p = s.hart.regs.rp p) ∧ u.hart.regs.v = s.hart.regs.v) ∧
     (s.hart.phase = .branch t pc → t ≤ s.now.toNat → ∃ u, exec (.vbranchResolve s.hart.key) s = .next u ∧ u.hart.pc = pc ∧
       u.hart.phase = .run ∧ (s.hart.slot = .waiting → u.hart.slot = .ready) ∧ u.hart.regs = s.hart.regs))

/-! ## Vector members -/

/-- R143, R145, R147, R149: each member of two or three sources whose promoted tag it accepts computes every active element
from the exact values of its sources, and writes the elements under that tag. -/
def Obligations.PolymorphicMembersCompute : Prop :=
  ∀ (s : State) (g : Gov) (vd va vb vc : VReg) (b : VB) (sat : Bool) (r : Rnd) (t : Tag),
    let ra := s.src.rv va
    let l := s.hart.lanes
    let elemOf (v : VReg) (e : Nat) : Tag × Nat := ((s.src.rv v).tag, (s.src.rv v).elem l (tagWidth (s.src.rv v).tag) e)
    let two (i : Instr) (cls : Nat) (b : VB) (r : Rnd) (sat rounds : Bool) (ok : Bool) (int : Int → Int → Int)
        (num : Rnd → FNum → FNum → FNum × FpFlags) : Prop :=
      let m := roundingOf s (tagFloat t && rounds) r
      let act := s.actives g (tagWidth t :: (s.readsOf va b none).map fun x => tagWidth x.2)
      promote ra.tag (s.opbTag ra.tag b) = some t → ok = true →
      OperandsAdmitted s (s.readsOf va b none) vd t (tagFloat t && rounds) r → LanesSound s cls →
      MemberGives i s (elementsDone s g vd t act (tagFloat t && rounds && m == .sr) fun e u =>
        Poly.elem { cls := cls, sat := sat, rounds := rounds, int := fun _ x y _ => int x y, num := fun m x y _ => num m x y }
          s.ctl t m (elemOf va e) (s.opbTag ra.tag b, s.opbBits ra.tag b e) (.uint4, 0) u)
    let three (i : Instr) (int : Int → Int → Int → Int) (num : Rnd → FNum → FNum → FNum → FNum × FpFlags) : Prop :=
      let m := roundingOf s (tagFloat t) r
      let act := s.actives g (tagWidth t :: (s.readsOf va (.v vb) (some vc)).map fun x => tagWidth x.2)
      promote3 ra.tag (s.src.rv vb).tag (s.src.rv vc).tag = some t →
      OperandsAdmitted s (s.readsOf va (.v vb) (some vc)) vd t (tagFloat t) r → LanesSound s 36 →
      MemberGives i s (elementsDone s g vd t act (tagFloat t && m == .sr) fun e u =>
        Poly.elem { cls := 36, sat := sat, int := fun _ => int, num := num } s.ctl t m (elemOf va e) (elemOf vb e) (elemOf vc e) u)
    two (.vadd g vd va b sat r) 35 b r sat true true (· + ·) (fun m x y => x.add y m) ∧
    two (.vsub g vd va b sat r) 35 b r sat true true (· - ·) (fun m x y => x.add y.negate m) ∧
    two (.vmul g vd va b sat r) 36 b r sat true true (· * ·) (fun _ x y => x.mul y) ∧
    two (.vmulh g vd va b) 36 b .dyn false true (tagInt t) (fun x y => x * y / (2 ^ tagWidth t : Nat)) (fun _ x _ => (x, 0)) ∧
    two (.vdiv g vd va b sat r) 37 b r sat true (tagInt t || tagFn t || t == .fp64) (quotient t) (fun _ x y => x.div y) ∧
    two (.vmin g vd va b) 35 b .dyn false false true min (fun _ x y => (x.min y, sigFlags [x, y])) ∧
    two (.vmax g vd va b) 35 b .dyn false false true max (fun _ x y => (x.max y, sigFlags [x, y])) ∧
    three (.vfma g vd va vb vc sat r) (fun x y z => x * y + z) (fun m x y z => x.fma y z m) ∧
    three (.vfms g vd va vb vc sat r) (fun x y z => x * y - z) (fun m x y z => x.fma y z.negate m) ∧
    three (.vnfma g vd va vb vc sat r) (fun x y z => -(x * y) + z) (fun m x y z => x.negate.fma y z m)

/-- R146, R148, R150: each member of one source whose tag it accepts computes every active element under that tag. R151 to
R154: the members on bits write for each active element the bits their rule gives, under the tag of va. -/
def Obligations.UnaryAndBitMembersCompute : Prop :=
  (∀ (s : State) (g : Gov) (vd va : VReg) (sat : Bool) (r : Rnd),
     let t := (s.src.rv va).tag
     let one (i : Instr) (cls : Nat) (r : Rnd) (sat rounds : Bool) (ok : Bool) (int : Int → Int) (num : FNum → FNum × FpFlags) : Prop :=
       let m := roundingOf s (tagFloat t && rounds) r
       ok = true → OperandsAdmitted s [(va, t)] vd t (tagFloat t && rounds) r → LanesSound s cls →
       MemberGives i s (elementsDone s g vd t (s.actives g [tagWidth t, tagWidth t]) (tagFloat t && rounds && m == .sr) fun e u =>
         Poly.elem { cls := cls, sat := sat, rounds := rounds, int := fun _ x _ _ => int x, num := fun _ x _ _ => num x }
           s.ctl t m (t, (s.src.rv va).elem s.hart.lanes (tagWidth t) e) (.uint4, 0) (.uint4, 0) u)
     one (.vsqrt g vd va r) 37 r false true (tagFn t || t == .fp64) id FNum.sqrt ∧
     one (.vrcp g vd va r) 37 r false true (tagFn t) id (fun x => (FNum.ofInt 1).div x) ∧
     one (.vrsq g vd va r) 37 r false true (tagFn t) id FNum.rsqrt ∧
     one (.vexp2 g vd va r) 38 r false true (tagFn t) id FNum.exp2 ∧
     one (.vlog2 g vd va r) 38 r false true (tagFn t) id FNum.log2 ∧
     one (.vtanh g vd va r) 38 r false true (tagFn t) id FNum.tanh ∧
     one (.vabs g vd va sat) 35 .dyn sat false (!tagMx t) (fun x => x.natAbs) (fun x => (x.abs, sigFlags [x])) ∧
     one (.vneg g vd va sat) 35 .dyn sat false (!tagMx t) (fun x => -x) (fun x => (x.negate, sigFlags [x]))) ∧
  (∀ (s : State) (g : Gov) (vd va : VReg) (b : VB) (flag : Bool),
     let t := (s.src.rv va).tag
     let tb := s.opbTag t b
     let w := tagWidth t
     let x (e : Nat) : Nat := (s.src.rv va).elem s.hart.lanes w e
     let gives (i : Instr) (cls : Nat) (reads : List (VReg × Tag)) (ok : Bool) (f : Nat → Nat × FpFlags) : Prop :=
       ok = true → OperandsAdmitted s reads vd t false .dyn → LanesSound s cls →
       MemberGives i s (elementsDone s g vd t (s.actives g (w :: reads.map fun x => tagWidth x.2)) false fun e _ => f e)
     let two (i : Instr) (cls : Nat) (ok : Bool) (f : Nat → Nat → Nat) : Prop :=
       gives i cls (s.readsOf va b none) ok fun e => (f (x e) (s.opbBits t b e), 0)
     let one (i : Instr) (cls : Nat) (ok : Bool) (f : Nat → Nat) : Prop := gives i cls [(va, t)] ok fun e => (f (x e), 0)
     let shift (i : Instr) (f : Nat → Nat → Nat × FpFlags) : Prop :=
       gives i 35 (s.readsOf va b none) (intTags t tb) fun e => f (x e) (s.shiftAmount b e)
     two (.vand g vd va b) 35 (bitTags t tb) (· &&& ·) ∧ two (.vor g vd va b) 35 (bitTags t tb) (· ||| ·) ∧
     two (.vxor g vd va b) 35 (bitTags t tb) (· ^^^ ·) ∧
     two (.vclmul g vd va b flag) 39 (t == tb && tagInt t && !tagSigned t && t != .uint4)
       (fun x y => if flag then clmul w x y / 2 ^ w else clmul w x y % 2 ^ w) ∧
     one (.vnot g vd va) 35 (bitTags t t) (fun x => 2 ^ w - 1 - x) ∧
     one (.vclz g vd va) 39 (intTags t t) (fun x => if x = 0 then w else w - 1 - Nat.log2 x) ∧
     one (.vpopc g vd va) 39 (intTags t t) (fun x => onesOf x w) ∧
     shift (.vshl g vd va b flag) (fun x k => encInt t flag ((intVal t x).1 * (2 ^ Nat.min k 128 : Nat))) ∧
     shift (.vshr g vd va b) (fun x k => encInt t false ((intVal t x).1 / (2 ^ Nat.min k 128 : Nat))) ∧
     shift (.vrot g vd va b flag) (fun x k => (rotl w x (if flag then w - k % w else k), 0)))

/-- R155: VCMP sets the predicate's bit of each active element to its condition on the two values. R156 to R162: selection,
conversion, scaling, moves and fills write their elements under their tag. -/
def Obligations.CompareSelectAndConvertMembers : Prop :=
  (∀ (s : State) (g : Gov) (pd : PReg) (va : VReg) (b : VB) (c : VCond) (t : Tag),
     let ra := s.src.rv va
     let tb := s.opbTag ra.tag b
     let reads := s.readsOf va b none
     let value (e : Nat) : FNum × FpFlags := numVal s.ctl ra.tag (ra.elem s.hart.lanes (tagWidth ra.tag) e)
     let other (e : Nat) : FNum × FpFlags := numVal s.ctl tb (s.opbBits ra.tag b e)
     let act := s.actives g (reads.map fun x => tagWidth x.2)
     let flags := act.foldl (fun f e => f ||| ((value e).2 ||| (other e).2 ||| (VCond.eval c (value e).1 (other e).1).2)) 0
     promote ra.tag tb = some t → FormatsAdmitted s (reads.map Prod.snd ++ [t]) →
     LengthsFit s (reads.map fun x => (x.1, tagWidth x.2)) → RegistersSound s (reads.map Prod.fst) → LanesSound s 35 →
     MemberGives (.vcmp g pd va b c) s ((s.raise flags).writeP g pd
       (act.map fun e => (e, (VCond.eval c (value e).1 (other e).1).1)))) ∧
  (∀ (s : State) (g : Gov) (vd va vb : VReg) (pc : PReg) (ss : SReg) (b : VB) (d t : Tag) (sat : Bool) (r : Rnd),
     let ra := s.src.rv va
     let rb := s.src.rv vb
     let l := s.hart.lanes
     let act (reads : List (VReg × Tag)) (t : Tag) := s.actives g (tagWidth t :: reads.map fun x => tagWidth x.2)
     (let reads := s.readsOf va (.v vb) none
      promote ra.tag rb.tag = some t → OperandsAdmitted s reads vd t false .dyn → LanesSound s 35 →
       MemberGives (.vsel g vd va vb pc) s (elementsDone s g vd t (act reads t) false fun e _ =>
         (convertBits s.ctl (if (s.src.rp pc).bits.getLsbD e then ra else rb).tag t
           ((if (s.src.rp pc).bits.getLsbD e then ra else rb).elem l
             (tagWidth (if (s.src.rp pc).bits.getLsbD e then ra else rb).tag) e), 0))) ∧
     (let rounds := tagFloat ra.tag || tagMx ra.tag || tagFloat d
      tagMx d = false → tagWidth ra.tag ≤ 4 * tagWidth d → tagWidth d ≤ 4 * tagWidth ra.tag →
       OperandsAdmitted s [(va, ra.tag)] vd d rounds r → LanesSound s 40 →
       MemberGives (.vcvt g vd va d sat r) s (elementsDone s g vd d (act [(va, ra.tag)] d)
         (rounds && roundingOf s rounds r == .sr) fun e u => convertElem s.ctl d sat (roundingOf s rounds r) ra l e u)) ∧
     (let reads := s.readsOf va b none
      let m := roundingOf s true r
      tagFloat ra.tag = true → (match b with | .v x => tagInt (s.src.rv x).tag | .s _ => true) = true →
       OperandsAdmitted s reads vd ra.tag true r → LanesSound s 40 →
       MemberGives (.vscale g vd va b r) s (elementsDone s g vd ra.tag (act reads ra.tag) (m == .sr) fun e u =>
         let x := ra.num s.ctl l e
         let y := encNum s.ctl ra.tag (x.1.scale (clampExp (s.scaleBy b e))) m u
         (y.1, sigFlags [x.1] ||| y.2))) ∧
     (let bs := blocksOf (s.actives g [tagWidth ra.tag])
      let scaled (j : Nat) := scaledScale (ra.scaleAt l j) (s.scaleBy b j)
      tagMx ra.tag = true → (match b with | .v x => tagInt (s.src.rv x).tag | .s _ => true) = true →
       OperandsAdmitted s (s.readsOf va b none) vd ra.tag false r → LanesSound s 40 →
       MemberGives (.vscale g vd va b r) s (elementsDone (s.raise (bs.foldl (fun f j => f ||| (scaled j).2) 0)) g vd ra.tag
         (s.actives g [tagWidth ra.tag]) false (fun e _ => (ra.elem l (tagWidth ra.tag) e, 0))
         fun old => putScales old.scale l (bs.map fun j => (j, (scaled j).1)))) ∧
     (let m := roundingOf s true r
      let x (e : Nat) : FNum := (ra.num s.ctl l e).1
      let es := act [(va, ra.tag)] d
      let block (j : Nat) := quantBlock d ((es.filter fun e => e / 32 == j).map x)
      let nan := (blocksOf es).any fun j => (block j).2
      let sig := (es.map fun e => sigFlags [x e]).foldl (fun a f => a ||| f) 0
      tagMx d = true → qntSource ra.tag = true → tagWidth ra.tag ≤ 4 * tagWidth d → tagWidth d ≤ 4 * tagWidth ra.tag →
       OperandsAdmitted s [(va, ra.tag)] vd d true r → LanesSound s 40 →
       MemberGives (.vqnt g vd va d r) s (elementsDone (s.raise (sig ||| flagIf nan flagNV)) g vd d es (m == .sr)
         (fun e u => if (block (e / 32)).2 then (0, 0)
           else quantElem d ((x e).scale (127 - ((block (e / 32)).1 : Int))) m u)
         fun old => putScales (if old.tag = d && !g.z then old.scale else unitScales) l
           ((blocksOf es).map fun j => (j, (block j).1)))) ∧
     (OperandsAdmitted s [(va, ra.tag)] vd ra.tag false .dyn → LanesSound s 35 →
       MemberGives (.vmov g vd va) s (elementsDone s g vd ra.tag (act [(va, ra.tag)] ra.tag) false
         (fun e _ => (ra.elem l (tagWidth ra.tag) e, 0)) fun old => if tagMx ra.tag then ra.scale else old.scale)) ∧
     (tagMx d = false → OperandsAdmitted s [] vd d false .dyn → LanesSound s 35 →
       MemberGives (.vsplat g vd ss d) s (elementsDone s g vd d (act [] d) false fun _ _ =>
         ((s.src.rs ss).toNat % 2 ^ (if d = .tern then 2 else tagWidth d), 0))) ∧
     (tagInt d = true → OperandsAdmitted s [] vd d false .dyn → LanesSound s 35 →
       MemberGives (.viota g vd ss d sat) s (elementsDone s g vd d (act [] d) false fun e _ =>
         encInt d sat ((if tagSigned d then (s.src.rs ss).toInt else (s.src.rs ss).toNat) + e))))

/-- R62, R58, R121: a vector result with an active element takes its tag, holds the computed bits at the computed positions,
and at the others zero under .z or where the element width changed, else what it held; with none, only .z writes. No other
vector, no scalar register and no predicate changes. R58, R62: a predicate result with an active element holds the computed
bits, and elsewhere zero under .z, else what it held. That what the register held is read where the member reads, so that a
member with chain bit 0 keeps at the other positions the values of before its convoy, is the model's reading
(notes/assumptions/13.md). -/
def Obligations.ResultsMergeByElement : Prop :=
  (∀ (s : State) (g : Gov) (vd : VReg) (t : Tag) (xs : List (Nat × Nat)) (scale : VRegS → BitVec 4096),
     let l := s.hart.lanes
     let w := tagWidth t
     let u := s.writeV g vd t xs scale
     let old := s.src.rv vd
     0 < l → l ≤ 64 → (xs.map Prod.fst).Nodup → (∀ x ∈ xs, x.1 < l * (1024 / w) ∧ x.2 < 2 ^ w) →
     (s.anyActive g = false → g.z = false → u = s) ∧
     (s.anyActive g = true →
       (u.hart.regs.rv vd).tag = t ∧ (∀ x ∈ xs, (u.hart.regs.rv vd).elem l w x.1 = x.2) ∧
       (∀ e, e < l * (1024 / w) → e ∉ xs.map Prod.fst →
         (u.hart.regs.rv vd).elem l w e = if g.z = true ∨ tagWidth old.tag ≠ w then 0 else old.elem l w e)) ∧
     (∀ v, v ≠ vd → u.hart.regs.rv v = s.hart.regs.rv v) ∧ u.hart.regs.s = s.hart.regs.s ∧ u.hart.regs.p = s.hart.regs.p ∧
     u.mem = s.mem) ∧
  (∀ (s : State) (g : Gov) (pd : PReg) (xs : List (Nat × Bool)),
     let u := s.writeP g pd xs
     (xs.map Prod.fst).Nodup → (∀ x ∈ xs, x.1 < 16384) → pd ≠ 0 →
     (s.anyActive g = false → g.z = false → u = s) ∧
     (s.anyActive g = true ∨ g.z = true →
       (∀ x ∈ xs, (u.hart.regs.rp pd).bits.getLsbD x.1 = x.2) ∧
       (∀ e, e ∉ xs.map Prod.fst → (u.hart.regs.rp pd).bits.getLsbD e = (!g.z && (s.src.rp pd).bits.getLsbD e))) ∧
     (∀ p, p ≠ pd → u.hart.regs.rp p = s.hart.regs.rp p) ∧ u.hart.regs.v = s.hart.regs.v ∧ u.hart.regs.s = s.hart.regs.s ∧
     u.mem = s.mem)

/-- R130, R131: VTAG changes a vector's tag and none of its bits, a first MX tag setting every scale to 1.0; VTAGQ gives the
tag, its width and the positions of its grant. R132, R133: the members on predicates give each active element its bit; PSETC
makes every other bit zero. R134 to R136: the first active element with a set bit, how many there are, 64 bits of a predicate
as a word, and eight predicates in one vector, in halves; PUNPACK leaves the other half of each, as the member reads it
(notes/assumptions/13.md), and every other predicate. -/
def Obligations.TagAndPredicateMembers : Prop :=
  (∀ (s : State) (vd va : VReg) (sd : SReg) (t : Tag),
     let old := s.src.rv vd
     let ta := (s.src.rv va).tag
     let w := tagWidth ta
     let x : Word := BitVec.ofNat 64 (tagCode ta + w * 256 + s.hart.lanes * 1024 / w * 65536)
     (FormatsAdmitted s [t] → LanesSound s 35 → MemberAdmitted s (.vtag vd t) → ∃ u : State, exec (.vtag vd t) s = .next u.memberDone ∧
       (u.hart.regs.rv vd).tag = t ∧ (u.hart.regs.rv vd).bits = old.bits ∧ (u.hart.regs.rv vd).segs = old.segs ∧
       (tagMx t = true → tagMx old.tag = false → (u.hart.regs.rv vd).scale = unitScales) ∧
       (tagMx t = false ∨ tagMx old.tag = true → (u.hart.regs.rv vd).scale = old.scale) ∧
       (∀ v, v ≠ vd → u.hart.regs.rv v = s.hart.regs.rv v) ∧ u.hart.regs.s = s.hart.regs.s ∧ u.hart.regs.p = s.hart.regs.p ∧
       u.mem = s.mem) ∧
     (LanesSound s 35 → s.belowLimit sd x = false → MemberGives (.vtagq sd va) s (s.effect (.scalar sd x false)))) ∧
  (∀ (s : State) (g : Gov) (pd pa pb : PReg) (ss : SReg),
     let act := s.actives g []
     let a (e : Nat) := (s.src.rp pa).bits.getLsbD e
     let b (e : Nat) := (s.src.rp pb).bits.getLsbD e
     let gives (i : Instr) (f : Nat → Bool) : Prop := MemberGives i s (s.writeP g pd (act.map fun e => (e, f e)))
     LanesSound s 35 →
     gives (.pand g pd pa pb) (fun e => a e && b e) ∧ gives (.por g pd pa pb) (fun e => a e || b e) ∧
     gives (.pxor g pd pa pb) (fun e => a e != b e) ∧ gives (.pnot g pd pa) (fun e => !a e) ∧
     gives (.pandn g pd pa pb) (fun e => a e && !b e) ∧
     (act = [] → MemberGives (.psetc g pd ss) s s) ∧
     (act ≠ [] → MemberGives (.psetc g pd ss) s
       (s.writeP { g with z := true } pd (act.map fun e => (e, decide (e < (s.src.rs ss).toNat)))))) ∧
  (∀ (s : State) (g : Gov) (sd sk : SReg) (pa : PReg) (vd va : VReg) (q : BitVec 2) (h : Bool) (x : Word),
     let set := (s.actives g []).filter fun e => (s.src.rp pa).bits.getLsbD e
     let half := if h then 128 else 0
     let l := s.hart.lanes
     let nth (q : BitVec 2) (j : Nat) : PReg := BitVec.ofNat 5 (8 * q.toNat + j)
     LanesSound s 35 → LanesSound s 42 →
     (s.anyActive g = true → s.belowLimit sd x = false →
       (x = (match set with | e :: _ => BitVec.ofNat 64 e | [] => BitVec.allOnes 64) →
         MemberGives (.plead g sd pa) s (s.effect (.scalar sd x false))) ∧
       (x = BitVec.ofNat 64 set.length → MemberGives (.pnum g sd pa) s (s.effect (.scalar sd x false)))) ∧
     (s.anyActive g = false → g.z = true → s.belowLimit sd 0 = false →
       MemberGives (.plead g sd pa) s (s.effect (.scalar sd 0 false)) ∧
       MemberGives (.pnum g sd pa) s (s.effect (.scalar sd 0 false))) ∧
     (s.anyActive g = false → g.z = false → MemberGives (.plead g sd pa) s s ∧ MemberGives (.pnum g sd pa) s s) ∧
     (let k := (s.src.rs sk).toNat % 256
      (∀ i, i < 64 → x.getLsbD i = (decide (64 * k + i < 256 * l) && (s.src.rp pa).bits.getLsbD (64 * k + i))) →
       s.belowLimit sd x = false → MemberGives (.pmovs sd pa sk) s (s.effect (.scalar sd x false))) ∧
     (FormatsAdmitted s [.uint64] → l ≤ 64 → MemberAdmitted s (.ppack vd q h) →
       ∃ u : State, exec (.ppack vd q h) s = .next u.memberDone ∧ (u.hart.regs.rv vd).tag = .uint64 ∧
         (u.hart.regs.rv vd).segs = 4 ∧ (∀ v, v ≠ vd → u.hart.regs.rv v = s.hart.regs.rv v) ∧ u.hart.regs.p = s.hart.regs.p ∧
         ∀ i j k, i < l → j < 8 → k < 128 → (u.hart.regs.rv vd).bits.getLsbD (i * 1024 + 128 * j + k) =
           (s.src.rp (nth q j)).bits.getLsbD ((half + k) * l + i)) ∧
     (RegistersSound s [va] → 0 < l → l ≤ 64 → MemberAdmitted s (.punpack q va h) →
       ∃ u : State, exec (.punpack q va h) s = .next u.memberDone ∧ u.hart.regs.v = s.hart.regs.v ∧
         (∀ i j k, i < l → j < 8 → k < 128 → nth q j ≠ 0 →
           (u.hart.regs.rp (nth q j)).bits.getLsbD ((half + k) * l + i) =
             (s.src.rv va).bits.getLsbD (i * 1024 + 128 * j + k)) ∧
         (∀ j m, j < 8 → nth q j ≠ 0 → m < half * l ∨ (half + 128) * l ≤ m →
           (u.hart.regs.rp (nth q j)).bits.getLsbD m = (s.src.rp (nth q j)).bits.getLsbD m) ∧
         (∀ p, (∀ j, j < 8 → p ≠ nth q j) → u.hart.regs.rp p = s.hart.regs.rp p)))

/-- R169 to R172: permutes, slides, broadcast and interleaving give each active element the bits of the position its rule
names when that position is live, and else its own under .keep where the width stays, or zero. R173, R174, R179: VPUT writes
each position with the last active element that names it, marks the elements that lost, and leaves the positions that none
names, or makes them zero under .z or where the width changed; VCOMP packs the active elements
and gives their count; VEXPD spreads them; VEXTS and VINSS read and write one live element. That VEXTS extends e2m1, e4m3 and
e5m2 with zeros is this model's choice (notes/assumptions/99.md). -/
def Obligations.CrossLaneMovesAndSingleElements : Prop :=
  (∀ (s : State) (g : Gov) (vd va vb : VReg) (sk : SReg) (flag keep : Bool),
     let ra := s.src.rv va
     let rb := s.src.rv vb
     let old := s.src.rv vd
     let l := s.hart.lanes
     let t := ra.tag
     let w := tagWidth t
     let n := s.vlenOf w
     let k := (s.src.rs sk).toNat
     let own (e : Nat) : Nat := if keep = true ∧ tagWidth old.tag = w then old.elem l w e else 0
     let from_ (r : VRegS) (j : Int) (e : Nat) : Nat :=
       if 0 ≤ j ∧ j < s.vlenOf (tagWidth r.tag) ∧ s.isActive g j.toNat = true then r.elem l (tagWidth r.tag) j.toNat else own e
     let gives (i : Instr) (reads : List VReg) (f : Nat → Nat) : Prop :=
       OperandsAdmitted s (reads.map fun r => (r, (s.src.rv r).tag)) vd t false .dyn → LanesSound s 41 →
       MemberGives i s (elementsDone s g vd t
         (s.actives g (w :: (reads.map fun r => (r, (s.src.rv r).tag)).map fun x => tagWidth x.2)) false fun e _ => (f e, 0))
     tagMx t = false →
     (tagInt rb.tag = true → gives (.vperm g vd va vb keep) [va, vb] fun e => from_ ra (rb.int l e).1 e) ∧
     gives (.vslu g vd va sk keep) [va] (fun e => from_ ra ((e : Int) - k) e) ∧
     gives (.vsld g vd va sk keep) [va] (fun e => from_ ra ((e : Int) + k) e) ∧
     gives (.vbcast g vd va sk keep) [va] (fun e => from_ ra k e) ∧
     (rb.tag = t → gives (.vzip g vd va vb flag keep) [va, vb]
       fun e => from_ (if e % 2 = 0 then ra else rb) ((e / 2 + (if flag then (n + 1) / 2 else 0) : Nat) : Int) e) ∧
     (rb.tag = t → gives (.vunzip g vd va vb flag keep) [va, vb] fun e =>
       let j := 2 * e + (if flag then 1 else 0)
       if j < n then from_ ra j e else from_ rb ((j : Int) - n) e)) ∧
  (∀ (s : State) (g : Gov) (vd va vb : VReg) (px : PReg) (sd ss sk : SReg) (keep : Bool),
     let ra := s.src.rv va
     let rb := s.src.rv vb
     let old := s.src.rv vd
     let l := s.hart.lanes
     let t := ra.tag
     let w := tagWidth t
     let reads : List (VReg × Tag) := [(va, t), (vb, rb.tag)]
     let act := s.actives g [w, w]
     let two := s.actives g (w :: reads.map fun x => tagWidth x.2)
     let at_ (e : Nat) : Int := (rb.int l e).1
     let n := Nat.min s.hart.regs.vlen s.hart.regs.ftrim.toNat
     let placed (e : Nat) : Prop := 0 ≤ at_ e ∧ at_ e < n
     let beaten (e : Nat) : Prop := ∃ d ∈ two, e < d ∧ at_ d = at_ e
     let count : Word := BitVec.ofNat 64 act.length
     let k := (s.src.rs sk).toNat
     let live (w : Nat) : Prop := k < s.vlenOf w ∧ s.isActive g k = true
     tagMx t = false → tagMx old.tag = false →
     (tagInt rb.tag = true → OperandsAdmitted s reads vd t false .dyn → LanesSound s 41 → MemberAdmitted s (.vput g vd va vb px) →
       two ≠ [] → 0 < l → l ≤ 64 → ∃ u : State, exec (.vput g vd va vb px) s = .next u.memberDone ∧ (u.hart.regs.rv vd).tag = t ∧
         (∀ e ∈ two, placed e → (at_ e).toNat < l * (1024 / w) → ¬ beaten e → (u.hart.regs.rv vd).elem l w (at_ e).toNat = ra.elem l w e) ∧
         (∀ j, j < l * (1024 / w) → (∀ e ∈ two, placed e → (at_ e).toNat ≠ j) →
           (u.hart.regs.rv vd).elem l w j = if g.z = true ∨ tagWidth old.tag ≠ w then 0 else old.elem l w j) ∧
         (px ≠ 0 → ∀ e, e < 16384 → ((u.hart.regs.rp px).bits.getLsbD e = true ↔ e ∈ two ∧ placed e ∧ beaten e)) ∧
         (∀ v, v ≠ vd → u.hart.regs.rv v = s.hart.regs.rv v) ∧ (∀ p, p ≠ px → u.hart.regs.rp p = s.hart.regs.rp p)) ∧
     (OperandsAdmitted s [(va, t)] vd t false .dyn → LanesSound s 41 →
       (sd = 0 ∨ act = [] → MemberGives (.vcomp g vd va sd) s
         (s.writeV g vd t (act.mapIdx fun k e => (k, ra.elem l w e)) keepScales)) ∧
       (sd ≠ 0 → act ≠ [] → s.belowLimit sd count = false → MemberGives (.vcomp g vd va sd) s
         ((s.effect (.scalar sd count false)).writeV g vd t (act.mapIdx fun k e => (k, ra.elem l w e)) keepScales)) ∧
       MemberGives (.vexpd g vd va) s (s.writeV g vd t (act.mapIdx fun k e => (e, ra.elem l w k)) keepScales)) ∧
     (FormatsAdmitted s [t] → LengthsFit s [(va, w)] → RegistersSound s [va] → LanesSound s 41 →
       (s.anyActive g = true → live w → s.belowLimit sd (scalarOf t (ra.elem l w k)) = false →
         MemberGives (.vexts g sd va sk keep) s (s.effect (.scalar sd (scalarOf t (ra.elem l w k)) false))) ∧
       (s.anyActive g = true → ¬ live w → keep = false → s.belowLimit sd 0 = false →
         MemberGives (.vexts g sd va sk keep) s (s.effect (.scalar sd 0 false))) ∧
       (s.anyActive g = false ∨ ¬ live w ∧ keep = true → MemberGives (.vexts g sd va sk keep) s s)) ∧
     (FormatsAdmitted s [old.tag] → LengthsFit s [(vd, tagWidth old.tag)] → LanesSound s 41 →
       (¬ live (tagWidth old.tag) → MemberGives (.vinss g vd ss sk) s s) ∧
       (live (tagWidth old.tag) → 0 < l → l ≤ 64 → k < l * (1024 / tagWidth old.tag) → MemberAdmitted s (.vinss g vd ss sk) →
         ∃ u : State, exec (.vinss g vd ss sk) s = .next u.memberDone ∧ (u.hart.regs.rv vd).tag = old.tag ∧
           (u.hart.regs.rv vd).elem l (tagWidth old.tag) k =
             (s.src.rs ss).toNat % 2 ^ (if old.tag = .tern then 2 else tagWidth old.tag) ∧
           (∀ e, e < l * (1024 / tagWidth old.tag) → e ≠ k →
             (u.hart.regs.rv vd).elem l (tagWidth old.tag) e = old.elem l (tagWidth old.tag) e) ∧
           (∀ v, v ≠ vd → u.hart.regs.rv v = s.hart.regs.rv v))))

/-- R175 to R178: VRED combines the active elements in the accumulation tag, in a chain from element 0 of vb when ordered and
else in the tree of R63, into element 0 of a zeroed vector and a scalar; VSCAN gives every active element the combination up
to it; VCONF marks the first active element of each value and counts them. That a scalar result in e2m1, e4m3 or e5m2 is
extended with zeros is this model's choice (notes/assumptions/99.md). -/
def Obligations.ReductionsAndScans : Prop :=
  ∀ (s : State) (g : Gov) (op : RedOp) (ord sat ex : Bool) (r : Rnd) (vd va vb : VReg) (pd : PReg) (sd : SReg) (a : Tag),
    let ra := s.src.rv va
    let rb := s.src.rv vb
    let l := s.hart.lanes
    let t := ra.tag
    let w := tagWidth t
    let act := s.actives g [w]
    let m := roundingOf s (redRounds op a) r
    let draws := redRounds op a && m == .sr
    let f := combine s.ctl op a sat m
    let input (e : Nat) := intoAcc s.ctl a ra l e
    let start : Steps := { rngs := s.hart.regs.rngs, flags := act.foldl (fun f e => f ||| (input e).2) 0 }
    let d := passesOf s.hart.regs.vlen
    let res : Nat × Steps :=
      if ord then chainFold draws f (act.map fun e => (input e).1) (rb.elem l (tagWidth a) 0) start
      else
        let x := tree draws f d ((List.range (2 ^ d)).map fun e => if s.isActive g e then some (input e).1 else none) start
        (x.1.getD 0, x.2)
    let wrote (s : State) : State := ((s.raise res.2.flags).modRegs fun r => { r with rngs := res.2.rngs }).modRegs fun r =>
      r.wv vd { (s.src.rv vd) with bits := BitVec.ofNat 65536 res.1, tag := a, segs := 1, dirty := true }
    let admitted : Prop := accTag op t = some a ∧ FormatsAdmitted s (t :: (if ord then [rb.tag] else []) ++ [a]) ∧
      RoundingGiven s (redRounds op a) r ∧ LengthsFit s [(va, w)] ∧ RegistersSound s (va :: (if ord then [vb] else [])) ∧
      LanesSound s 42 ∧ (ord = true → rb.tag = a)
    (admitted → act = [] → MemberGives (.vred g op ord sat r vd va vb sd) s s) ∧
    (admitted → act ≠ [] → sd = 0 → MemberGives (.vred g op ord sat r vd va vb sd) s (wrote s)) ∧
    (admitted → act ≠ [] → sd ≠ 0 → s.belowLimit sd (scalarOf a res.1) = false →
      MemberGives (.vred g op ord sat r vd va vb sd) s (wrote (s.effect (.scalar sd (scalarOf a res.1) false)))) ∧
    (let act := s.actives g [tagWidth a, w]
     let start : Steps := { rngs := s.hart.regs.rngs, flags := act.foldl (fun f e => f ||| (input e).2) 0 }
     let values := act.map fun e => (e, (input e).1)
     let res := if ex then scanEx draws f (identity op a) none values start else scanIn draws f none values start
     accTag op t = some a → OperandsAdmitted s [(va, t)] vd a (redRounds op a) r → LanesSound s 42 →
      MemberGives (.vscan g op ex sat r vd va) s
        (((s.raise res.2.flags).modRegs fun r => { r with rngs := res.2.rngs }).writeV g vd a res.1 keepScales)) ∧
    (let first (e : Nat) : Bool := decide (∀ c ∈ act, c < e → ra.elem l w c ≠ ra.elem l w e)
     let count : Word := BitVec.ofNat 64 (act.filter first).length
     let marks := act.map fun e => (e, first e)
     tagMx t = false → FormatsAdmitted s [t] → LengthsFit s [(va, w)] → RegistersSound s [va] → LanesSound s 42 →
      (sd = 0 ∨ act = [] → MemberGives (.vconf g pd va sd) s (s.writeP g pd marks)) ∧
      (sd ≠ 0 → act ≠ [] → s.belowLimit sd count = false →
        MemberGives (.vconf g pd va sd) s ((s.effect (.scalar sd count false)).writeP g pd marks)))

/-- R280, R282, R283, R285: a load probes its active elements in order. With none failing it reads them in the view of its
hart and writes them under the tag of vd; a failure traps, but under .ff one above the lowest active element sets FTRIM to its
element and loads those below. R284: under .ck the active elements are those below VLEN and FTRIM all of whose bytes lie in chunks with a set bit;
their sectors are refreshed to the keys of their chunks, and the floor rises to the largest when the convoy retires. -/
def Obligations.VectorLoadsReadTheirView : Prop :=
  (∀ (s v : State) (g : Gov) (vd vi : VReg) (off : BitVec 8) (sb sc : SReg) (ff : Bool) (e : Nat) (c : Nat) (x : Word),
     let t := (s.src.rv vd).tag
     let w := tagWidth t
     let values (v : State) (good : List (Item × Nat × Bool)) : List (Nat × Nat) :=
       (good.filter fun x => x.1.blk.isNone).map fun x => (x.1.e, elemOf w x.1.e (v.viewN x.2.1 x.1.size))
     let scales (v : State) (good : List (Item × Nat × Bool)) (r : VRegS) : BitVec 4096 :=
       (good.filterMap fun x => x.1.blk.map fun j => (j, v.viewN x.2.1 1)).foldl
         (fun b x => putBits b (scalePos v.hart.lanes x.1) 8 x.2) r.scale
     let loads (i : Instr) (cls : Nat) (f : Form) (mx : Option Word) : Prop :=
       let act := s.vmActives g w f
       let pr := probe s .read (s.items f w mx (act.map fun e => (e, s.elemAddr f (s.vbase sb off) w e))) s.walks
       let below := pr.good.filter fun x => decide (x.1.e < e)
       let found := s.probed pr
       let trimmed := found.modRegs fun r => { r with ftrim := BitVec.ofNat 16 e }
       (∀ r ∈ f.vi, tagInt (s.src.rv r).tag = true) → RegistersSound s f.vi → LanesSound s cls →
       LengthsFit s ((vd, w) :: f.vi.map fun x => (x, tagWidth (s.src.rv x).tag)) →
       (pr.bad = none → found.ensureAll (found.itemSectors pr.good) = .ok v →
         MemberGives i s (v.writeVAny (s.anyActive g) g vd t (values v pr.good) (scales v pr.good))) ∧
       (pr.bad = some (e, c, x) → c ≠ heldCode → ff = false ∨ c = 0x0E ∨ act.head? = some e → MemberAdmitted s i →
         exec i s = .next ((s.setTlb pr.walks).takeTrap c x s.hart.pc)) ∧
       (pr.bad = some (e, c, x) → c ≠ heldCode → ff = true → c ≠ 0x0E → act.head? ≠ some e →
         trimmed.ensureAll (trimmed.itemSectors below) = .ok v →
         MemberGives i s (v.writeVAny (trimmed.anyActive g) g vd t (values v below) (scales v below)))
     (loads (.vld g vd off sb sc ff false) 43 .unit (if tagMx t && !(sc == 0) then some (s.src.rs sc) else none)) ∧
     (tagMx t = false → w ≠ 4 → loads (.vlds g vd off sb sc ff false) 43 (.strided (s.src.rs sc)) none) ∧
     (tagMx t = false → w ≠ 4 → loads (.vldx g vd off sb vi ff false) 44 (.indexed vi) none)) ∧
  (∀ (s v : State) (g : Gov) (vd vi : VReg) (off : BitVec 8) (sb sc : SReg) (ff : Bool),
     let t := (s.src.rv vd).tag
     let w := tagWidth t
     let loads (i : Instr) (cls : Nat) (f : Form) (mx : Option Word) : Prop :=
       let cs := s.chunkActives g w f (s.vbase sb off)
       let act := cs.map Prod.fst
       let pr := probe s .read (s.items f w mx (act.map fun e => (e, s.elemAddr f (s.vbase sb off) w e))) s.walks
       let refreshed := (s.probed pr).chunkRefresh g pr.good
       (∀ r ∈ f.vi, tagInt (s.src.rv r).tag = true) → RegistersSound s f.vi → LanesSound s cls →
       LengthsFit s ((vd, w) :: f.vi.map fun x => (x, tagWidth (s.src.rv x).tag)) →
       pr.bad = none → refreshed.finishLoad (!act.isEmpty) g vd t pr.good = .ok v →
       MemberGives i s (if act.isEmpty then v else v.effect (.raise (v.chunkTop g pr.good)))
     (loads (.vld g vd off sb sc ff true) 43 .unit (if tagMx t && !(sc == 0) then some (s.src.rs sc) else none)) ∧
     (tagMx t = false → w ≠ 4 → loads (.vlds g vd off sb sc ff true) 43 (.strided (s.src.rs sc)) none) ∧
     (tagMx t = false → w ≠ 4 → loads (.vldx g vd off sb vi ff true) 44 (.indexed vi) none) ∧
     (∀ (f : Form) (e : Nat) (ch : List Nat), (e, ch) ∈ s.chunkActives g w f (s.vbase sb off) →
       ∃ b, (s.src.rp g.pred).bind = some b ∧ ∀ j, j < elemBytes w →
         ∃ k ∈ ch, b.chunk s.hart.lanes (s.elemAddr f (s.vbase sb off) w e + BitVec.ofNat 64 j) = some k ∧
           (s.src.rp g.pred).bits.getLsbD k = true) ∧
     (∀ (f : Form) (e : Nat) (b : Binding), (s.src.rp g.pred).bind = some b →
       e < s.hart.regs.vlen → e < s.hart.regs.ftrim.toNat → e < 16384 →
       (s.hart.regs.mode = true → ∀ x ∈ w :: f.vi.map (fun x => tagWidth (s.src.rv x).tag), e < s.positions x) →
       (∀ j, j < elemBytes w → ∃ k,
         b.chunk s.hart.lanes (s.elemAddr f (s.vbase sb off) w e + BitVec.ofNat 64 j) = some k ∧
           (s.src.rp g.pred).bits.getLsbD k = true) →
       ∃ ch, (e, ch) ∈ s.chunkActives g w f (s.vbase sb off)))

/-- R280, R282, R286: a store probes its active elements in order; with none failing it stages the bytes of each at the
address of its rule when the convoy retires, and a failure traps with nothing staged. R282: an element that a probe reached is
aligned, outside the private window, and translates under its own domain with the permission of its access; the first element
that fails one of these ends the probe with the code and the value of its trap. R287, R288, R292, R293: prefetches ask for the
sectors that translate; the scratchpad is read and written in the slices of the lanes, a misaligned offset trapping and one
past the slice faulting; home loads and operations send one request for each active element when the convoy retires, and a
home load writes what returns. That a four-bit element of a slot form takes the low nibble of its byte from the slot of the
even turn of its lane and the high one from the odd turn is the model's reading (notes/assumptions/19.md). -/
def Obligations.VectorStoresProbesAndScratchpad : Prop :=
  (∀ (s : State) (g : Gov) (va vi : VReg) (off : BitVec 8) (sb sc : SReg) (e c : Nat) (x : Word),
     let r := s.src.rv va
     let w := tagWidth r.tag
     let stores (i : Instr) (cls : Nat) (f : Form) (mx : Option Word) : Prop :=
       let act := s.vmActives g w f
       let pr := probe s .write (s.items f w mx (act.map fun e => (e, s.elemAddr f (s.vbase sb off) w e))) s.walks
       (∀ r ∈ f.vi, tagInt (s.src.rv r).tag = true) → RegistersSound s (va :: f.vi) → LanesSound s cls →
       LengthsFit s ((va, w) :: f.vi.map fun x => (x, tagWidth (s.src.rv x).tag)) →
       (pr.bad = none → MemberGives i s
         ((pr.good.flatMap (s.storeOf r w)).foldl (fun s x => s.effect (.store x.1 x.2)) (s.probed pr))) ∧
       (pr.bad = some (e, c, x) → c ≠ heldCode → MemberAdmitted s i →
         exec i s = .next ((s.setTlb pr.walks).takeTrap c x s.hart.pc))
     stores (.vst g va off sb sc) 43 .unit (if tagMx r.tag && !(sc == 0) then some (s.src.rs sc) else none) ∧
     (tagMx r.tag = false → w ≠ 4 → stores (.vsts g va off sb sc) 43 (.strided (s.src.rs sc)) none) ∧
     (tagMx r.tag = false → w ≠ 4 → stores (.vstx g va off sb vi) 44 (.indexed vi) none)) ∧
  (∀ (s : State) (k : Access) (items : List Item) (walks : Walks),
     let pr := probe s k items walks
     (∀ x ∈ pr.good, x.1 ∈ items ∧ x.1.addr.toNat % x.1.size = 0 ∧ inWindow x.1.addr.toNat = false ∧
       (s.walkedTo x.1.addr = some x.2 ∨
         ∃ t t', translate s s.stk t x.1.bank s.hart.domain.toNat k x.1.addr = (.ok x.2, t'))) ∧
     (pr.bad = none → pr.good.map Prod.fst = items) ∧
     (∀ e c v, pr.bad = some (e, c, v) → ∃ l m r, items = l ++ m :: r ∧ pr.good.map Prod.fst = l ∧ m.e = e ∧
       ((m.addr.toNat % m.size ≠ 0 ∧ c = 0x0B ∧ v = m.addr) ∨
        (m.addr.toNat % m.size = 0 ∧ inWindow m.addr.toNat = true ∧ c = 0x0C ∧ v = m.addr) ∨
        (m.addr.toNat % m.size = 0 ∧ inWindow m.addr.toNat = false ∧ ∃ f t t',
          translate s s.stk t m.bank s.hart.domain.toNat k m.addr = (.error f, t') ∧ c = f.code k ∧ v = f.val m.addr)))) ∧
  (∀ (s : State) (g : Gov) (vd vi : VReg) (off : BitVec 8) (sb sn : SReg) (acq : Bool) (op : VAmoOp) (ord : Order) (fn : HomeFn)
       (key : Key) (xs : List Word),
     let r := s.src.rv vd
     let t := r.tag
     let w := tagWidth t
     let l := s.hart.lanes
     let b := s.vbase sb off
     let f := scratchForm vi
     let at_ (f : Form) : List (Nat × Word) := (s.vmActives g w f).map fun e => (e, s.elemAddr f b w e)
     let fits (f : Form) : Prop := (∀ v ∈ f.vi, tagInt (s.src.rv v).tag = true) ∧
       LengthsFit s ((vd, w) :: f.vi.map fun x => (x, tagWidth (s.src.rv x).tag))
     let slice (x : Nat × Word) : Nat := 16384 * s.hart.regs.physLane (x.1 % l) + x.2.toNat
     let inside : Prop := ∀ x ∈ at_ f, x.2.toNat % elemBytes w = 0 ∧ x.2.toNat + elemBytes w ≤ 16384
     let pr (k : Access) := probe s k (s.items (.indexed vi) w none (at_ (.indexed vi))) s.walks
     (∀ as : List Ahead,
       (∀ n, n < as.length → as[n]? = some
         ⟨s.hart.slotNo, s.hart.gangKey, s.hart.domain.toNat, s.elemBank .unit 0, BitVec.ofNat 64 ((b.toNat / 64 + n) * 64)⟩) →
       (let len := Nat.min (s.src.rs sn).toNat 65536
        as.length = if len = 0 then 0 else (b.toNat + len - 1) / 64 - b.toNat / 64 + 1) →
       MemberGives (.vpf off sb sn) s (s.effect (.fetch as))) ∧
     (tagMx t = false → (vi = 0 ∨ w ≠ 4) → fits f → LanesSound s 45 →
       (inside → RegistersSound s f.vi → MemberGives (.vlsx g vd off sb vi) s
         (s.writeV g vd t ((at_ f).map fun x =>
           (x.1, elemOf w (x.1 / l) (privRead s.hart.regs.scratch (slice x) (elemBytes w)))) keepScales)) ∧
       (let pair (e : Nat) : Nat := e / l / 2 * 2 * l + e % l
        let value (e : Nat) : Nat := if w = 4 then r.elem l 4 (pair e) + 16 * r.elem l 4 (pair e + l) else r.elem l w e
        inside → RegistersSound s (vd :: f.vi) → MemberAdmitted s (.vssx g vd off sb vi) →
         ∃ u : State, exec (.vssx g vd off sb vi) s = .next u.memberDone ∧
           u.hart.regs.scratch = (at_ f).foldl (fun m x => privWrite m (slice x) (elemBytes w) (value x.1)) s.hart.regs.scratch ∧
           u.hart.regs.v = s.hart.regs.v ∧ u.hart.regs.s = s.hart.regs.s ∧ u.mem = s.mem) ∧
       (∀ x ∈ at_ f, (∀ y ∈ at_ f, y.1 < x.1 → y.2.toNat % elemBytes w = 0 ∧ y.2.toNat + elemBytes w ≤ 16384) →
         RegistersSound s (vd :: f.vi) →
         (x.2.toNat % elemBytes w ≠ 0 → ∀ i, (i = .vlsx g vd off sb vi ∨ i = .vssx g vd off sb vi) → MemberAdmitted s i →
           exec i s = .next (s.takeTrap 0x0B x.2 s.hart.pc)) ∧
         (x.2.toNat % elemBytes w = 0 → 16384 < x.2.toNat + elemBytes w →
           ∀ i, (i = .vlsx g vd off sb vi ∨ i = .vssx g vd off sb vi) → MemberAdmitted s i →
           exec i s = .next (s.takeTrap 0x0C x.2 s.hart.pc)))) ∧
     (tagMx t = false → w ≠ 4 → fits (.indexed vi) → RegistersSound s [vi] →
       (s.hart.phase = .run → LanesSound s 46 → (pr .read).bad = none → MemberGives (.vldh g vd off sb vi acq) s
         ((s.probed (pr .read)).effect (.home ((pr .read).good.map fun x =>
           { idx := x.1.e, addr := x.2.1, size := w / 8, fn := .read }) acq false true))) ∧
       (s.hart.phase = .returned key xs → MemberGives (.vldh g vd off sb vi acq) s
         (let u := s.writeV g vd t ((s.vmActives g w (.indexed vi)).map fun e =>
           (e, (s.hart.results.look e 0).toNat % 2 ^ w)) keepScales
          if acq then u.effect (.acquire key) else u)) ∧
       (VAmoOp.fn op t = some fn → RegistersSound s [vd] → LanesSound s 46 → (pr .rw).bad = none →
         MemberGives (.vamo g op ord vd off sb vi) s
           ((s.probed (pr .rw)).effect (.home ((pr .rw).good.map fun x =>
             { idx := noReply + x.1.e, addr := x.2.1, size := w / 8, fn := fn, y := BitVec.ofNat 64 (r.elem l w x.1.e) })
             (Order.acq ord) (Order.rel ord) false)))))

/-! ## Matrix, bank and copy members -/

/-- R190, R194, R197: TSHAPE sets the shape within the bounds of the grant and of its format, and gives it; MXZERO zeroes a
tile and makes it sound; MXPERT arms MXPCMD, and a bit that must be zero makes it illegal. R195, R196: MXEXT converts
64 / width(D) rows of a tile into a vector and MXINS writes two rows from one, at the active elements inside the shape. R185: an MXEXT that reads
an element of an uncorrectable row slice takes a register-error trap that names the tile. -/
def Obligations.TileControlAndRows : Prop :=
  (∀ (s : State) (sd sm sn sk sa : SReg) (f : Tag) (acc : BitVec 2),
     let l := s.hart.lanes
     let m := Nat.min (Nat.max (s.src.rs sm).toNat 1) (Nat.min 32 (2 * l))
     let n := Nat.min (Nat.max (s.src.rs sn).toNat 1) (16 * l)
     let k := Nat.min (Nat.max (8 * (((s.src.rs sk).toNat + 7) / 8)) 8) (kmax f)
     let u := s.modRegs fun r => { r with tshm := m, tshn := n, tshk := k }
     let shape : Word := BitVec.ofNat 64 (m + n * 2 ^ 16 + k * 2 ^ 32)
     let x := s.src.rs sa
     (FormatsAdmitted s [f] →
       (sd = 0 → MemberGives (.tshape sd sm sn sk f) s u) ∧
       (sd ≠ 0 → u.belowLimit sd shape = false → MemberGives (.tshape sd sm sn sk f) s (u.effect (.scalar sd shape false)))) ∧
     (MemberAdmitted s (.mxzero acc) → ∃ u : State, exec (.mxzero acc) s = .next u.memberDone ∧
       (∀ i j, u.hart.regs.tileElem acc i j = 0 ∧ (acc, i, j) ∉ u.hart.regs.badAcc) ∧
       (∀ b, b ≠ acc → u.hart.regs.tile b = s.hart.regs.tile b ∧
         ∀ i j, (b, i, j) ∈ u.hart.regs.badAcc ↔ (b, i, j) ∈ s.hart.regs.badAcc) ∧
       u.hart.regs.v = s.hart.regs.v ∧ u.hart.regs.s = s.hart.regs.s ∧ u.mem = s.mem) ∧
     (x &&& ~~~mxpMask = 0 → MemberGives (.mxpert sa) s (s.modRegs fun r => { r with mxpcmd := x })) ∧
     (x &&& ~~~mxpMask ≠ 0 → MemberAdmitted s (.mxpert sa) →
       exec (.mxpert sa) s = .next (s.takeTrap 0x10 (s.hart.memberAddr s.hart.cv.idx) s.hart.pc))) ∧
  (∀ (s : State) (g : Gov) (vd va : VReg) (acc : BitVec 2) (sr : SReg) (d : Tag) (int sat : Bool) (r : Rnd),
     let q := s.hart.regs
     let c := 16 * s.hart.lanes
     let base := (s.src.rs sr).toNat
     let src : Tag := if int then .int32 else .fp32
     let a := s.src.rv va
     let inside (e : Nat) : Bool := decide (base + e / c < q.tshm) && decide (e % c < q.tshn)
     let rounds := !int || tagFloat d
     let m := roundingOf s rounds r
     let out := (s.actives g [tagWidth d]).filter inside
     let x := runElems (m == .sr && rounds) (fun e u => extElem s.ctl int sat d m (q.tileElem acc (base + e / c) (e % c)) u) out q.rngs
     let rows := (s.activeBelow g (2 * c)).filter inside
     let damaged (e : Nat) : Prop := (acc, base + e / c, e % c % s.hart.lanes) ∈ q.badAcc
     (extTag int d = true → FormatsAdmitted s [src, d] → RoundingGiven s rounds r → LanesSound s 47 →
       ((∀ e ∈ out, ¬ damaged e) → MemberGives (.mxext g vd acc sr d int sat r) s
         (((s.raise x.2.1).modRegs fun r => { r with rngs := x.2.2 }).writeV g vd d x.1 keepScales)) ∧
       ((∃ e ∈ out, damaged e) → MemberAdmitted s (.mxext g vd acc sr d int sat r) →
         exec (.mxext g vd acc sr d int sat r) s = .next (s.takeTrap 0x1A (BitVec.ofNat 64 (64 + acc.toNat)) s.hart.pc))) ∧
     (a.tag = .fp32 ∨ a.tag = .int32 ∨ a.tag = .uint32 → FormatsAdmitted s [a.tag] → RegistersSound s [va] →
       LanesSound s 47 → MemberAdmitted s (.mxins g acc va sr) → q.tshm ≤ 32 → q.tshn ≤ 1024 → c ≤ 1024 →
       ∃ u : State, exec (.mxins g acc va sr) s = .next u.memberDone ∧
         (∀ e ∈ rows, u.hart.regs.tileElem acc (base + e / c) (e % c) = a.elem s.hart.lanes 32 e) ∧
         (∀ i j, i < 32 → j < 1024 → (∀ e ∈ rows, ¬ (base + e / c = i ∧ e % c = j)) →
           u.hart.regs.tileElem acc i j = q.tileElem acc i j) ∧
         (∀ b, b ≠ acc → u.hart.regs.tile b = q.tile b) ∧ u.hart.regs.v = q.v ∧ u.hart.regs.s = q.s ∧ u.mem = s.mem))

/-- R65, R192, R193: MMA and MMAS add to every element of the shape in an active column the groups of eight products of its row of
A and its column of B, in order, and raise among the convoy's flags the flags of all of them and no others; another pair of tags,
a tag of vb to vb + 7 that differs from vb's, which the trap names, or a TSHK above Kmax is a type trap. R185: one that reads an
element of an uncorrectable row slice takes a register-error trap that names the tile. R198, R200: an armed MXPCMD is used up;
its value is added to its element in the working lane, with no flag, and stands there unless the lane is under check and the
result differs: then the lane computes again without it and CHKMISC counts one. -/
def Obligations.MatrixMultiplyAccumulates : Prop :=
  ∀ (s : State) (g : Gov) (acc : BitVec 2) (va vb : VReg) (int : Bool) (t : Tag),
    let a := s.src.rv va
    let bs := (eight vb).map s.src.rv
    let r := s.hart.regs
    let js := (List.range r.tshn).filter fun j => s.isActive g j
    let damaged : Prop := ∃ m, m < r.tshm ∧ ∃ j ∈ js, (acc, m, j % r.lanes) ∈ r.badAcc
    let multiplies (i : Instr) (cls : Nat) (pair : Tag → Tag → Option Bool) : Prop :=
      (∀ b ∈ bs, b.tag = t) → FormatsAdmitted s [a.tag, t, if int then .int32 else .fp32] →
      RegistersSound s (va :: eight vb) → LanesSound s cls → r.tshk ≤ kmax a.tag → pair a.tag t = some int →
      (damaged → MemberAdmitted s i → exec i s = .next (s.takeTrap 0x1A (BitVec.ofNat 64 (64 + acc.toNat)) s.hart.pc)) ∧
      (¬ damaged → s.anyActive g = false → MemberGives i s s) ∧
      (¬ damaged → s.anyActive g = true → r.mxpcmd.getLsbD 0 = false → r.tshm ≤ 32 → r.tshn ≤ 1024 → MemberAdmitted s i →
        ∃ u : State, exec i s = .next u.memberDone ∧
          (∀ m j, m < r.tshm → j ∈ js → u.hart.regs.tileElem acc m j =
            (mmaElem a bs s.hart.lanes m j (r.tshk / 8) int (cls == 48) (r.tileElem acc m j)).1 % 2 ^ 32) ∧
          (∀ m j, m < 32 → j < 1024 → (r.tshm ≤ m ∨ j ∉ js) → u.hart.regs.tileElem acc m j = r.tileElem acc m j) ∧
          (∀ f, u.hart.cv.flags.getLsbD f = true ↔ s.hart.cv.flags.getLsbD f = true ∨ ∃ m j, m < r.tshm ∧ j ∈ js ∧
            (mmaElem a bs s.hart.lanes m j (r.tshk / 8) int (cls == 48) (r.tileElem acc m j)).2.getLsbD f = true) ∧
          (∀ b, b ≠ acc → u.hart.regs.tile b = r.tile b) ∧ u.hart.regs.v = r.v ∧ u.hart.regs.s = r.s ∧ u.mem = s.mem) ∧
      (¬ damaged → s.anyActive g = true → r.mxpcmd.getLsbD 0 = true → s.hart.cv.idx ∉ s.hart.att.perturbed →
        r.tshm ≤ 32 → r.tshn ≤ 1024 → MemberAdmitted s i →
        let out (m j : Nat) : Nat := (mmaElem a bs s.hart.lanes m j (r.tshk / 8) int (cls == 48) (r.tileElem acc m j)).1
        let i0 := r.mxpcmd.toNat / 64 % 32
        let j0 := r.mxpcmd.toNat / 65536 % 2048
        let new := perturb int (out i0 j0) (r.mxpcmd.toNat / 2 ^ 32)
        let hit : Prop := i0 < r.tshm ∧ j0 ∈ js
        let seen : Prop := hit ∧ new ≠ out i0 j0 ∧ r.physLane (j0 % r.lanes) % 4 = s.hart.cseq.toNat % 4
        let n := (s.core s.hart.core).chkmisc
        ∃ u : State, exec i s = .next u.memberDone ∧ u.hart.regs.mxpcmd = r.mxpcmd &&& ~~~1 ∧
          (hit → u.hart.regs.tileElem acc i0 j0 = (if new ≠ out i0 j0 ∧ r.physLane (j0 % r.lanes) % 4 = s.hart.cseq.toNat % 4
            then out i0 j0 else new) % 2 ^ 32) ∧
          (seen → (u.core s.hart.core).chkmisc = if n = BitVec.allOnes 32 then n else n + 1) ∧
          (¬ seen → (u.core s.hart.core).chkmisc = n) ∧
          (∀ m j, m < r.tshm → j ∈ js → ¬ (m = i0 ∧ j = j0) → u.hart.regs.tileElem acc m j = out m j % 2 ^ 32) ∧
          (∀ m j, m < 32 → j < 1024 → (r.tshm ≤ m ∨ j ∉ js) → u.hart.regs.tileElem acc m j = r.tileElem acc m j) ∧
          (∀ f, u.hart.cv.flags.getLsbD f = true ↔ s.hart.cv.flags.getLsbD f = true ∨ ∃ m j, m < r.tshm ∧ j ∈ js ∧
            (mmaElem a bs s.hart.lanes m j (r.tshk / 8) int (cls == 48) (r.tileElem acc m j)).2.getLsbD f = true) ∧
          (∀ b, b ≠ acc → u.hart.regs.tile b = r.tile b) ∧ u.hart.regs.v = r.v ∧ u.hart.regs.s = r.s ∧ u.mem = s.mem)
    let mismatched (i : Instr) (pair : Tag → Tag → Option Bool) : Prop :=
      let trap (x : Tag) : Prop := MemberAdmitted s i →
        exec i s = .next (s.takeTrap 0x15 (s.mismatch (tagCode a.tag) (tagCode x) 0x1F) s.hart.pc)
      ((∀ b ∈ bs, b.tag = t) → pair a.tag t = none ∨ kmax a.tag < r.tshk → trap t) ∧
      (∀ b, bs.find? (fun b => !(b.tag == (s.src.rv vb).tag)) = some b → trap b.tag)
    multiplies (.mma g acc va vb) 47 mmaPair ∧ multiplies (.mmas g acc va vb) 48 mmasPair ∧
    mismatched (.mma g acc va vb) mmaPair ∧ mismatched (.mmas g acc va vb) mmasPair

/-- R318, R319, R326 to R331: a member on whole planes none of whose conditions fails is sent to its stack's banks when the
convoy retires, with its planes and its scalar operand as they are sampled; else the lowest failing reason is a bank fault, and
the one that reports a torn row clears the notice. R320 to R323, R331: grants, allocations, descriptors and locks pass their
checks and act at the commit point, or the descriptor at once; BWAIT waits for the bank members outstanding, then gives the
status word and clears it. R324, R325, R331: transfers between memory, vectors and planes are sent with their elements when
their checks pass; BSETL, BTOV and BRED are sent when the convoy is first at its commit point, and write what returns (R315:
nothing when the member ended without effect). That BTOV's register reads as zeros until then, and that the range of BLDP and
BSTP is checked before alignment and translation, is this model's choice (notes/assumptions/90.md), and so is that BWAIT
takes the bank fault of a torn notice when it is issued (notes/assumptions/17.md), that BALLOC with sb = 0 is exempt from the
condition on one group alone, and still asks that sa be at most 3,072 (notes/assumptions/106.md), and that every source plane is disjoint from the destination or coincides with it
(notes/assumptions/108.md). -/
def Obligations.PlaneAndBankMembers : Prop :=
  (∀ (s : State) (d a b c : BReg) (x : SReg) (k : BitVec 5) (col sgn sat : Bool) (cond : BCond) (n : Nat),
     let r := s.src.rb
     let w (q : BReg) : Nat := planeWidth (r q)
     let sends (i : Instr) (dst : Option BReg) (srcs writes : List BReg) (mul rule : Bool) (cmd : BankCmd) : Prop :=
       Checked s i (s.planeFaults (dst.map r) (srcs.map r) (writes.map r) mul rule [] false false false) n True
         (s.effect (.bank cmd false))
     let unary (i : Instr) : Prop := sends i (some d) [a] [d] false (w a == w d) { s.bankCmd i with d := r d, a := r a }
     let binary (i : Instr) : Prop :=
       sends i (some d) [a, b] [d] false (w a == w d && w b == w d) { s.bankCmd i with d := r d, a := r a, b := r b }
     unary (.bnot d a) ∧ unary (.bshl d a k col) ∧ unary (.bshr d a k col sgn) ∧
     binary (.band d a b) ∧ binary (.bor d a b) ∧ binary (.bxor d a b) ∧ binary (.badd d a b sgn sat) ∧ binary (.bsub d a b sgn sat) ∧
     sends (.bmaj d a b c) (some d) [a, b, c] [d] false (w a == w d && w b == w d && w c == w d)
       { s.bankCmd (.bmaj d a b c) with d := r d, a := r a, b := r b, c := r c } ∧
     sends (.bsel d a b c) (some d) [a, b, c] [d] false (w a == w d && w b == w d && w c == 1)
       { s.bankCmd (.bsel d a b c) with d := r d, a := r a, b := r b, c := r c } ∧
     sends (.bcmp d a b cond sgn) (some d) [a, b] [d] false (w a == w b && w d == 1)
       { s.bankCmd (.bcmp d a b cond sgn) with d := r d, a := r a, b := r b } ∧
     sends (.bmulc d a x sgn) (some d) [a] [d] true (decide (w a ≤ w d))
       { s.bankCmd (.bmulc d a x sgn) with d := r d, a := r a, x := s.src.rs x } ∧
     sends (.bmac d a b sgn) (some d) [a, b] [d] true (decide (w a ≤ w d) && decide (w b ≤ w d))
       { s.bankCmd (.bmac d a b sgn) with d := r d, a := r a, b := r b } ∧
     sends (.bmact d a x sgn) (some d) [a] [d] true (planeTag (r a) == .tern)
       { s.bankCmd (.bmact d a x sgn) with d := r d, a := r a, x := s.src.rs x } ∧
     sends (.bseal a) none [a] [] false true { s.bankCmd (.bseal a) with a := r a }) ∧
  (∀ (s : State) (sd sa sb sc : SReg) (bd : BReg) (key : Key) (xs : List Word) (n : Nat),
     let x := s.src.rs sa
     let y := s.src.rs sb
     let a := x.toNat
     let m := y.toNat
     let g := s.gang s.hart.gangKey
     let t := s.stack s.stk
     let mine := t.gangLocks s.hart.gangKey
     let ns := (List.range 32).filter fun n => x.getLsbD n
     let reg (n : Nat) : BitVec 128 := s.src.rb (BitVec.ofNat 5 n)
     let base (n : Nat) : Int := planeBase (reg n) + planeWidth (reg n) * s.src.bstride.toInt
     let l := s.log s.hart.key
     Checked s (.bsetl sd sa) [(g.torn, 8)] n
       (s.hart.phase = .run) (s.effect (.bank { s.bankCmd (.bsetl sd sa) with x := x } true)) ∧
     (s.hart.phase = .returned key xs →
       (∀ v, s.hart.bankWord = some v → MemberGives (.bsetl sd sa) s (s.effect (.scalar sd v true))) ∧
       (s.hart.bankWord = none → MemberGives (.bsetl sd sa) s s)) ∧
     Checked s (.balloc sa sb)
       [(g.torn, 8), (decide (128 < m ∨ 3072 < a + m ∨ (0 < m ∧ a / 256 ≠ (a + m - 1) / 256) ∨ mine ≠ []), 11)] n
       True (s.effect (.bank { s.bankCmd (.balloc sa sb) with x := x, y := y } false)) ∧
     Checked s (.brlk sa sb sc)
       [((List.range g.an).any fun i => (List.range (Nat.min m (992 - a))).any fun k =>
           t.isResident (frameAddr s.stk (frameNo (g.a0 + i) (a + k))), 7),
        (g.torn, 8),
        (decide (m = 0 ∨ 992 < a + m ∨ (∃ e ∈ mine, e.2.row < a + m ∧ a < e.2.row + e.2.rows) ∨ t.freeLock = none), 9)] n
       True (s.effect (.bank { s.bankCmd (.brlk sa sb sc) with x := x, y := y, z := BitVec.ofNat 64 (leaseOf (s.src.rs sc)) } false)) ∧
     Checked s (.brul sa sb) [(g.torn, 8), (decide (s.lockAt s.hart.gangKey x y = none), 10)] n
       True (s.effect (.bank { s.bankCmd (.brul sa sb) with x := x, y := y, lock := (s.lockAt s.hart.gangKey x y).getD 0 } false)) ∧
     Checked s (.bplane bd sa) [(!planeValid x, 15)] n True (s.modRegs fun r => r.wb bd (x.setWidth 128)) ∧
     Checked s (.bnext sa)
       [(decide (∃ n ∈ ns, planeWidth (reg n) = 0), 1),
        (decide (∃ n ∈ ns, base n < 0 ∨ (992 : Int) - planeWidth (reg n) < base n), 14)] n
       True (s.modRegs fun r => ns.foldl (fun r n => r.wb (BitVec.ofNat 5 n) (withBase (reg n) (base n).toNat)) r) ∧
     Checked s (.bwait sd) [(decide (g.torn = true ∧ s.hart.phase ≠ .bankWait), 8)] n
       (l.bankOut = 0 ∨ (g.torn = true ∧ s.hart.phase ≠ .bankWait))
       ((s.modLog s.hart.key fun l => { l with status := 0 }).effect (.scalar sd (l.status.setWidth 64) true)) ∧
     (l.bankOut ≠ 0 → g.torn = false → s.hart.phase = .run → MemberAdmitted s (.bwait sd) → exec (.bwait sd) s = .next (s.park .bankWait))) ∧
  (∀ (s : State) (b : BReg) (v5 : BitVec 5) (sa sb sd : SReg) (sgn sat : Bool) (key : Key) (xs : List Word)
       (ps : List (Nat × Bool)) (tlb : Walks) (n : Nat),
     let p := s.src.rb b
     let t := planeTag p
     let w := tagWidth t
     let a := s.src.rs sa
     let m := s.src.rs sb
     let vd : VReg := v5.setWidth 6
     let r := s.src.rv vd
     let bvlen := 524288 * (s.gang s.hart.gangKey).grant
     let pages := ps.map fun y => y.1 / 4096 * 4096
     let here := pages.all fun y => homeOf y == s.stk
     let frames := ((pages.filter fun y => homeOf y == s.stk).map frameOf).eraseDups
     let as := (granuleStarts a.toNat (planeBytes p m.toNat)).map fun x => (1, BitVec.ofNat 64 x)
     let addrs : List Word := pages.map fun y => BitVec.ofNat 64 y
     let vlen := s.hart.regs.vlen
     let past := decide (bvlen < m.toNat + vlen)
     let moves (i : Instr) : Prop := i = .bldp b sa sb sgn sat ∨ i = .bstp b sa sb sgn
     (m.toNat ≤ bvlen → a.toNat % (if w = 4 then 1 else w / 8) = 0 →
       (translateAll s .read as s.walks = .ok (ps, tlb) →
         Checked s (.bldp b sa sb sgn sat) (s.planeFaults (some p) [] [p] false true frames false false (!here)) n True
           ((s.setTlb tlb).effect (.bank { s.bankCmd (.bldp b sa sb sgn sat) with x := a, y := m, elems := addrs, d := p } false))) ∧
       (translateAll s .write as s.walks = .ok (ps, tlb) →
         Checked s (.bstp b sa sb sgn) (s.planeFaults none [p] [] false true frames true false (!here)) n True
           ((s.setTlb tlb).effect (.bank { s.bankCmd (.bstp b sa sb sgn) with x := a, y := m, elems := addrs, a := p } false)))) ∧
     (∀ i, moves i → bvlen < m.toNat → MemberAdmitted s i →
       exec i s = .next (s.takeTrap 0x20 (BitVec.ofNat 64 (12 + s.hart.cv.idx * 2 ^ 24 + 2 ^ 32)) s.hart.pc)) ∧
     (∀ i, moves i → m.toNat ≤ bvlen → a.toNat % (if w = 4 then 1 else w / 8) ≠ 0 → MemberAdmitted s i →
       exec i s = .next (s.takeTrap 0x0B a s.hart.pc)) ∧
     (LengthsFit s [(vd, w)] → Checked s (.btov v5 b sb sgn) (s.planeFaults none [p] [] false true [] false past false) n
       (s.hart.phase = .run)
       ((s.btovWrite vd t).effect (.bank { s.bankCmd (.btov v5 b sb sgn) with a := p, x := s.src.rs sb } true))) ∧
     (s.hart.phase = .returned key xs →
       (s.hart.bankWord ≠ none ∨ vlen = 0 → MemberGives (.btov v5 b sb sgn) s
         (s.writeVAny (decide (0 < vlen)) ⟨0, false, false⟩ vd t
           ((List.range vlen).map fun e => (e, (s.hart.results.look (bankResults + e) 0).toNat % 2 ^ w)) keepScales)) ∧
       (s.hart.bankWord = none → 0 < vlen → MemberGives (.btov v5 b sb sgn) s s)) ∧
     (let es := (List.range vlen).map fun e => toPlane r.tag (planeWidth p) sgn sat (r.elem s.hart.lanes (tagWidth r.tag) e)
      (r.tag = t → LengthsFit s [(vd, tagWidth r.tag)] → RegistersSound s [vd] →
       Checked s (.vtob b v5 sb sgn sat) (s.planeFaults (some p) [] [p] false true [] false past false) n True
        (s.effect (.bank { s.bankCmd (.vtob b v5 sb sgn sat) with
         d := p, x := s.src.rs sb, elems := es.map fun x => BitVec.ofNat 64 x.1, sat := es.any Prod.snd } false))) ∧
      (r.tag ≠ t → MemberAdmitted s (.vtob b v5 sb sgn sat) → exec (.vtob b v5 sb sgn sat) s =
        .next (s.takeTrap 0x15 (s.mismatch (tagCode r.tag) (tagCode t) 0x1F) s.hart.pc))) ∧
     Checked s (.bred sd b) (s.planeFaults none [p] [] false true [] false false false) n (s.hart.phase = .run)
       (s.effect (.bank { s.bankCmd (.bred sd b) with a := p } true)) ∧
     (s.hart.phase = .returned key xs →
       (∀ v, s.hart.bankWord = some v → MemberGives (.bred sd b) s (s.effect (.scalar sd v true))) ∧
       (s.hart.bankWord = none → MemberGives (.bred sd b) s s)))

/-- R332, R335, R336: a copy member (R339 to R346) none of whose conditions fails, with room in the queue, writes its predicate
all false and bound; the lowest failing condition is a copy fault; a full queue makes it wait. A convoy of one copy that
retires resets the status block of its slot, and the copy enters the queue with the generation of its key slot (R344). R333, R347, R348: CSTAT gives a word of a status
block; CWAIT waits while a copy it names is queued or running, then raises the floor to the keys of the chunks of all and gives
the slots that failed. R341, R410: CPYE takes the path and the rights of the table entry that it names; that it takes the entry's
words as they stand when it executes (notes/assumptions/104.md), and which bits are the path and the rights
(notes/assumptions/49.md), is the model's. -/
def Obligations.CopyMembersAndTheirStatus : Prop :=
  (∀ (s : State) (k : BitVec 5) (sdst ssrc slen sx sy : SReg) (code : BitVec 3) (pk : PReg) (q : Nat),
     let dst := s.src.rs sdst
     let src := s.src.rs ssrc
     let len := s.src.rs slen
     let n := len.toNat
     let x := s.src.rs sx
     let y := s.src.rs sy
     let rows := x.toNat % 2 ^ 32
     let st := strides y
     let last : Int := (rows - 1 : Nat)
     let span (a d : Int) : Bool := badRange (a + min 0 (last * d)) (n + max 0 (last * d) - min 0 (last * d))
     let slot := (s.stack s.stk).keySlots.look (y.extractLsb' 32 6).toNat {}
     let get := x.getLsbD 16
     let remote := (s.stack s.stk).remoteWord (x.toNat % 65536) 0
     let queues (i : Instr) (pk : PReg) (code : BitVec 3) (checks : List (Bool × Nat)) (fill : CopyCmd → CopyCmd) : Prop :=
       let failing := ((s.slotBusy k, 1) :: checks).find? fun r => r.1
       let cmd := fill { instr := i, serial := s.serial + 1, log := s.hart.key, slot := k.toNat, domain := s.hart.domain.toNat,
                         sprint := s.hart.sprint, stk := s.stk }
       (failing = none → (s.core s.hart.core).queued < 128 → MemberAdmitted s i → ∃ u : State, exec i s = .next u.memberDone ∧
         u.hart.cv.effects = .copy cmd :: s.hart.cv.effects ∧ u.serial = s.serial + 1 ∧
         (pk ≠ 0 → (u.hart.regs.rp pk).bits = 0 ∧ (u.hart.regs.rp pk).dirty = true ∧
           (u.hart.regs.rp pk).bind = some { base := cmd.dst, code := code, copy := cmd.serial }) ∧
         (∀ p, p ≠ pk → u.hart.regs.rp p = s.hart.regs.rp p) ∧ u.hart.regs.v = s.hart.regs.v ∧ u.hart.regs.s = s.hart.regs.s ∧
         u.mem = s.mem) ∧
       (failing = some (true, q) → MemberAdmitted s i →
         exec i s = .next (s.takeTrap 0x21 (BitVec.ofNat 64 (q + s.hart.cv.idx * 2 ^ 24 + 2 ^ 32)) s.hart.pc)) ∧
       (failing = none → 128 ≤ (s.core s.hart.core).queued → s.hart.phase = .run → MemberAdmitted s i →
         exec i s = .next (s.park .ordering))
     queues (.cpy k sdst ssrc slen code pk) pk code
       [(n == 0 || decide (2 ^ 32 < n), 2), (badRange src.toNat n || badRange dst.toNat n, 3)]
       (fun c => { c with dst := dst, src := src, len := len }) ∧
     queues (.cpy2d k sdst ssrc slen code sx sy pk) pk code
       [(n == 0 || decide (2 ^ 32 < n) || decide (2 ^ 32 < rows * n), 2),
        (span src.toNat st.1 || span dst.toNat st.2, 3),
        (rows == 0 || decide (65536 < rows) || !(x.extractLsb' 32 32 == 0) || decide (st.2 < n), 4)]
       (fun c => { c with dst := dst, src := src, len := len, x := x, y := y }) ∧
     queues (.cpyd k sdst ssrc slen sx sy pk) pk 3
       [(n == 0 || decide (2 ^ 32 < n), 2),
        (badRange src.toNat (4112 * ceilDiv n 4096) || badRange dst.toNat n, 3),
        (!(n % 4096 == 0) || decide (2 ^ 32 ≤ y.toNat % 2 ^ 32 + n / 4096 - 1) || !(y.extractLsb' 38 26 == 0), 5),
        (!slot.valid || !(slot.domain == s.hart.domain.toNat), 6)]
       (fun c => { c with dst := dst, src := src, len := len, x := x, y := y }) ∧
     queues (.cpye k sdst ssrc slen code sx pk) pk code
       [(n == 0 || decide (2 ^ 32 < n), 2),
        (badRange src.toNat n || badRange dst.toNat n, 3),
        (!(x.extractLsb' 17 47 == 0) || decide (4096 ≤ x.toNat % 65536) || !remoteValid remote ||
          !(remoteDomain remote == s.hart.domain.toNat) || !(remoteRight remote (if get then 1 else 0)), 7)]
       (fun c => { c with dst := dst, src := src, len := len, x := x
                          entry := (List.range 4).map ((s.stack s.stk).remoteWord (x.toNat % 65536)) }) ∧
     queues (.ckey k ssrc sx) 0 0
       [(badRange src.toNat 40, 3), (!(x.extractLsb' 15 49 == 0) || !(x.extractLsb' 6 2 == 0), 8)]
       (fun c => { c with src := src, len := 40, x := x })) ∧
  (∀ (s : State) (sd smask : SReg) (k : BitVec 5) (word : BitVec 2),
     let l := s.log s.hart.key
     let block (k : Nat) : CopyStatus := l.copies.look k {}
     let named := (List.range 32).filter fun k => (s.src.rs smask).getLsbD k
     let busy (k : Nat) : Prop := (block k).state = 1 ∨ (block k).state = 2
     let failed : Word := (named.filter fun k => 4 ≤ (block k).state).foldl (fun m k => m ||| 1#64 <<< k) 0
     MemberGives (.cstat sd k word) s (s.effect (.scalar sd ((block k.toNat).word word.toNat) true)) ∧
     ((∀ k ∈ named, ¬ busy k) → MemberGives (.cwait sd smask) s
       ((s.modLog s.hart.key fun l => { l with floor := l.floor.max ((named.flatMap fun k => (block k).keys).foldl Key.max 0) }).effect
         (.scalar sd failed true))) ∧
     ((∃ k ∈ named, busy k) → s.hart.phase = .run → MemberAdmitted s (.cwait sd smask) →
       exec (.cwait sd smask) s = .next (s.park .copyWait))) ∧
  (∀ (s : State) (c : CopyCmd), s.hart.cv.active = true → s.hart.cv.effects = [.copy c] → (s.core s.hart.core).queued < 128 →
     ∃ t, exec .convoyRetire s = .next t ∧
       (t.log c.log).copies.look c.slot {} = { state := 1, owner := c.serial } ∧
       (∃ gen, (t.core s.hart.core).copies = (s.core s.hart.core).copies ++ [{ c with gen := gen, order := s.serial + 1 }] ∧
         (∀ k d a n x y p, c.instr = .cpyd k d a n x y p →
           gen = ((s.stack c.stk).keySlots.look (c.y.extractLsb' 32 6).toNat {}).gen)) ∧
       t.serial = s.serial + 1 ∧ t.mem = s.mem)

/-- R29, R58, R104, R208: a convoy whose effects can all leave at its commit point retires: they leave in member order, its
flags join FPSTAT, its scalar results are written in member order, and the hart goes on after its last member. Where members
wait for results, their requests leave first, in member order, and the hart waits, with its registers as they were before the
convoy, until the results are there and the convoy runs again. What lacks room or a key waits: with nothing sent the convoy is
given up as it stands, and is run again; with something sent the rest is kept. notes/assumptions/28.md names the second run. -/
def Obligations.ConvoysRetireInMemberOrder : Prop :=
  ∀ (s u v : State) (out left : List Effect) (sent : Bool) (x : Word) (ph : Phase),
    let cv := s.hart.cv
    let asked := cv.effects.reverse.filter Effect.waits
    let goes := cv.sent = true ∨ s.fits cv.effects.reverse = true
    let pc := u.hart.memberAddr u.hart.cv.count
    let flagged := u.modHart fun h => { h with
      regs := { h.regs with fpstat := h.regs.fpstat ||| h.cv.flags }, cseq := h.cseq + 1, cv := {} }
    (cv.active = true → cv.sent = false → s.fits cv.effects.reverse = false → s.hart.answered = false →
      exec .convoyRetire s = .next (s.park (if s.fitsLog cv.effects.reverse then .ordering else .retry))) ∧
    (cv.active = true → s.hart.answered = false → asked ≠ [] → goes →
      (commitAll s cv.sent [] asked = (u, [], out, sent, none) →
        exec .convoyRetire s = .next (u.park (.requested (waitKey u asked))) ∧
        (u.hart.cv.active = true → (u.park (.requested (waitKey u asked))).hart.regs = u.hart.saved)) ∧
      (commitAll s cv.sent [] asked = (u, left, out, false, some ph) → exec .convoyRetire s = .next (s.park ph)) ∧
      (commitAll s cv.sent [] asked = (u, left, out, true, some ph) → exec .convoyRetire s = .next (u.holdConvoy (out ++ left)))) ∧
    (cv.active = true → s.hart.answered = true ∨ asked = [] → goes →
    commitAll s cv.sent [] cv.effects.reverse = (u, [], out, sent, none) →
    (writeScalars flagged none out = (v, none) → exec .convoyRetire s = .next ((v.goto pc).modHart Hart.flushChunks)) ∧
    (writeScalars flagged none out = (v, some x) →
      exec .convoyRetire s = .next (((v.goto pc).modHart Hart.flushChunks).takeTrap 0x1B x pc)) ∧
    (cv.effects = [] → ∃ t, exec .convoyRetire s = .next t ∧ t.hart.pc = s.hart.memberAddr cv.count ∧ t.hart.regs.s = s.hart.regs.s ∧
      t.hart.regs.fpstat = s.hart.regs.fpstat ||| cv.flags ∧ t.hart.cseq = s.hart.cseq + 1 ∧ t.hart.cv = {} ∧ t.mem = s.mem))

/-! ## Events of contexts and of the memory system -/

/-- R34, R38 to R40, R42, R217, R271, R294, R384: the events that a context meets change that context alone: the overrun of a
non-preemptible region, a request and its acceptance, the end of a timed wait, the result of home operations, room in a log.
R38, R44: a request for one hart of a gang asks for every hart of the gang that holds a slot. -/
def Obligations.ContextAndGangEvents : Prop :=
  (∀ (s : State) (h : Nat) (x : Hart) (n : Nat) (key : Key) (b : Bool),
     let now := (s.time x.stk).toNat
     let becomes (i : Instr) (y : Hart) : Prop := ∃ t, exec i s = .next t ∧ ContextBecomes s t h y
     ContextsKeyed s → s.ctx h = some x →
     (x.npSince = some n → n + Config.npBound ≤ now →
       becomes (.overrunFault h) { x with npSince := none, async30 := some (s.time x.stk) }) ∧
     ((∀ n, x.npSince = some n → now < n + Config.npBound) → becomes (.overrunFault h) x) ∧
     (x.service = false → x.resident = true → x.inGang = false →
       becomes (.preemptRequest h b) { x with preempt := true, replace := x.replace || b }) ∧
     (x.preempt = true → x.npSince = none → x.atBoundary = true → (x.slot = .ready ∨ x.slot = .waiting ∨ x.slot = .sleeping) →
       becomes (.preemptAccept h) { x with slot := .draining }) ∧
     (x.preempt = false ∨ x.npSince ≠ none ∨ x.atBoundary = false → becomes (.preemptAccept h) x) ∧
     (x.phase = .event (some n) → n ≤ now → becomes (.evwaitTimeout h) { x with phase := .returned 0 [] }) ∧
     (x.phase = .requested key → x.awaiting = 0 → becomes (.homeOpResult h) { x with phase := .returned key x.resultList }) ∧
     (x.phase = .requested key → x.awaiting ≠ 0 → becomes (.homeOpResult h) x) ∧
     ((s.log h).room false 1 = true → x.phase = .retry → becomes (.logSpaceFreed h) { x with tried := false })) ∧
  (∀ (s : State) (h : Nat) (x : Hart) (b : Bool), ContextsKeyed s → s.ctx h = some x → x.inGang = true →
     ∃ t, exec (.preemptRequest h b) s = .next t ∧ t.mem = s.mem ∧ ∀ k y, s.ctx k = some y →
       t.ctx k = some (if y.service = false ∧ y.resident = true ∧ (k = h ∨ (y.inGang = true ∧ y.gangKey = x.gangKey)) then
         { y with preempt := true, replace := y.replace || b } else y))

/-- R40 to R43, R277: a drained context closes its staging and is saved; a saved one gives up its slot and keeps its pc and
registers, and its image is the one in its save area; it resumes in a slot with a grant of its size, at the pc that its image
holds while that image is still there (R224), else as it was saved (the model's choice: notes/assumptions/35.md); a migrated one
is asked for, and a core reset ends on time. -/
def Obligations.SaveAndResumeKeepTheContext : Prop :=
  ∀ (s : State) (h core slot n : Nat) (x : Hart) (grant : BitVec 16),
    (let u := s.select h
     u.hart.key = h → u.hart.slot = .draining → (s.log h).room false u.hart.staging.length = true →
      exec (.drainComplete h) s = .next (u.closeStaging.modHart fun x => { x.flushChunks.settlePhase with slot := .saving })) ∧
    (ContextsKeyed s → s.ctx h = some x → x.slot = .saving → (s.core x.core).resetWait = none →
      ∃ t y, exec (.saveComplete h) s = .next t ∧ t.ctx h = some y ∧ y.slot = .saved ∧ y.held = s.heldOf x ∧ y.preempt = false ∧
        y.pc = x.pc ∧ y.regs.s = x.regs.s ∧ y.regs.v = x.regs.v ∧ y.regs.p = x.regs.p ∧ y.trap1 = x.trap1 ∧ y.trap2 = x.trap2 ∧
        (t.core x.core).images.look x.slotNo (h + 1) = h ∧ ∀ k, k ≠ h → t.ctx k = s.ctx k) ∧
    (ContextsKeyed s → s.ctx h = some x → core < 1152 → slot < 4 → x.inGang = false → s.mayResume x core slot = true →
      s.resumeGrant x core = some grant →
      ∃ t y, exec (.resume h core slot) s = .next t ∧ t.ctx h = some y ∧ y.loc = 4 * core + slot ∧ y.regs.grant = grant ∧
        ((s.imageSectors x).find? s.badSector = none → y.slot = (if x.phase = .halted then .sleeping else .ready)) ∧
        (∀ sec, (s.imageSectors x).find? s.badSector = some sec → x.phase ≠ .halted → y.slot = .waiting ∧ y.phase = .readError sec) ∧
        y.held = 0 ∧ t.mem = s.mem ∧
        (∀ k, k ≠ h → t.ctx k = s.ctx k) ∧
        ((s.core x.core).images.look x.slotNo (h + 1) = h → y.pc = BitVec.ofNat 64 (s.mem.readN x.saveArea 8)) ∧
        ((s.core x.core).images.look x.slotNo (h + 1) ≠ h →
          y.pc = x.pc ∧ y.regs.s = x.regs.s ∧ y.trap1 = x.trap1 ∧ y.trap2 = x.trap2)) ∧
    (s.ctx h = some x → core < 1152 → slot < 4 → s.resumeAll x core slot = none → exec (.resume h core slot) s = .next s) ∧
    (ContextsKeyed s → s.ctx h = some x → core < 1152 → x.service = false → core / 48 = x.stk →
      (x.slot = .saved → x.held = 0 → ∃ t, exec (.thermalMigration h core) s = .next t ∧
        ContextBecomes s t h { x with migrate := some core }) ∧
      (x.resident = true → x.inGang = false → ∃ t, exec (.thermalMigration h core) s = .next t ∧
        ContextBecomes s t h { x with migrate := some core, preempt := true })) ∧
    (core < 1152 → (s.core core).resetEnd = some n →
      exec (.coreResetEnd core) s =
        .next (if n ≤ (s.time (core / 48)).toNat then s.modCore core fun c => { c with resetEnd := none } else s))

/-- R259: beacons leave at every TIME that is 0 modulo 64, once, for every stack; a beacon received is noted with its time;
one more than 256 ticks late is reported once. R260, R352: an entry that arrives joins the queue in key order while there is
room, else the highest-keyed one is set to be sent again after 64 ticks; a refused entry whose time has come is on its way
again. R353: the request of a read from outside is served at its home when it arrives (notes/assumptions/129.md). -/
def Obligations.MergeBeaconsAndQueue : Prop :=
  (∀ (s : State) (stk src f a : Nat), stk < 24 → src < 24 →
     let now := (s.time stk).toNat
     let t := s.stack stk
     (now % 64 = 0 → t.beaconSent ≠ some now → ∃ u, exec (.mergeBeacon stk) s = .next u ∧
       u.agenda = s.agenda ++ (List.range 24).map (fun j => Sched.msg (.beacon j stk (s.mergeFloor stk).toNat t.applied.toNat)) ∧
       (u.stack stk).beaconSent = some now ∧ u.mem = s.mem ∧ u.hart = s.hart ∧ ∀ k, k ≠ stk → u.stack k = s.stack k) ∧
     (now % 64 ≠ 0 ∨ t.beaconSent = some now → exec (.mergeBeacon stk) s = .next s) ∧
     (∃ u, exec (.mergeBeaconReceive stk src f a) s = .next u ∧
       (u.stack stk).beacons.look src (0, 0) = (BitVec.ofNat 78 f, BitVec.ofNat 78 a) ∧ (u.stack stk).beaconAt.look src 0 = now ∧
       src ∉ (u.stack stk).beaconLate ∧ u.mem = s.mem ∧ u.hart = s.hart ∧ ∀ k, k ≠ stk → u.stack k = s.stack k) ∧
     (t.beaconAt.look src 0 + 320 < now → src ∉ t.beaconLate → ∃ u, exec (.mergeBeaconOverdue stk src) s = .next u ∧
       src ∈ (u.stack stk).beaconLate ∧ (u.stack stk).beacons = t.beacons ∧ u.mem = s.mem ∧ u.hart = s.hart) ∧
     (now ≤ t.beaconAt.look src 0 + 320 ∨ src ∈ t.beaconLate → exec (.mergeBeaconOverdue stk src) s = .next s)) ∧
  (∀ (s : State) (stk n : Nat) (e top : MEntry) (at_ : Nat), stk < 24 →
     let t := s.stack stk
     let now := (s.time stk).toNat
     let arrives (u : Stack) : Prop := ∃ v, exec (.mergeQueueDelivery stk n) s = .next v ∧ v.stack stk = u ∧ v.mem = s.mem ∧
       v.hart = s.hart ∧ ∀ k, k ≠ stk → v.stack k = s.stack k
     let out := { t with inbound := t.inbound.eraseIdx n }
     (t.inbound[n]? = none → exec (.mergeQueueDelivery stk n) s = .next s) ∧
     (t.inbound[n]? = some e → (∃ x ∈ t.inbound.take n, s.senderOf x = s.senderOf e) →
       exec (.mergeQueueDelivery stk n) s = .next s) ∧
     (t.inbound[n]? = some e → s.reaches (s.senderOf e) stk = false → exec (.mergeQueueDelivery stk n) s = .next s) ∧
     (t.inbound[n]? = some e → (∀ x ∈ t.inbound.take n, s.senderOf x ≠ s.senderOf e) → s.reaches (s.senderOf e) stk = true →
       (∀ serial j, e.origin ≠ .chunk serial j) → (∀ id sec, e.body ≠ .get id sec) →
       (t.mq.length < 16384 → arrives { out with mq := mqInsert e t.mq }) ∧
       (16384 ≤ t.mq.length → t.mq.getLast? = some top →
         arrives (if e.key.lt top.key then { out with mq := mqInsert e t.mq.dropLast, refused := t.refused ++ [(now + 64, top)] }
           else { out with refused := t.refused ++ [(now + 64, e)] }))) ∧
     (∀ id sec, t.inbound[n]? = some e → (∀ x ∈ t.inbound.take n, s.senderOf x ≠ s.senderOf e) → s.reaches (s.senderOf e) stk = true →
       e.body = .get id sec → exec (.mergeQueueDelivery stk n) s =
         .next ((s.modStack stk fun t => { t with inbound := t.inbound.eraseIdx n }).askSector id sec)) ∧
     (t.refused.find? (fun e => decide (e.1 ≤ now)) = some (at_, e) → exec (.mergeQueueResend stk) s =
       .next (s.modStack stk fun t => { t with refused := t.refused.erase (at_, e), inbound := t.inbound ++ [e] })) ∧
     (t.refused.find? (fun e => decide (e.1 ≤ now)) = none → exec (.mergeQueueResend stk) s = .next s))

/-- R243, R260: the merge engine takes the first entry of its queue whose frame no residency command holds once the horizon
exceeds its key, and applies a record whose line is whole and whose row is unlocked: the masked bytes of its sector take the
record's, and no other byte of memory changes; a record that a row release with a higher key supersedes (R268, R274) changes
none, whenever it comes (notes/assumptions/110.md, this model's reading). R274, R354: an entry whose row is locked, or that is
past the key of a lock to come on its row, is set aside while the deferred-request queue has room, with memory unchanged; with
that queue full it stays, and the stall is reported once. -/
def Obligations.RecordsMergeInKeyOrder : Prop :=
  (∀ (s : State) (stk l q sec : Nat) (e : MEntry) (mask : BitVec 64) (d : BitVec 512), stk < 24 →
     (s.stack stk).mq.find? (fun e => !(e.addrs.any (s.stack stk).heldFrame) && !e.isRelease) = some e →
     e.body = .record sec mask d → e.origin = .publication l q →
     (∀ x ∈ (s.stack stk).locks, x.2.covers (frameOf sec) = true → x.2.effective = false ∧ x.2.kl.lt e.key = false) →
     (e.key.lt (s.stack stk).horizon = false → exec (.mergeApply stk) s = .next s) ∧
     (e.key.lt (s.stack stk).horizon = true → s.lineGood l q = true → (s.stack stk).supersedes e.key sec = true →
       ∃ u, exec (.mergeApply stk) s = .next u ∧ u.mem = s.mem ∧ u.hart = s.hart ∧ (u.stack stk).mq = (s.stack stk).mq.erase e) ∧
     (e.key.lt (s.stack stk).horizon = true → s.lineGood l q = true → (s.stack stk).supersedes e.key sec = false →
       ∃ u, exec (.mergeApply stk) s = .next u ∧
       (∀ i, i < 64 → u.mem.read (sec + i) = if mask.getLsbD i then d.extractLsb' (8 * i) 8 else s.mem.read (sec + i)) ∧
       (∀ a, a < sec ∨ sec + 64 ≤ a → u.mem.read a = s.mem.read a) ∧ u.hart = s.hart ∧
       (u.stack stk).mq = (s.stack stk).mq.erase e) ∧
     (e.key.lt (s.stack stk).horizon = true → s.lineGood l q = false →
       exec (.mergeApply stk) s = .next (s.damage stk l q) ∧ (s.damage stk l q).mem = s.mem)) ∧
  (∀ (s : State) (stk l q sec : Nat) (e : MEntry) (mask : BitVec 64) (d : BitVec 512), stk < 24 →
     let t := s.stack stk
     t.nextMerge = some e → e.body = .record sec mask d → e.origin = .publication l q → s.lineGood l q = true →
     (∃ x ∈ t.locks, x.2.covers (frameOf sec) = true ∧ (x.2.effective = true ∨ x.2.kl.lt e.key = true)) →
     (t.deferred.length < 1024 → ∃ u, exec (.mergeApply stk) s = .next u ∧ u.mem = s.mem ∧
       (u.stack stk).deferred = t.deferred ++ [.entry e] ∧ (u.stack stk).mq = t.mq.erase e) ∧
     (1024 ≤ t.deferred.length → t.deferStall = true → exec (.mergeApply stk) s = .next s) ∧
     (1024 ≤ t.deferred.length → t.deferStall = false → ∃ u, exec (.mergeApply stk) s = .next u ∧ u.mem = s.mem ∧
       (u.stack stk).deferStall = true ∧ (u.stack stk).mq = t.mq ∧ (u.stack stk).deferred = t.deferred))

/-- R245, R253, R262, R266, R353: a line whose five records are applied is reclaimed; a pinned sector leaves a view once its
home has applied its key, with the shared copy of it; a hart whose read waits at home is entered again when home can serve it. R273, R337 to R340: the
copy engine starts the next chunk of the copy it serves: with a chunk of one part whose source it can read and whose destination
it can write, records that carry every source byte to its destination are on their way home: the byte of home memory, or of the sector
as its home answered where it was held at a locked row (R353). R344, R345: a chunk of CPYD carries
the plaintext when its tag verifies; else TAGFAIL counts it and nothing is written; a key slot that has changed ends the copy
with KEYFAIL. A chunk all of whose records are applied completes: the status block counts it, and every shared sector that it
wrote leaves the view of its core. R346: CKEY clears its slot, or installs the key that it unwraps, and raises the generation;
KEYFAIL when the check fails. R340: the parts of a CPY2D chunk are its row bytes, each with its source, and no byte of a gap.
R341, R410: a chunk of CPYE sends its put in pieces or asks for its get over the path that its entry named when the copy was made
(notes/assumptions/104.md), in packets whose kind, entry, offset and length are the model's layout
(notes/assumptions/49.md), or ends the copy past the entry's length. -/
def Obligations.CompactionAndCopyEngines : Prop :=
  (∀ (c : CopyCmd) (j : Nat) (k : BitVec 5) (s1 s2 s3 s4 s5 : SReg) (z : BitVec 3) (pk : PReg), c.instr = .cpy2d k s1 s2 s3 z s4 s5 pk →
     let a := (strides c.y).1
     let b := (strides c.y).2.toNat
     let n := c.len.toNat
     let from_ (o : Nat) : Int := c.src.toNat + (o / b : Nat) * a + (o % b : Nat)
     0 < b → n ≤ b → (∀ i : Nat, i < c.x.toNat % 2 ^ 32 → 0 ≤ (c.src.toNat : Int) + i * a) →
     (∀ o, j * c.size ≤ o → o < j * c.size + c.size → o < c.extent → o % b < n →
       ∃ p ∈ c.parts j, ∃ i, i < p.2.2 ∧ p.2.1 + i = c.dst.toNat + o ∧ ((p.1 + i : Nat) : Int) = from_ o) ∧
     (∀ p ∈ c.parts j, ∀ i, i < p.2.2 → ∃ o, j * c.size ≤ o ∧ o < j * c.size + c.size ∧ o < c.extent ∧ o % b < n ∧
       p.2.1 + i = c.dst.toNat + o ∧ ((p.1 + i : Nat) : Int) = from_ o)) ∧
  (∀ (s : State) (log core slot sector : Nat) (h : Hart),
     let l := s.log log
     (l.reclaimable = true → l.alive = true → ∃ u, exec (.compaction log) s = .next u ∧
       (u.log log).reclaim = nextLine l.reclaim ∧ (u.log log).recs = l.recs.filter (fun r => seqLe (nextLine l.reclaim) r.seq) ∧
       u.mem = s.mem ∧ u.hart = s.hart) ∧
     (l.reclaimable = false → exec (.compaction log) s = .next s) ∧
     (core < 1152 → slot < 4 →
       let view := (s.core core).view
       let past : Prop := ∃ x ∈ view, x.addr = sector ∧ x.pin = some slot ∧ x.key.le (s.stack (homeOf sector)).applied = true
       ∃ u, exec (.pinDrop core slot sector) s = .next u ∧ u.mem = s.mem ∧ u.hart = s.hart ∧ (¬ past → (u.core core).view = view) ∧
         (past → ∀ x, x ∈ (u.core core).view ↔ x ∈ view ∧ ¬ (x.addr = sector ∧ (x.pin = some slot ∨ x.pin = none)))) ∧
     (core < 1176 → (∀ h ∈ s.harts, h.core = core → h.phase ≠ .deferredRead sector) → exec (.memoryReply core sector) s = .next s) ∧
     (core < 1176 → s.harts.find? (fun h => h.core == core && h.phase == .deferredRead sector) = some h →
       (s.select h.key).hart.key = h.key →
       ((s.select h.key).canServe sector = false → exec (.memoryReply core sector) s = .next s) ∧
       ((s.select h.key).canServe sector = true → ∃ u, exec (.memoryReply core sector) s = .next u ∧ u.hart.key = h.key ∧
         u.hart.phase = .retry ∧ u.hart.tried = false ∧ u.mem = s.mem))) ∧
  (∀ (s u v w : State) (core j a d n : Nat) (c : CopyCmd) (ps qs : List (Nat × Nat × Nat)) (bs pt : List Byte),
     let block := (s.log c.log).copies.look c.slot {}
     let key := (s.stack c.stk).keySlots.look (c.y.extractLsb' 32 6).toNat {}
     let iv := bytesBE 8 c.x.toNat ++ bytesBE 4 ((c.y.toNat % 2 ^ 32 + j) % 2 ^ 32)
     let apart (m : Nat) : Prop := ∀ i k, i < m → k < m → placed qs (d + i) = placed qs (d + k) → i = k
     core < 1152 → s.pickCopy core = some c → c.nextChunk = some j → s.beginChunk core c j = v →
       (∃ t, s.startChunk core c = some t ∧ exec (.copyChunkStart core) s = .next t) ∧
       ((match c.instr with | .cpy .. | .cpy2d .. => True | _ => False) → c.parts j = [(a, d, n)] →
         (v.copyPages core c .read a n).1 = .ok ps → v.copyRead core c a n = .ok bs u → u.copyPages core c .write d n = (.ok qs, w) →
         apart n → ∃ t, exec (.copyChunkStart core) s = .next t ∧ t.mem = s.mem ∧
             ∀ i b, i < n → c.readList s.mem (placed ps (a + i)) 1 = [b] → t.sendsByte (.chunk c.serial j) (placed qs (d + i)) b) ∧
       ((match c.instr with | .cpy .. | .cpy2d .. => True | _ => False) →
         (∀ recs, v.copyParts core c (c.parts j) [] = .ok recs u → ∃ t, exec (.copyChunkStart core) s = .next t ∧ t.mem = s.mem ∧
           ∀ x ∈ recs, ∃ e ∈ (t.stack (homeOf x.1)).inbound, e.origin = .chunk c.serial j ∧ e.body = .record x.1 x.2.1 x.2.2) ∧
         (∀ f va, v.copyParts core c (c.parts j) [] = .stop f va u →
           exec (.copyChunkStart core) s = .next (u.stopCopy core c j f (some (BitVec.ofNat 64 va))))) ∧
       ((match c.instr with | .cpye .. => True | _ => False) →
         let word (k : Nat) : Nat := (c.entry.getD k 0).toNat
         let get := c.x.getLsbD 16
         let base := if get then c.src.toNat else c.dst.toNat
         let m := Nat.min c.size (c.len.toNat - j * c.size)
         let flying (s : State) : State := s.modCopy core c.serial fun x => { x with fly := x.fly ++ [{ chunk := j, remote := true }] }
         let packet (kind : PacketKind) (bytes : List Byte) : Packet :=
           { kind := kind, serial := c.serial, chunk := j, entry := word 2 % 65536, off := base + j * c.size, len := m, bytes := bytes }
         (word 3 < base + c.len.toNat ∨ (s.conn (word 1)).failed = true →
           exec (.copyChunkStart core) s = .next (v.stopCopy core c j 32 none)) ∧
         (base + c.len.toNat ≤ word 3 → (s.conn (word 1)).failed = false →
           s.connected c.stk (pathStack (word 1)) = true ∧
           (get = true → exec (.copyChunkStart core) s = .next ((flying v).sendPacket (word 1) (packet .get []))) ∧
           (get = false → v.copyRead core c (c.src.toNat + j * c.size) m = .ok bs u →
             exec (.copyChunkStart core) s = .next ((piecesOf bs).foldl (fun s x =>
               s.sendPacket (word 1) (packet (if c.len.toNat % 8 = 0 then .putWords else .put) x)) (flying u))))) ∧
       ((match c.instr with | .cpyd .. => True | _ => False) →
         (key.valid = false ∨ key.gen ≠ c.gen → exec (.copyChunkStart core) s = .next (v.stopCopy core c j 16 none)) ∧
         (key.valid = true → key.gen = c.gen → v.copyRead core c (c.src.toNat + 4112 * j) 4112 = .ok bs u →
           (gcmOpen key.key iv (bs.take 4096) (bs.drop 4096) = some pt → d = c.dst.toNat + 4096 * j →
             u.copyPages core c .write d pt.length = (.ok qs, w) → apart pt.length →
             ∃ t, exec (.copyChunkStart core) s = .next t ∧ t.mem = s.mem ∧
               ∀ i, i < pt.length → t.sendsByte (.chunk c.serial j) (placed qs (d + i)) (pt.getD i 0)) ∧
           (gcmOpen key.key iv (bs.take 4096) (bs.drop 4096) = none → block.owner = c.serial →
             ∃ t, exec (.copyChunkStart core) s = .next t ∧ t.mem = s.mem ∧
               ((t.log c.log).copies.look c.slot {}).tagfails = block.tagfails + 1 ∧
               ((t.log c.log).copies.look c.slot {}).flags.getLsbD 0 = true ∧
               (∀ k, (t.stack k).inbound = (s.stack k).inbound))))) ∧
  (∀ (s u : State) (core stk : Nat) (c : CopyCmd) (f : Flight) (bs : List Byte) (kek key : BitVec 256),
     (core < 1152 →
       (s.pickCopy core = none → s.copyHolds core = [] → exec (.copyChunkStart core) s = .next s) ∧
       (s.doneChunk core = none → exec (.copyChunkComplete core) s = .next s) ∧
       (s.doneChunk core = some (c, f) → ((s.log c.log).copies.look c.slot {}).owner = c.serial →
         ∃ t, exec (.copyChunkComplete core) s = .next t ∧
           ((t.log c.log).copies.look c.slot {}).chunks = ((s.log c.log).copies.look c.slot {}).chunks + 1 ∧
           f.key.getD 0 ∈ ((t.log c.log).copies.look c.slot {}).keys ∧
           (∀ v ∈ (t.core core).view, v.pin = none → v.addr ∉ f.sectors) ∧ t.mem = s.mem)) ∧
     (stk < 24 →
       (s.readyCkey stk = none → exec (.ckeyApply stk) s = .next s) ∧
       (s.readyCkey stk = some (core, c) →
         let n := (c.x.extractLsb' 0 6).toNat
         let old := (s.stack stk).keySlots.look n {}
         let ends (k : KeySlot → Prop) (state : Nat) (failed : Bool) : Prop := ∃ t, exec (.ckeyApply stk) s = .next t ∧
           k ((t.stack stk).keySlots.look n {}) ∧ t.mem = s.mem ∧
           (((s.log c.log).copies.look c.slot {}).owner = c.serial →
             ((t.log c.log).copies.look c.slot {}).state = state ∧
             (failed = true → ((t.log c.log).copies.look c.slot {}).flags.getLsbD 4 = true))
         (c.x.getLsbD 14 = true → ends (fun k => k.valid = false ∧ k.gen = old.gen + 1) 3 false) ∧
         (c.x.getLsbD 14 = false → s.copyRead core c c.src.toNat 40 = .ok bs u → (s.stack stk).kwk = some kek →
           (keyUnwrap kek bs = some key →
             ends (· = { valid := true, domain := (c.x.extractLsb' 8 6).toNat, key := key, gen := old.gen + 1 }) 3 false) ∧
           (keyUnwrap kek bs = none → ends (fun k => k.valid = false ∧ k.gen = old.gen + 1) 4 true)))))

/-- R360, R361: a record whose waits hold is cut into one piece for each stack of its mask that gets work; a launch that is
over advances its counter and frees its entry. R364 to R367: placement takes the next place that an instance can have: with one
hart to a core, the first free slot of the first core that is eligible, whose context starts at the record's entry with its
registers, lanes and log; with several, and for a whole gang at once, the lowest free slots of the first eligible cores, each
context with lanes of its own and, in a gang, its rank (R24, R364; notes/assumptions/62.md for the order); a split gives the upper half of what is left to a new instance of the core's own stack or of another,
and lowers the end of the old one to the middle; the requester, a core or a context in WNEXT, hears of it, and a reply to an entry that
is no longer held changes nothing; a spent instance is freed and the last lets its launch drain; a frozen one is
put back. -/
def Obligations.LaunchesAndInstances : Prop :=
  (∀ (s : State) (stk idx : Nat), stk < 24 →
     let l := s.launchAt stk idx
     let ps := recPieces l.words
     (l.state = .waiting → s.waitHolds stk l.words 0 = true → s.waitHolds stk l.words 1 = true → exec (.launchCut stk idx) s =
       .next ((s.modHome stk idx fun l => { l with state := .running, live := ps.length }).makePieces stk idx ps)) ∧
     (l.state = .waiting → (s.waitHolds stk l.words 0 = false ∨ s.waitHolds stk l.words 1 = false) →
       exec (.launchCut stk idx) s = .next s) ∧
     (l.state = .running → exec (.launchCut stk idx) s = .next (s.makePieces stk idx l.pieces)) ∧
     (s.launchOver stk idx = false → exec (.launchDone stk idx) s = .next s) ∧
     (s.launchOver stk idx = true → ∃ t, exec (.launchDone stk idx) s = .next t ∧
       (t.stack stk).launches = Tbl.drop (s.stack stk).launches idx ∧ t.mem = s.mem ∧
       (l.counts = true → let c := recB l.words 24 12
         ((t.stack stk).ccs.look c {}).value = ((s.stack stk).ccs.look c {}).value + 1 ∧
         ((t.stack stk).ccs.look c {}).key = ((s.stack stk).ccs.look c {}).key.max (s.serviceKey stk)) ∧
       (l.counts = false → (t.stack stk).ccs = (s.stack stk).ccs))) ∧
  (∀ (s u : State) (stk src w core n free : Nat) (x y : Walker) (hold : Walker) (rest : List (Nat × Option Walker)),
     stk < 24 → src < 24 →
     let t := s.stack stk
     let mine := t.walkers.look w {}
     let middle (old : Walker) : Nat := old.next + (old.rest + 1) / 2
     let upper (old y : Walker) : Prop := y.state = .active ∧ y.next = middle old ∧ y.stop = old.stop ∧ y.home = old.home ∧ y.launch = old.launch
     let lower (old y : Walker) : Prop := y.next = old.next ∧ y.stop = middle old ∧ y.home = old.home ∧ y.launch = old.launch
     (s.placeNext stk w = some u → exec (.placement stk w) s = .next u) ∧
     (s.placeNext stk w = none → exec (.placement stk w) s = .next s) ∧
     (core < 1152 → s.idleChoice core = none → exec (.idleSplit core) s = .next s) ∧
     (∀ l, core < 1152 → s.idleChoice core = some (core / 48, w, l, x) → freeIndex (s.stack (core / 48)).walkers 32 = some free →
       let old := (s.stack (core / 48)).walkers.look w {}
       old.state = .active → 2 ≤ old.rest → (s.launchAt old.home old.launch).splits = true →
       ∃ v y, exec (.idleSplit core) s = .next v ∧ (v.stack (core / 48)).walkers.look free {} = y ∧ upper old y ∧
         lower old ((v.stack (core / 48)).walkers.look w {})) ∧
     (∀ l, core < 1152 → s.idleChoice core = some (src, w, l, x) → src ≠ core / 48 →
       freeIndex (s.stack (core / 48)).walkers 32 = some free → s.holdEntry (core / 48) x.home x.launch = some u →
       ∃ v, exec (.idleSplit core) s = .next v ∧ v.agenda = u.agenda ++ [.msg (.split src (core / 48) w)] ∧
         (v.core core).splitting = true ∧ ((v.stack (core / 48)).walkers.look free {}).state = .held) ∧
     ((∀ e ∈ (s.stack src).walkers, ¬ (e.2.state = .held ∧ e.2.bound.length = 3 ∧ e.2.bound.take 2 = [stk, w])) →
       exec (.splitRequest stk src w) s = .next s) ∧
     ((s.stack src).walkers.find? (fun e => e.2.state == .held && e.2.bound.length == 3 && e.2.bound.take 2 == [stk, w]) = some (free, hold) →
       (mine.state ≠ .active ∨ mine.rest < 2) → ∃ v, exec (.splitRequest stk src w) s = .next v ∧
         v.agenda = s.agenda ++ [.msg (.splitReply stk src)] ∧ (v.stack src).replies = (s.stack src).replies ++ [(free, none)]) ∧
     ((s.stack src).walkers.find? (fun e => e.2.state == .held && e.2.bound.length == 3 && e.2.bound.take 2 == [stk, w]) = some (free, hold) → src ≠ stk →
       mine.state = .active → 2 ≤ mine.rest → mine.of hold.home hold.launch = true → mine.serial = hold.serial →
       (s.launchAt mine.home mine.launch).arrival.toNat = hold.next → s.splitterCore (hold.bound.getD 2 0) = some core →
       s.covers core (s.launchAt mine.home mine.launch).words = true →
       (s.launchAt mine.home mine.launch).splits = true → admits (s.launchAt mine.home mine.launch).words stk src = true →
       ∃ v x, exec (.splitRequest stk src w) s = .next v ∧ v.agenda = s.agenda ++ [.msg (.splitReply stk src)] ∧
         (v.stack src).replies = (s.stack src).replies ++ [(free, some x)] ∧ upper mine x ∧
         lower mine ((v.stack stk).walkers.look w {})) ∧
     (t.replies = [] → exec (.splitReply stk) s = .next s) ∧
     (t.replies = (free, some y) :: rest → t.holdAt free = some hold → hold.bound.getD 2 0 = core → core < 0x10000 →
       ∃ v, exec (.splitReply stk) s = .next v ∧ (v.stack stk).replies = rest ∧
         (v.stack stk).walkers.look free {} = y ∧ (v.core core).splitting = false) ∧
     (t.replies = (free, none) :: rest → t.holdAt free = some hold → hold.bound.getD 2 0 = core → core < 0x10000 →
       ∃ v, exec (.splitReply stk) s = .next v ∧ (v.stack stk).replies = rest ∧
         (v.stack stk).walkers = Tbl.drop t.walkers free ∧ (v.core core).splitting = false) ∧
     (∀ (r : Option Walker) (c : Nat) (h : Hart), t.replies = (free, r) :: rest → t.holdAt free = some hold →
       hold.bound.getD 2 0 = 0x10000 + c → ContextsKeyed s → s.ctx c = some h → h.key = c → h.phase = .requested 0 → h.home = hold.home →
       h.launch = hold.launch → ∃ v z, exec (.splitReply stk) s = .next v ∧ (v.stack stk).replies = rest ∧ v.ctx c = some z ∧
         z.awaiting = 0 ∧ z.results = [(0, if r.isSome then 1 else 0)] ∧
         (∀ x, r = some x → z.instStack = h.stk ∧ z.serial = x.serial) ∧ (r = none → z.instStack = h.instStack ∧ z.serial = h.serial)) ∧
     (∀ r, t.replies = (free, r) :: rest → t.holdAt free = none →
       exec (.splitReply stk) s = .next (s.modStack stk fun t => { t with replies := rest })) ∧
     (t.frozen.find? (fun e => e.1 == n) = some (n, x) → freeIndex t.walkers 32 = some free →
       exec (.instanceRestore stk n) s = .next (s.modStack stk fun t =>
         { t with walkers := t.walkers.put free x, frozen := Tbl.drop t.frozen n })) ∧
     (t.frozen.find? (fun e => e.1 == n) = none ∨ freeIndex t.walkers 32 = none → exec (.instanceRestore stk n) s = .next s) ∧
     (mine.state ≠ .spent ∨ mine.bound ≠ [] ∨ s.reaches stk mine.home = false → exec (.instanceSpent stk w) s = .next s) ∧
     (mine.state = .spent → mine.bound = [] → s.reaches stk mine.home = true → ∃ v, exec (.instanceSpent stk w) s = .next v ∧
       (v.stack stk).walkers = Tbl.drop t.walkers w ∧ v.mem = s.mem ∧ v.hart = s.hart)) ∧
  (∀ (s : State) (stk w g slot lid base : Nat),
     let x := (s.stack stk).walkers.look w {}
     let l := s.launchAt x.home x.launch
     let ws := l.words
     stk < 24 → s.connected stk x.home = true → recGang ws < 2 → recHarts ws = 1 → (s.startKey x.home l).le (s.stack stk).settled = true →
     x.state = .active → x.next < x.stop → l.state = .running → s.coresHeld stk x.home x.launch < recLimit ws →
     ((coresOf stk).filter fun g => s.eligible g ws).head? = some g → (s.freeSlotsOf g).head? = some slot →
     s.freeLogId l.nextLog = some lid → s.freeRing stk (2 ^ recLogSize ws) = some base → s.hart.key ≠ lid →
     ∃ t y, exec (.placement stk w) s = .next t ∧ t.ctx lid = some y ∧ y.loc = 4 * g + slot ∧ y.slot = .ready ∧
       y.pc = recWord ws 0 ∧ y.regs.rs 2 = 0x10000 ∧ y.regs.rs 3 = recWord ws 1 ∧
       y.regs.grant = takeLow (s.core g).freeClusters (recClusters ws) ∧ y.usemask = recUse ws ∧ y.domain = l.domain ∧
       y.cap = recCap ws ∧ y.prio = recPrio ws ∧ y.sprint = recSprint ws ∧ y.launchId = x.launchId ∧ y.instStack = stk ∧
       (t.log lid).used = true ∧ (t.log lid).base = base ∧ (t.log lid).floor = (s.stack stk).settled ∧
       ((t.stack stk).walkers.look w {}).bound = x.bound ++ [lid]) ∧
  (∀ (s t : State) (stk w : Nat), stk < 24 → s.placeNext stk w = some t → ((s.log s.hart.key).used = true ∨ 65280 ≤ s.hart.key) →
     let x := (s.stack stk).walkers.look w {}
     let l := s.launchAt x.home x.launch
     let ws := l.words
     let n := if 2 ≤ recGang ws then recGang ws else recHarts ws
     let cores := ((coresOf stk).filter fun g => s.eligible g ws).take (recCores ws)
     recGang ws ≤ 64 → ∃ lids : List Nat, lids.length = n ∧ lids.Nodup ∧
       ((t.stack stk).walkers.look w {}).bound = x.bound ++ lids ∧
       ∀ j, j < n → (t.log (lids.getD j 0)).used = true ∧ ∃ y, t.ctx (lids.getD j 0) = some y ∧ y.service = false ∧
         y.core = cores.getD (j / recHarts ws) 0 ∧ (s.freeSlotsOf y.core)[j % recHarts ws]? = some y.slotNo ∧
         y.slot = .ready ∧ y.pc = recWord ws 0 ∧ y.regs.rs 2 = 0x10000 ∧ y.regs.rs 3 = recWord ws 1 ∧ y.usemask = recUse ws ∧
         y.domain = l.domain ∧ y.home = x.home ∧ y.launch = x.launch ∧ y.serial = x.serial ∧ y.instStack = stk ∧
         popc y.regs.grant = recClusters ws ∧ y.regs.grant &&& ~~~(s.core y.core).freeClusters = 0 ∧
         (2 ≤ recGang ws → ∃ i, s.freeGang stk = some i ∧ y.gangIdx = BitVec.ofNat 10 i ∧ y.gangRank.toNat = j ∧
           y.gangSize.toNat = n ∧ (t.gang y.gangKey).members = lids ∧ (t.gang y.gangKey).size = n) ∧
         (recGang ws < 2 → y.inGang = false) ∧
         ∀ k z, k < j → t.ctx (lids.getD k 0) = some z → z.loc ≠ y.loc ∧ (z.core = y.core → z.regs.grant &&& y.regs.grant = 0))

/-- R361: the stack of rank i among the k of the mask receives the indexes from N i / k to N (i + 1) / k as one walker
instance, and an empty piece makes none; so the pieces are disjoint and together hold every index of the range. R357: in the
orders other than Morton's, every index of the range names a tile of the grid, and no tile twice. -/
def Obligations.PiecesAndTilesPartitionTheRange : Prop :=
  (∀ (ws : List Word),
     let count := ((List.range 24).filter (recStack ws)).length
     let rank (k : Nat) : Nat := ((List.range k).filter (recStack ws)).length
     (∀ k a b, (k, a, b) ∈ recPieces ws ↔ k < 24 ∧ recStack ws k = true ∧ a = recRange ws * rank k / count ∧
       b = recRange ws * (rank k + 1) / count ∧ a < b) ∧
     (∀ n, (∃ k, k < 24 ∧ recStack ws k = true) → n < recRange ws →
       ∃ p ∈ recPieces ws, recStack ws p.1 = true ∧ p.2.1 ≤ n ∧ n < p.2.2 ∧
         ∀ q ∈ recPieces ws, q.2.1 ≤ n → n < q.2.2 → q = p) ∧
     (∀ (s u : State) (home idx w : Nat) (p : Nat × Nat × Nat), p.1 < 24 → freeIndex (s.stack p.1).walkers 32 = some w →
       s.reaches home p.1 = true → s.holdEntry p.1 home idx = some u →
       ∃ v, s.makePiece home idx p = some v ∧ ((v.stack p.1).walkers.look w {}).state = .active ∧
         ((v.stack p.1).walkers.look w {}).next = p.2.1 ∧ ((v.stack p.1).walkers.look w {}).stop = p.2.2 ∧
         ((v.stack p.1).walkers.look w {}).home = home ∧ ((v.stack p.1).walkers.look w {}).launch = idx)) ∧
  (∀ (ws : List Word) (m n : Nat), recA ws 20 2 ≠ 2 → (∀ t ∈ recTiles ws, 0 < t) → m < recRange ws → n < recRange ws →
     (∃ c, tileOf ws n = some c ∧ c.length = recDims ws ∧ ∀ d, d < recDims ws → c.getD d 0 < (recTiles ws).getD d 0) ∧
     (tileOf ws m = tileOf ws n → m = n))

/-- R221, R370: a test of a core that is due begins; one that is over ends with the bits that failed fenced off and the next
one due a period later; a test past its deadline keeps new contexts away; a hart in CAPTEST goes on with what failed. R310: a
refresh slot that is due is taken once, and has the row operations of a microprogram that have not ended wait for the slot's
end, 108 ticks after its beginning, and counts the ticks they wait; every 1.0 ms the sensors decide
which dies refresh twice as often: above 85 degrees, and until 83. That a row operation which a slot interrupts begins again
at the slot's end (notes/assumptions/3.md), and the times at which tests are due (notes/assumptions/64.md), are this model's
readings. -/
def Obligations.TestsAndRefresh : Prop :=
  (∀ (s : State) (core u : Nat) (failed bits : Word) (x : Hart), core < 1152 →
     (s.testFalls core = true → exec (.infieldTestDue core) s =
       .next (s.modCore core fun c => { c with testRun := some (Config.testTicks, c.capmask) })) ∧
     (s.testFalls core = false → exec (.infieldTestDue core) s = .next s) ∧
     (s.testOverdue core = true → exec (.infieldTestDeadline core) s = .next (s.modCore core fun c => { c with testBlock := true })) ∧
     (s.testOverdue core = false → exec (.infieldTestDeadline core) s = .next s) ∧
     ((s.core core).testRun = some (0, bits) → exec (.infieldTestEnd core failed) s =
       .next ((s.endTest core none bits (bits &&& failed)).modCore core fun c =>
         { c with testRun := none, testBlock := false, testDue := c.testDue + testPeriod })) ∧
     ((s.core core).testRun = none → s.captesting core = some x → ContextsKeyed s → s.ctx x.key = some x → x.phase = .testing u bits →
       u ≤ (s.time x.stk).toNat → ∃ t, exec (.infieldTestEnd core failed) s = .next t ∧
         ContextBecomes s t x.key { x with phase := .returned 0 [failed, bits], tried := false }) ∧
     ((s.core core).testRun = none → s.captesting core = none → exec (.infieldTestEnd core failed) s = .next s)) ∧
  (∀ (s : State) (stk die : Nat), stk < 24 → die < 12 →
     let t := s.stack stk
     let now := (s.time stk).toNat
     let taken := s.modStack stk fun t => { t with refreshed := t.refreshed.put die (now + 1) }
     (t.slotDue now die = false → exec (.refreshSlot stk die) s = .next s) ∧
     let c := t.channels.look die {}
     let ended := Nat.min c.left ((now - c.clock) / 28)
     let idle : Prop := c.run = none ∨ c.hung ≠ none ∨ ended = c.left
     (t.slotDue now die = true → idle → exec (.refreshSlot stk die) s = .next taken) ∧
     (t.slotDue now die = true → ¬ idle → c.clock < now + 108 → exec (.refreshSlot stk die) s = .next ((taken.modStack stk fun t =>
       { t with channels := t.channels.put die { c with left := c.left - ended, clock := now + 108 } }).count stk 0x128
         (now + 108 - (c.clock + 28 * ended)))) ∧
     (now % 600000 ≠ 0 ∨ t.sensed = some now → exec (.dramSensorRead stk) s = .next s) ∧
     (now % 600000 = 0 → t.sensed ≠ some now → ∃ u, exec (.dramSensorRead stk) s = .next u ∧ (u.stack stk).sensed = some now ∧
       (die ∈ (u.stack stk).hot ↔ 85 < t.temps.look (2 + die) 0 ∨ (die ∈ t.hot ∧ 83 < t.temps.look (2 + die) 0)) ∧
       u.mem = s.mem ∧ u.hart = s.hart))

/-- R15, R309, R318: a free channel takes the next member of its die's queue, while no more than 128 groups of the stack compute;
BSETL, BALLOC (whose effect was at their commit point, R306) and a member with a grant of zero complete at once; a channel that
runs, a reset BCP or an empty queue takes none. That a channel hangs is an input (notes/assumptions/103.md). A microprogram that ends frees its channel, and its log counts
one bank member less. R274, R314 to R316, R323: a lock takes effect at its turn with its lease counted from then; a release
and the expiry of a lease free its entry; a stuck channel resets the BCP, which empties its channels and lasts 4,096 ticks. -/
def Obligations.BankChannelsAndRowLocks : Prop :=
  (∀ (s : State) (stk die : Nat) (bad : BankEnd) (c : BankCmd), stk < 24 → die < 12 →
     let t := s.stack stk
     let ch := t.channels.look die {}
     let now := (s.time stk).toNat
     let slot := t.refreshed.look die 0
     let atOnce : Prop := c.isGrant = true ∨ c.grant = 0
     let room : Prop := c.isGrant = true ∨ (t.channels.map fun c => match c.2.run with | some r => r.grant | none => 0).sum + c.grant ≤ 128
     (ch.run ≠ none ∨ t.bcpReset ≠ none ∨ t.nextBank die = none → exec (.bankMicroprogramStart stk die) s = .next s) ∧
     (t.nextBank die = some c → ¬ room → exec (.bankMicroprogramStart stk die) s = .next s) ∧
     (ch.run = none → t.bcpReset = none → t.nextBank die = some c → room → ¬ atOnce → ∃ u,
       exec (.bankMicroprogramStart stk die) s = .next u ∧ u.mem = s.mem ∧ (u.stack stk).bcpq = (t.dequeue c).bcpq ∧
       (u.stack stk).channels = t.channels.put die { run := some c, left := c.cycles, clock := Nat.max now (if slot = 0 then now else slot + 107) }) ∧
     (ch.run = none → t.bcpReset = none → t.nextBank die = some c → room → atOnce → ∃ u,
       exec (.bankMicroprogramStart stk die) s = .next u ∧ u.mem = s.mem ∧ (u.stack stk).bcpq = (t.dequeue c).bcpq ∧
       ((s.log c.log).alive = true → (u.log c.log).bankOut = (s.log c.log).bankOut - 1)) ∧
     (ch.run = none ∨ ch.hung ≠ none → exec (.bankCompletion stk die bad) s = .next s) ∧
     (ch.run = some c → ch.hung = none → ∃ u, exec (.bankCompletion stk die bad) s = .next u ∧ ((u.stack stk).channels.look die {}).run = none ∧
       ((s.log c.log).alive = true → (u.log c.log).bankOut = (s.log c.log).bankOut - 1))) ∧
  (∀ (s : State) (stk n die u : Nat) (c : BankCmd) (l : RowLock), stk < 24 → n < 64 → die < 12 →
     let t := s.stack stk
     let now := (s.time stk).toNat
     let frees (i : Instr) : Prop := ∃ v, exec i s = .next v ∧ ∀ e ∈ (v.stack stk).locks, e.1 ≠ n
     (t.lockReady n = none → exec (.rowLockEffective stk n) s = .next s) ∧
     (t.lockReady n = some c → ∃ v, exec (.rowLockEffective stk n) s = .next v ∧ v.mem = s.mem ∧
       ((n, l) ∈ t.locks → (n, { l with effective := true, lease := now + l.lease }) ∈ (v.stack stk).locks) ∧
       (∀ e ∈ (v.stack stk).bcpq, e ∈ t.bcpq ∧ e.seq ≠ c.seq)) ∧
     (t.brulOf n = some c → frees (.rowRelease stk n)) ∧
     (t.brulOf n = none → t.endedLock n = none → exec (.rowRelease stk n) s = .next s) ∧
     (t.brulOf n = none → t.endedLock n = some l → s.bankKeyReady stk = true → frees (.rowRelease stk n)) ∧
     (t.brulOf n = none → t.endedLock n = some l → s.bankKeyReady stk = false → exec (.rowRelease stk n) s = .next s) ∧
     (s.leaseOver stk n = none → exec (.leaseExpiry stk n) s = .next s) ∧
     (s.leaseOver stk n = some l → s.bankKeyReady stk = true → frees (.leaseExpiry stk n)) ∧
     (s.leaseOver stk n = some l → s.bankKeyReady stk = false → (∀ c ∈ t.bcpq, c.stk = stk) → ∃ v, exec (.leaseExpiry stk n) s = .next v ∧ v.mem = s.mem ∧
       (∀ e ∈ (v.stack stk).locks, e.1 = n → e.2.expired = true) ∧
       (l.expired = false → ∀ f ∈ l.frames, (v.stack stk).rows.look f .whole = .torn) ∧
       ∀ c ∈ (v.stack stk).bcpq, c.gang = l.gang → c.touches l = false) ∧
     (s.channelStuck stk die = false → exec (.bcpWatchdogReset stk die) s = .next s) ∧
     (s.channelStuck stk die = true → ∃ v, exec (.bcpWatchdogReset stk die) s = .next v ∧ (v.stack stk).channels = [] ∧
       (v.stack stk).bcpReset = some (now + 4096)) ∧
     (t.bcpReset = some u → t.bcpq = [] → exec (.bcpResetEnd stk) s =
       .next (if u ≤ now then s.modStack stk fun t => { t with bcpReset := none } else s)) ∧
     (t.bcpReset = some u → (∀ c ∈ t.bcpq, c.stk = stk) → ∃ v, exec (.bcpResetEnd stk) s = .next v ∧ v.mem = s.mem ∧
       (v.stack stk).bcpq = [] ∧ (v.stack stk).bcpReset = if u ≤ now then none else some u) ∧
     (t.bcpReset = none → exec (.bcpResetEnd stk) s = .next s))

/-- R318, R324 to R331: a computing member whose widths agree, and BLDP and VTOB of any width, write no byte of memory outside
the rows of their destination plane in the groups of their grant; BTOV, BRED and BSEAL write none, and BSTP none but the bytes
of its elements. -/
def Obligations.BankComputationWritesItsRowsOnly : Prop :=
  ∀ (s : State) (stk die : Nat) (bad : BankEnd) (c : BankCmd) (d a b k : BReg) (sgn sat col : Bool) (x : BCond) (n : BitVec 5)
    (v : BitVec 5) (sa sb sc : SReg), stk < 24 → die < 12 →
    ((s.stack stk).channels.look die {}).run = some c →
    (c.instr = .btov v a sc sgn ∨ c.instr = .bred sc a ∨ c.instr = .bseal a →
      ∃ u, exec (.bankCompletion stk die bad) s = .next u ∧ u.mem = s.mem) ∧
    (((c.instr = .bnot d a ∨ c.instr = .band d a b ∨ c.instr = .bor d a b ∨ c.instr = .bxor d a b ∨ c.instr = .bmaj d a b k ∨
        c.instr = .bsel d a b k ∨ c.instr = .bshl d a n col ∨ c.instr = .bshr d a n col sgn) ∧ planeWidth c.a = planeWidth c.d ∨
      (c.instr = .bmulc d a sc sgn ∨ c.instr = .bmac d a b sgn ∨ c.instr = .bmact d b sc sgn ∨
        c.instr = .bldp d sa sb sgn sat ∨ c.instr = .vtob d v sc sgn sat) ∨
      (c.instr = .badd d a b sgn sat ∨ c.instr = .bsub d a b sgn sat) ∧ planeWidth c.a = planeWidth c.d ∧ 0 < planeWidth c.a ∧ planeWidth c.b = planeWidth c.d ∨
      c.instr = .bcmp d a b x sgn ∧ planeWidth c.d = 1) →
      ∃ u, exec (.bankCompletion stk die bad) s = .next u ∧ ∀ m,
      (∀ i r, i < c.grant → r ∈ planeRows c.d →
        m < frameAddr c.stk (frameNo (c.a0 + planeOff c.d + i) r) ∨ frameAddr c.stk (frameNo (c.a0 + planeOff c.d + i) r) + 65536 ≤ m) →
      u.mem.read m = s.mem.read m) ∧
    (c.instr = .bstp a sa sb sgn → ∃ u, exec (.bankCompletion stk die bad) s = .next u ∧ ∀ m,
      let w := tagWidth (planeTag c.a)
      (∀ e i, e < c.y.toNat → e < c.grant * groupCols → i < elemBytes w →
        m ≠ granuleByte c.elems c.x.toNat (e * w / 8 + i)) → u.mem.read m = s.mem.read m)

/-- R308, R327, R328: in every column, BADD adds and BSUB subtracts the values of the planes modulo their width, or with .sat
clamps the exact result to the range of the width, unsigned or with .s signed, and SAT tells whether a column was clamped; BCMP
compares the values, unsigned or signed. R326: BNOT, BAND, BOR, BXOR and BMAJ act on the bits of the values, BSEL takes one of
two, BSHL and BSHR multiply and divide by a power of two, or move the elements within each subarray. R329, R330: BMULC, BMAC and
BMACT are exact products, modulo the width of the destination. A member that ends leaves these rows, and those of R324 and R325
with the elements placed, in its destination plane in memory; R325: BRED answers the sum of the values of all columns. -/
def Obligations.BankArithmeticActsByColumn : Prop :=
  (∀ (a b : List Row) (col : Nat), a.length = b.length → 0 < a.length → col < 524288 →
    let w := a.length
    let x := columnOf a col
    let y := columnOf b col
    columnOf (addSub a b false false false).1 col = (x + y) % 2 ^ w ∧
    columnOf (addSub a b true false false).1 col = (x + (2 ^ w - y)) % 2 ^ w ∧
    (cmpRows a b .eq false).getLsbD col = decide (x = y) ∧
    (cmpRows a b .ne false).getLsbD col = decide (x ≠ y) ∧
    (cmpRows a b .lt false).getLsbD col = decide (x < y) ∧
    (cmpRows a b .ge false).getLsbD col = decide (y ≤ x) ∧
    (cmpRows a b .lt true).getLsbD col = decide (signedOf w x < signedOf w y) ∧
    (cmpRows a b .ge true).getLsbD col = decide (signedOf w y ≤ signedOf w x) ∧
    (cmpRows a b .eq true).getLsbD col = decide (x = y) ∧ (cmpRows a b .ne true).getLsbD col = decide (x ≠ y) ∧
    columnOf (addSub a b false true false).1 col = (x + y) % 2 ^ w ∧
    columnOf (addSub a b true true false).1 col = (x + (2 ^ w - y)) % 2 ^ w ∧
    (∀ sub sgn, (addSub a b sub sgn false).2 = false) ∧
    columnOf (addSub a b false false true).1 col = Nat.min (x + y) (2 ^ w - 1) ∧
    columnOf (addSub a b true false true).1 col = x - y ∧
    (let clamp (z : Int) : Int := max (-(2 ^ (w - 1) : Nat)) (min z ((2 ^ (w - 1) : Nat) - 1))
     signedOf w (columnOf (addSub a b false true true).1 col) = clamp (signedOf w x + signedOf w y) ∧
     signedOf w (columnOf (addSub a b true true true).1 col) = clamp (signedOf w x - signedOf w y)) ∧
    (let any (p : Nat → Nat → Prop) : Prop := ∃ k, k < 524288 ∧ p (columnOf a k) (columnOf b k)
     let beyond (z : Int) : Prop := z < -(2 ^ (w - 1) : Nat) ∨ ((2 ^ (w - 1) : Nat) : Int) ≤ z
     ((addSub a b false false true).2 = true ↔ any fun p q => 2 ^ w ≤ p + q) ∧
     ((addSub a b true false true).2 = true ↔ any fun p q => p < q) ∧
     ((addSub a b false true true).2 = true ↔ any fun p q => beyond (signedOf w p + signedOf w q)) ∧
     ((addSub a b true true true).2 = true ↔ any fun p q => beyond (signedOf w p - signedOf w q)))) ∧
  (∀ (a b c d : List Row) (r : Row) (k : Nat) (x : Word) (sgn : Bool) (col : Nat), col < 524288 → 0 < a.length → 0 < b.length →
    let w := a.length
    let p := columnOf a col
    let q := columnOf b col
    let value (rs : List Row) : Int := if sgn then signedOf rs.length (columnOf rs col) else columnOf rs col
    let byte : Int := if sgn then signedOf 8 (x.toNat % 256) else x.toNat % 256
    columnOf (a.map fun r => ~~~r) col = 2 ^ w - 1 - p ∧
    (b.length = w →
      columnOf (List.zipWith (fun p q => p &&& q) a b) col = p &&& q ∧
      columnOf (List.zipWith (fun p q => p ||| q) a b) col = p ||| q ∧
      columnOf (List.zipWith (fun p q => p ^^^ q) a b) col = p ^^^ q ∧
      columnOf (selRows a b r) col = (if r.getLsbD col then p else q) ∧
      (c.length = w → columnOf ((List.range w).map fun k => maj3 (a.getD k 0) (b.getD k 0) (c.getD k 0)) col =
        (p &&& q) ||| (p &&& columnOf c col) ||| (q &&& columnOf c col))) ∧
    columnOf (shlRows a k false) col = p * 2 ^ k % 2 ^ w ∧ columnOf (shrRows a k false sgn) col = intBits w (value a / 2 ^ k) ∧
    (k ≤ 8192 →
      columnOf (shlRows a k true) col = (if k ≤ col % 8192 then columnOf a (col - k) else 0) ∧
      columnOf (shrRows a k true false) col = (if col % 8192 + k < 8192 then columnOf a (col + k) else 0)) ∧
    columnOf (mulcRows a d.length x sgn) col = intBits d.length (value a * x.toNat) ∧
    columnOf (macRows d a b sgn) col = intBits d.length (columnOf d col + value a * value b) ∧
    columnOf (mactRows d c x sgn) col = intBits d.length (columnOf d col +
      if (c.getD 0 0).getLsbD col = false then 0 else if (c.getD 1 0).getLsbD col then -byte else byte) ∧
    r.ones = ((List.range 524288).map fun c => if r.getLsbD c then 1 else 0).sum) ∧
  (∀ (s : State) (stk die : Nat) (bad : BankEnd) (c : BankCmd) (d a b k : BReg) (sgn sat col : Bool) (x : BCond) (n : BitVec 5)
    (v : BitVec 5) (sa sb sc : SReg), stk < 24 → die < 12 → ((s.stack stk).channels.look die {}).run = some c →
    ((s.stack stk).channels.look die {}).hung = none →
    let wd := planeWidth c.d
    let one := planeWidth c.a = wd
    let two := planeWidth c.a = wd ∧ planeWidth c.b = wd
    let rows (p : BitVec 128) (i : Nat) : List Row := (s.bankPlane c p i).1
    let put (i : Nat) := sliceOf (s.bankElems c).1 i ((s.bankElems c).2.map Prod.fst)
    let result (i : Nat) : List Row :=
      (bankResult c (rows c.a i) (rows c.b i) (rows c.c i) (if c.readsDest then rows c.d i else []) (put i).1 (put i).2).1
    ((c.instr = .bnot d a ∨ c.instr = .bmaj d a b k ∨ c.instr = .bshl d a n col ∨ c.instr = .bshr d a n col sgn) ∧ one ∨
      (c.instr = .band d a b ∨ c.instr = .bor d a b ∨ c.instr = .bxor d a b ∨ c.instr = .bsel d a b k) ∧ two ∨
      (c.instr = .badd d a b sgn sat ∨ c.instr = .bsub d a b sgn sat) ∧ two ∧ 0 < wd ∨ c.instr = .bcmp d a b x sgn ∧ wd = 1 ∨
      c.instr = .bmulc d a sc sgn ∨ c.instr = .bmac d a b sgn ∨ c.instr = .bmact d b sc sgn ∨
      c.instr = .bldp d sa sb sgn sat ∨ c.instr = .vtob d v sc sgn sat →
      Memory.wf s.mem = true → (∀ p ∈ [c.a, c.b, c.c], planeWidth p = 0 ∨ planeOff p = planeOff c.d) →
      (∀ p ∈ [c.a, c.b, c.c, c.d], ∀ r ∈ planeRows p, r < 992) →
      ∃ u, exec (.bankCompletion stk die bad) s = .next u ∧ ∀ i j, i < c.grant → j < wd →
        u.mem.row c.stk (frameNo (c.a0 + planeOff c.d + i) (planeBase c.d + j)) = (result i).getD j 0) ∧
    (c.instr = .bred sc b → ContextsKeyed s → ∀ h, s.ctx c.log = some h →
      ∃ u y, exec (.bankCompletion stk die bad) s = .next u ∧ u.ctx c.log = some y ∧
        y.bankWord = some (BitVec.ofNat 64 (((List.range c.grant).map fun i =>
          ((List.range 524288).map fun col => columnOf (rows c.a i) col).sum).sum))))

/-! ## Events of the module -/

/-- R243: a residency command is taken when none is in progress; its end marks its frame in the lowest free entry, or unmarks
it, and a move that cannot be made fails. R6, R387: the master's TIME goes to every other stack when it is 0 modulo 65,536,
and arrives after 6 ticks a hop; the copy of a stack that differs catches up or waits by one tick; a beacon that has not come
for 131,072 ticks is reported once; that the ticks before the first beacon count is this model's reading
(notes/assumptions/112.md). -/
def Obligations.ResidencyAndTimeBeacons : Prop :=
  (∀ (s : State) (stk : Nat) (v : Word) (r : Tbl Word), stk < 24 →
     let t := s.stack stk
     (t.resCmd = none → exec (.residencyCommand stk v) s =
       .next (s.modStack stk fun t => { t with resCmd := some (v &&& 0xFFFFFFFF0001), resFailed := false })) ∧
     (t.resCmd ≠ none → ∃ u, exec (.residencyCommand stk v) s = .next u ∧ u.stack stk = t ∧ u.mem = s.mem ∧ u.hart = s.hart) ∧
     (t.resCmd = none → exec (.residencyDone stk) s = .next s) ∧
     (t.resCmd = some v → t.moveResident stk v = some r → ∃ u, exec (.residencyDone stk) s = .next u ∧
       (u.stack stk).residency = r ∧ (u.stack stk).resCmd = none ∧ (u.stack stk).locks = t.locks ∧ (u.stack stk).mq = t.mq ∧
       u.mem = s.mem ∧ u.hart = s.hart) ∧
     (∀ f, v = BitVec.ofNat 64 (f * 65536 + 1) → f < 2 ^ 32 → f / (Config.stackSlot / 65536) = stk →
       f % (Config.stackSlot / 65536) < Config.homeBytes / 65536 → (∀ e ∈ t.residency, e.2 ≠ BitVec.ofNat 64 (f * 65536 + 1)) →
       ∀ i, (List.range 4608).find? (fun i => !((t.residency.look i 0).getLsbD 0)) = some i →
         t.moveResident stk v = some (t.residency.put i v)) ∧
     (t.resCmd = some v → t.moveResident stk v = none →
       exec (.residencyDone stk) s = .next (s.modStack stk fun t => { t with resCmd := none, resFailed := true }))) ∧
  (∀ (s : State) (stk : Nat) (t : Word),
     let want := (t + BitVec.ofNat 64 (6 * (stk % 6 + stk / 6))).toNat
     let now := (s.time stk).toNat
     let x := s.stack stk
     ((s.time 0).toNat % 65536 ≠ 0 ∨ (s.stack 0).timeSent = some (s.time 0).toNat → exec .timeBeacon s = .next s) ∧
     ((s.time 0).toNat % 65536 = 0 → (s.stack 0).timeSent ≠ some (s.time 0).toNat → ∃ u, exec .timeBeacon s = .next u ∧
       (u.stack 0).timeSent = some (s.time 0).toNat ∧ u.mem = s.mem ∧ u.hart = s.hart ∧
       u.agenda = s.agenda ++ ((List.range 24).drop 1).map fun k =>
         Sched.msg (.time k (s.time 0) (s.ticks + BitVec.ofNat 64 (6 * (k % 6 + k / 6))))) ∧
     (stk < 24 → ∃ u, exec (.timeBeaconReceive stk t) s = .next u ∧ (u.stack stk).timeLate = false ∧
       (u.stack stk).timeBeacon = now ∧
       (u.stack stk).adjust = (if now < want then 1 else if want < now then -1 else 0) ∧ u.mem = s.mem ∧ u.hart = s.hart) ∧
     (0 < stk → stk < 24 → x.timeLate = false → x.timeBeacon + 131072 ≤ now → ∃ u, exec (.timeBeaconOverdue stk) s = .next u ∧
       (u.stack stk).timeLate = true ∧ u.mem = s.mem ∧ u.hart = s.hart) ∧
     (stk < 24 → (stk = 0 ∨ x.timeLate = true ∨ now < x.timeBeacon + 131072) → exec (.timeBeaconOverdue stk) s = .next s))

/-- R396, R397: a freeze stops the writing of a buffer after one freeze event, with its time and cause; a fatal error tells
every other stack, whose buffers freeze when the message arrives, and so does the host's request of a module that is up (R447); board management tells them when the first is frozen too; a frozen buffer counts what it drops until it is cleared.
R397, R449 to R451: board management freezes every buffer, reads up to eight entries of a photo-finish buffer and up to
sixteen counters, and clears a frozen bit while clocks run; a key-wrapping key is taken only in a session with mutual
authentication. The completion code 0 of the answers is this model's (notes/assumptions/54.md). -/
def Obligations.FrozenBuffersAndBoardManagement : Prop :=
  (∀ (s : State) (stk cause detail : Nat) (ty agent slot lg hart : Nat) (a b : Word), stk < 24 →
     let p := (s.stack stk).pfb
     let frozen (u : State) : Prop := (u.stack stk).pfb.frozen = true ∧ (u.stack stk).pfb.freezeTime = s.time stk ∧
       (u.stack stk).pfb.freezeCause = cause ∧ (u.stack stk).pfb.idx = p.idx + 1 ∧ (u.stack stk).pfb.seq = p.seq + 1 ∧
       u.mem = s.mem ∧ u.hart = s.hart
     (p.frozen = false → ∃ u, exec (.freezeMessage stk cause detail) s = .next u ∧ frozen u ∧ u.agenda = s.agenda) ∧
     (p.frozen = true → exec (.freezeMessage stk cause detail) s = .next s) ∧
     (1 ≤ cause → cause ≤ 5 → (cause = 5 → s.bringUp = 6 ∧ s.stopped = false) → p.frozen = false → ∃ u, exec (.pfbFreeze stk cause detail) s = .next u ∧ frozen u ∧
       ∀ k, k < 24 → k ≠ stk → Sched.msg (.freeze stk k cause detail) ∈ u.agenda) ∧
     (s.bringUp = 6 → s.stopped = false → p.frozen = true → ∃ u, exec (.pfbFreeze stk 5 detail) s = .next u ∧ u.stack stk = s.stack stk ∧ u.mem = s.mem ∧ u.hart = s.hart ∧
       ∀ k, k < 24 → k ≠ stk → Sched.msg (.freeze stk k 5 detail) ∈ u.agenda) ∧
     (cause = 0 ∨ 5 < cause ∨ (p.frozen = true ∧ cause ≠ 5) ∨ (cause = 5 ∧ (s.bringUp ≠ 6 ∨ s.stopped = true)) → exec (.pfbFreeze stk cause detail) s = .next s) ∧
     (p.frozen = true → s.pfb stk ty agent slot lg hart a b = s.count stk 0x60 1) ∧
     (∃ u, exec (.pfbClearFrozen stk) s = .next u ∧ (u.stack stk).pfb = { p with frozen := false } ∧ u.mem = s.mem ∧ u.hart = s.hart)) ∧
  (∀ (s : State) (stk first off count : Nat) (both : Bool) (key : BitVec 256),
     let p := (s.stack stk).pfb
     let answers (i : Instr) (code : Nat) (bs : List Byte) : Prop := exec i s = .next { s with out := .pldm code bs :: s.out }
     ((s.stack 0).pfb.frozen = false → ∃ u, exec .pldmFreeze s = .next u ∧ (u.stack 0).pfb.frozen = true ∧
       (u.stack 0).pfb.freezeCause = 5 ∧ (∀ k, 0 < k → k < 24 → Sched.msg (.freeze 0 k 5 1) ∈ u.agenda) ∧ u.mem = s.mem ∧ u.hart = s.hart) ∧
     ((s.stack 0).pfb.frozen = true → ∃ u, exec .pldmFreeze s = .next u ∧ u.stack 0 = s.stack 0 ∧
       (∀ k, 0 < k → k < 24 → Sched.msg (.freeze 0 k 5 1) ∈ u.agenda) ∧ u.mem = s.mem ∧ u.hart = s.hart) ∧
     (stk < 24 → first < 4096 → 0 < count → count ≤ 8 → answers (.readPhotoFinishEntries stk first count) 0
       (bytesOf p.idx.toNat 2 ++ bytesOf p.seq.toNat 4 ++ bytesOf (if p.frozen then 1 else 0) 1 ++ bytesOf p.freezeTime.toNat 8 ++
         bytesOf p.freezeCause 1 ++ (List.range count).flatMap fun i =>
           bytesOfWords (p.entries.look ((first + i) % 4096) (List.replicate 4 0)))) ∧
     (stk < 24 → off % 8 = 0 → 0 < count → count ≤ 16 → off + 8 * count ≤ 0x1000 → answers (.readCounterBlock stk off count) 0
       (bytesOfWords ((List.range count).map fun i => (s.stack stk).block.look (off + 8 * i) 0))) ∧
     (stk < 24 → s.stopped = false → ∃ u, exec (.clearFrozen stk) s = .next u ∧ (u.stack stk).pfb = { p with frozen := false } ∧
       u.mem = s.mem ∧ u.hart = s.hart ∧ u.out = .pldm 0 [] :: s.out) ∧
     (s.bringUp = 6 → s.stopped = false → exec (.spdmKeyExchange both) s = .next { s with spdm := both }) ∧
     (s.bringUp ≠ 6 ∨ s.stopped = true → exec (.spdmKeyExchange both) s = .next s) ∧
     (s.spdm = true → s.stopped = false → ∃ u, exec (.spdmKeyWrap key) s = .next u ∧ (∀ k, k < 24 → (u.stack k).kwk = some key) ∧
       u.mem = s.mem ∧ u.hart = s.hart) ∧
     (s.spdm = false ∨ s.stopped = true → exec (.spdmKeyWrap key) s = .next s))

/-- R214, R218, R219, R393, R405, R449: a write of the control space has the effect of its item, and where the map allows none
has none: capability masks are only cleared, but in step 5 of a cold bring-up; a release frees halted harts; translations are
dropped; the fourth doubleword completes a key; bindings of locked channels stay; counters are cleared by zero. -/
def Obligations.ControlSpaceWritesReachTheirItems : Prop :=
  ∀ (s : State) (stk c n off : Nat) (v : Word), stk < 24 →
    let g := 48 * stk + c
    let capmask := (s.core g).capmask
    let fw := (s.core g).fwCapmask
    (exec (.serviceControlWrite stk off v) s = .next ((s.controlWrite stk off v).getD s)) ∧
    (off % 8 ≠ 0 → exec (.serviceControlWrite stk off v) s = .next s) ∧
    (c < 48 → ∃ u, exec (.capmaskWrite stk c v) s = .next u ∧ u.mem = s.mem ∧ u.hart = s.hart ∧
      (u.core g).capmask = (if s.bringUp = 4 ∧ s.warm = false then v &&& Config.allCaps else capmask &&& v) ∧ (u.core g).fwCapmask = fw) ∧
    (c < 48 → ∃ u, exec (.firmwareCapmaskWrite stk c v) s = .next u ∧ u.mem = s.mem ∧ u.hart = s.hart ∧
      (u.core g).fwCapmask = (if s.bringUp = 4 ∧ s.warm = false then v &&& Config.allCaps else fw &&& v) ∧ (u.core g).capmask = capmask) ∧
    (c < 48 → ContextsKeyed s → ∃ u, exec (.haltRelease stk c v) s = .next u ∧ u.mem = s.mem ∧ ∀ k x, s.ctx k = some x →
      u.ctx k = some (if x.service = false ∧ x.core = g ∧ x.resident = true ∧ v.getLsbD x.slotNo = true ∧ x.phase = .halted then
        { x with phase := .released 0 } else x)) ∧
    (v = BitVec.allOnes 64 → ∃ u, exec (.stackPtinv stk v) s = .next u ∧
      (∀ e ∈ u.cores, e.1 / 48 = stk → e.2.tlb = []) ∧ u.mem = s.mem ∧ u.hart = s.hart) ∧
    (∃ u, exec (.keyWrapKeyWrite stk v) s = .next u ∧ (u.stack stk).kwk = some (v ++ (s.stack stk).kwkParts.look 2 0 ++
      (s.stack stk).kwkParts.look 1 0 ++ (s.stack stk).kwkParts.look 0 0) ∧ u.mem = s.mem) ∧
    (n < 64 → s.bindingOk stk n v = true → ∃ u, exec (.channelBindingWrite stk n v) s = .next u ∧
      ((u.stack stk).chans.look n {}).binding = v &&& 0x8000FFFFFFFFFFFF ∧ u.mem = s.mem) ∧
    (n < 64 → s.bindingOk stk n v = false → exec (.channelBindingWrite stk n v) s = .next s) ∧
    (0x100 ≤ off → counterOffset off = true → ∃ u, exec (.counterClear stk off) s = .next u ∧ (u.stack stk).block.look off 0 = 0 ∧
      (∀ o, o ≠ off → (u.stack stk).block.look o 0 = (s.stack stk).block.look o 0) ∧ u.mem = s.mem ∧ u.hart = s.hart) ∧
    (counterOffset off = false ∨ off < 0x100 → off < 0x20000 → exec (.counterClear stk off) s = .next s)

/-- R388, R404, R405: a request outside the stream of a running TDI stops the TDI and its domain loses its key slots; a write
is one publication of the port, or is dropped whole and counted; a read is answered, refused, or asked for sector by sector at the
homes, where one in a locked row is held (R353); a PTM
request is answered in nanoseconds; what is not open answers a retry, or nothing. The list of arrivals that wait for a key or
a path (notes/assumptions/50.md), the reads sector by sector (notes/assumptions/129.md), the IDE stream as a flag of the request and the unlocked state after a stop
(notes/assumptions/51.md), and the stack whose UECNT counts a dropped write (notes/assumptions/57.md) are this model's
readings. -/
def Obligations.PortsServeTheirDomain : Prop :=
  ∀ (s : State) (port dom pa n d : Nat) (ide run : Bool) (bytes : List Byte) (as : List Nat),
    let ran (i : Instr) (t : State) : Prop := exec i s = .next t
    let hosted : Prop := s.portOpen 0 = true ∨ s.portOpen 1 = true
    let own := s.domainOf port dom
    (port < 10 → s.portOpen port = false → ran (.hostWrite port dom pa ide bytes) s) ∧
    (port < 10 → s.portOpen port = true → s.outsideStream port dom ide = true →
      ran (.hostWrite port dom pa ide bytes) (s.setTdi (dom % 64) .error) ∧
      ran (.hostRead port dom pa n ide) (s.setTdi (dom % 64) .error)) ∧
    (port < 10 → s.portOpen port = true → s.outsideStream port dom ide = false →
      (s.portAddrs own pa bytes.length = none → ran (.hostWrite port dom pa ide bytes) (s.count (portStack port) 0x08 1)) ∧
      (s.portAddrs own pa bytes.length = some as → s.portReady port = true → s.writeWaits port = false →
        ran (.hostWrite port dom pa ide bytes) (((s.takePortKey port).2.publishRecords (portLog port) (s.takePortKey port).1 (recordsFor (as.zip bytes))).ringDoorbells
          port (s.takePortKey port).1 (as.zip bytes))) ∧
      (s.portAddrs own pa bytes.length = some as → (s.portReady port = false ∨ s.writeWaits port = true) →
        ∃ u, ran (.hostWrite port dom pa ide bytes) u ∧ u.mem = s.mem ∧ u.hart = s.hart ∧
          (u.stack (portStack port)).arrivals = (s.stack (portStack port)).arrivals ++ [.write port (as.zip bytes)]) ∧
      (s.portAddrs own pa n = none → ran (.hostRead port dom pa n ide) { s with out := .unsupported port :: s.out }) ∧
      (s.portAddrs own pa n = some as → s.lockedAt as = none → (∀ p ∈ as, s.roundTrip (portStack port) (homeOf p) = true) →
        ∃ u, ran (.hostRead port dom pa n ide) u ∧
          u.out = .completion port ((List.range n).map fun i => s.mem.read (portByte pa i))
            ((List.range n).any fun i => s.badSector (sectorOf (portByte pa i))) :: s.out ∧ u.mem = s.mem ∧ u.hart = s.hart) ∧
      (s.portAddrs own pa n = some as →
        (s.lockedAt as ≠ none ∨ ∃ p ∈ as, s.roundTrip (portStack port) (homeOf p) = false) →
        ∃ u id g, ran (.hostRead port dom pa n ide) u ∧ u.mem = s.mem ∧ u.hart = s.hart ∧ u.out = s.out ∧
          (id, g) ∈ u.gathers ∧ g.reader = .port port ∧ g.pa = pa ∧ g.n = n ∧ ∀ p ∈ as,
            let t := s.stack (homeOf p)
            let way : Prop := portStack port = homeOf p ∨ s.wayFree (portStack port) (homeOf p) = true
            (way → (t.lockOn (frameOf p)).isSome = true → t.deferred.length + as.length ≤ 1024 → t.backlog = [] →
              ∃ k, .read id (sectorOf p) k ∈ (u.stack (homeOf p)).deferred) ∧
            (¬ way → ∃ e ∈ (u.stack (homeOf p)).inbound, e.body = .get id (sectorOf p)))) ∧
    (port < 10 → s.portOpen port = false → s.stopped = false → s.perst.contains port = false →
      ran (.hostRead port dom pa n ide) { s with out := .retry port :: s.out }) ∧
    (port < 2 → s.portOpen port = true → ran (.ptmRequest port)
      { s with out := .ptm port (BitVec.ofNat 64 ((s.time (portStack port)).toNat * 5 / 3)) :: s.out }) ∧
    (d < 64 → ¬ hosted → ran (.tdiLeaveRun d) s ∧ ran (.tdiEnterRun d run) s) ∧
    (d < 64 → hosted → ran (.tdiLeaveRun d) (s.setTdi d .unlocked) ∧ ∃ u, ran (.tdiLeaveRun d) u ∧ u.tdis.look d .unlocked = .unlocked ∧
      u.mem = s.mem ∧ u.hart = s.hart ∧ (s.tdis.look d .unlocked = .run → ∀ k e,
        e ∈ (s.stack k).keySlots → e.2.valid = true → e.2.domain = d → ((u.stack k).keySlots.look e.1 {}).valid = false)) ∧
    (d < 64 → hosted → ran (.tdiEnterRun d run) (match s.tdis.look d .unlocked, run with
      | .unlocked, false => { s with tdis := s.tdis.put d .locked }
      | .locked, true => { s with tdis := s.tdis.put d .run }
      | _, _ => s))

/-- R390, R406 to R409: a doorbell is a write of the port; the engine of a channel holds a 0x01, enters the launch of a pair
under the key of the doorbell, advances a counter under the port's key, notifies a hart, and answers a resynchronisation; each
message consumed advances down consumed, and one that fails is answered with its sequence number and reason. R246, R373, R408: an
up message is written with its tag, and once both are applied at home up produced, which goes to the notification address through
the host port that the model leaves open (notes/assumptions/127.md), as a path leads there; a full
ring waits, and so does what is to go out until the module is up (R447). That the engine writes under the key of the service log is the model's choice (notes/assumptions/53.md); that the reply to
a resynchronisation counts it as consumed, and that a failed launch names the sequence number of its 0x02, are readings
(notes/assumptions/52.md). A
report goes to the report channel of its stack, or nowhere. -/
def Obligations.ChannelMessagesTakeEffectOnce : Prop :=
  (∀ (s : State) (stk ch port q idx : Nat) (v : BitVec 32) (c : ChanView) (m h : List Byte) (k : Key), stk < 24 → ch < 64 →
     let x := (s.stack stk).chans.look ch {}
     let ran (i : Instr) (t : State) : Prop := exec i s = .next t
     let consumed (t : State) (n : Nat) : Prop := t.mem = s.mem ∧
       ((t.stack stk).chans.look ch {}).consumed = some ((c.consumed + n) % 2 ^ 32) ∧
       t.sendsWord (c.desc + 0x28) 4 ((c.consumed + n) % 2 ^ 32)
     let failed (i : Instr) (n w reason : Nat) : Prop := ∃ u, ran i u ∧ consumed u n ∧
       ((u.stack stk).chans.look ch {}).head = none ∧ ((u.stack stk).chans.look ch {}).up = x.up ++ [upWords 0x81 w reason] ∧
       u.hart = s.hart ∧ (u.stack stk).launches = (s.stack stk).launches
     (port < 2 → s.channel stk ch = some c → s.portOpen port = true →
       ran (.doorbell stk ch port v) (s.portWrite port c.domain (c.desc + 0x20) (bytesOf v.toNat 4))) ∧
     (s.downNext stk ch = none → ran (.downLaunchHead stk ch) s ∧ ran (.downLaunchTail stk ch) s ∧
       ran (.downCounterAdvance stk ch) s ∧ ran (.downNotify stk ch) s ∧ ran (.downResync stk ch) s) ∧
     (s.downNext stk ch = some (c, q, none, k, port) →
       ran (.downLaunchHead stk ch) ((s.readDown stk ch).modChan stk ch fun x => { x with doorbells := x.doorbells.filter fun d => !(d.2.1 == k) })) ∧
     (s.downNext stk ch = some (c, q, some m, k, port) → x.head = none →
       (msgType m = 1 → ran (.downLaunchHead stk ch) ((s.readDown stk ch).modChan stk ch fun x => { x with head := some m })) ∧
       (msgType m = 2 → failed (.downLaunchTail stk ch) 1 q 16) ∧
       (msgType m = 0 ∨ 5 < msgType m → failed (.downLaunchHead stk ch) 1 q 17) ∧
       (msgType m = 3 → 4095 < bytesAt m 8 8 → failed (.downCounterAdvance stk ch) 1 q 6) ∧
       (msgType m = 3 → bytesAt m 8 8 ≤ 4095 → bytesAt m 0x10 8 = 0 → ∃ u, ran (.downCounterAdvance stk ch) u ∧ consumed u 1 ∧
         (u.stack stk).ccs = (s.stack stk).ccs) ∧
       (msgType m = 3 → bytesAt m 8 8 ≤ 4095 → bytesAt m 0x10 8 ≠ 0 → s.portReady port = true → ∃ u, ran (.downCounterAdvance stk ch) u ∧ consumed u 1 ∧
         let n := bytesAt m 8 8
         ((u.stack stk).ccs.look n {}).value = ((s.stack stk).ccs.look n {}).value + BitVec.ofNat 64 (bytesAt m 0x10 8) ∧
         ((u.stack stk).ccs.look n {}).key = ((s.stack stk).ccs.look n {}).key.max (s.takePortKey port).1) ∧
       (msgType m = 4 → ContextsKeyed s → ∃ u, ran (.downNotify stk ch) u ∧ consumed u 1 ∧ ∀ key y, s.ctx key = some y →
         u.ctx key = some (if y.service = false ∧ y.resident = true ∧ y.loc = bytesAt m 8 8 ∧ y.stk = stk ∧ y.domain.toNat = c.domain
           then { y with event := true } else y)) ∧
       (msgType m = 5 → ∃ u, ran (.downResync stk ch) u ∧ consumed u 1 ∧ ((u.stack stk).chans.look ch {}).up =
         x.up ++ [upWords 0x82 ((c.consumed + 1) % 2 ^ 32) c.produced])) ∧
     (s.downNext stk ch = some (c, q, some m, k, port) → x.head = some h →
       (msgType m ≠ 2 → failed (.downLaunchHead stk ch) 1 c.consumed 16) ∧
       (msgType m = 2 → ∀ r, s.recFault (pairRecord h m) false = some r → failed (.downLaunchTail stk ch) 2 q r) ∧
       (msgType m = 2 → s.recFault (pairRecord h m) false = none → freeIndex (s.stack stk).launches 256 = none →
         ran (.downLaunchTail stk ch) s) ∧
       (msgType m = 2 → s.recFault (pairRecord h m) false = none → freeIndex (s.stack stk).launches 256 = some idx →
         ∃ u, ran (.downLaunchTail stk ch) u ∧ consumed u 2 ∧ ((u.stack stk).chans.look ch {}).head = none ∧
           let l := (u.stack stk).launches.look idx {}
           l.state = .waiting ∧ l.words = pairRecord h m ∧ l.arrival = k ∧ l.domain = BitVec.ofNat 6 c.domain ∧ l.home = stk))) ∧
  (∀ (s : State) (stk ch : Nat) (c : ChanView) (m r : List Byte) (rest : List (List Byte)), stk < 24 → ch < 64 →
     let x := (s.stack stk).chans.look ch {}
     let slot := c.produced % c.n
     (s.channel stk ch = some c → x.up = m :: rest → x.upKey = none → s.serviceReady stk = true → s.onNetwork = true →
       ((c.produced + 2 ^ 32 - c.seen) % 2 ^ 32 < c.n → ∃ u, exec (.upMessage stk ch) s = .next u ∧
         ((u.stack stk).chans.look ch {}).upKey = some (s.serviceKey stk) ∧ ((u.stack stk).chans.look ch {}).up = x.up ∧
         u.out = s.out ∧ u.mem = s.mem ∧
         (∀ i, i < m.length → m.length ≤ 64 → ∃ o, u.sendsByte o (c.up + 64 * slot + i) (m.getD i 0)) ∧
         u.sendsWord (c.up + 64 * c.n + 8 * slot) 8 c.produced) ∧
       (c.n ≤ (c.produced + 2 ^ 32 - c.seen) % 2 ^ 32 → exec (.upMessage stk ch) s = .next s)) ∧
     (∀ k, s.channel stk ch = some c → x.up = m :: rest → x.upKey = some k → s.serviceReady stk = true → s.onNetwork = true →
       let near := s.reaches stk (portStack (notifyPort c.notify))
       ((∀ y ∈ (s.log (65408 + stk)).recs, y.key = some k → y.applied = true) → near = true → ∃ u, exec (.upMessage stk ch) s = .next u ∧
         ((u.stack stk).chans.look ch {}).up = rest ∧ ((u.stack stk).chans.look ch {}).upKey = none ∧
         ((u.stack stk).chans.look ch {}).sent = some ((c.produced + 1) % 2 ^ 32) ∧
         u.out = .notify (notifyPort c.notify) c.notify ((c.produced + 1) % 2 ^ 32) :: s.out ∧ u.mem = s.mem ∧
         u.sendsWord (c.desc + 0x30) 4 ((c.produced + 1) % 2 ^ 32)) ∧
       ((∃ y ∈ (s.log (65408 + stk)).recs, y.key = some k ∧ y.applied = false) ∨ near = false → exec (.upMessage stk ch) s = .next s)) ∧
     (s.serviceReady stk = false ∨ s.onNetwork = false → exec (.upMessage stk ch) s = .next s) ∧
     (s.onNetwork = false → exec (.report stk) s = .next s) ∧
     (s.onNetwork = true → (s.stack stk).reports = r :: rest → (s.stack stk).report = some ch → s.channel stk ch = some c →
       ∃ u, exec (.report stk) s = .next u ∧ (u.stack stk).reports = rest ∧ ((u.stack stk).chans.look ch {}).up = x.up ++ [r] ∧
         u.mem = s.mem ∧ u.hart = s.hart) ∧
     (s.onNetwork = true → (s.stack stk).reports = r :: rest → (s.stack stk).report = none → exec (.report stk) s =
       .next (s.modStack stk fun t => { t with reports := rest })))

/-- R410, R411: a remote write within its window leaves as records of the network receiver, or as additions, and one refused
does nothing (R254: it waits while the receiver can give no key); a frame that arrives in its turn is counted and its packet delivered (a put leaves as records of the network receiver, a get
is answered with the bytes, and an answer reaches its chunk or waits for a path), one out of turn is only acknowledged, and an acknowledgement frees
frames; a frame unacknowledged for 6,000 ticks is sent again, and a connection with frames outstanding that heard nothing for
600,000 is failed, for good, by the module's own step when nothing else is due. R405, R411: through a peer port the same packets
arrive as transactions: a put is one publication of the port's log or is counted and refused whole, and a get returns its bytes,
with poison where a sector gives no good datum, which over Ethernet is refused.
The packets and the layout of an entry's window and rights (notes/assumptions/49.md) and the list of what waits
(notes/assumptions/50.md) are this model's. -/
def Obligations.FramesArriveOnceInOrder : Prop :=
  ∀ (s : State) (stk entry off peer seq ack : Nat) (add adds : Bool) (bytes : List Byte) (bs : List (Nat × Byte)) (p : Packet)
      (as : List Nat),
    let now := (s.time (pathStack peer)).toNat
    let c := s.conn peer
    let w := (s.stack stk).remoteWord entry
    (stk < 24 → entry < 4096 → s.onNetwork = true → s.farWrite stk noPath entry off add bytes = some (adds, bs) →
      s.sourceReady stk 49 0 = true → s.putWaits stk noPath = false →
      ∃ t, exec (.remoteWrite stk entry off add bytes) s = .next t ∧ t.mem = s.mem ∧ t.hart = s.hart ∧
        (t.stack stk).srcKeys.look (8 * 49) 0 = s.sourceKey stk 49 0 ∧
        (adds = false → (bs.map Prod.fst).Nodup → ∀ x ∈ bs, t.sendsByte (.port (sourceOf stk 49 0)) x.1 x.2)) ∧
    (stk < 24 → entry < 4096 → s.onNetwork = true → s.farWrite stk noPath entry off add bytes = some (adds, bs) →
      (s.sourceReady stk 49 0 = false ∨ s.putWaits stk noPath = true) → ∃ t, exec (.remoteWrite stk entry off add bytes) s = .next t ∧
        t.mem = s.mem ∧ t.hart = s.hart ∧ (t.stack stk).arrivals = (s.stack stk).arrivals ++ [.put noPath 0 0 adds bs]) ∧
    (stk < 24 → entry < 4096 →
      (s.onNetwork = false ∨ remoteValid (w 0) = false ∨ (w 3).toNat < off + bytes.length ∨ s.farWrite stk noPath entry off add bytes = none) →
      exec (.remoteWrite stk entry off add bytes) s = .next s) ∧
    (c.failed = true → exec (.ethernetFrame peer seq ack bytes) s = .next s ∧ exec (.frameResend peer) s = .next s ∧
      exec (.connectionFail peer) s = .next s) ∧
    (s.onNetwork = false → exec (.ethernetFrame peer seq ack bytes) s = .next s ∧ exec (.frameResend peer) s = .next s ∧
      exec (.connectionFail peer) s = .next s) ∧
    (c.failed = false → s.onNetwork = true → (bytes = [] ∨ seq ≠ c.received) → ∃ t,
      exec (.ethernetFrame peer seq ack bytes) s = .next t ∧
      (t.conn peer).received = c.received ∧ (t.conn peer).unacked = c.unacked.filter (fun f => decide (ack ≤ f.1)) ∧
      (t.conn peer).lastAck = (if c.acked < ack then now else c.lastAck) ∧ t.mem = s.mem ∧ t.hart = s.hart ∧ t.stackTab = s.stackTab ∧
      t.out = if bytes = [] then s.out else .frame (etherPort peer) peer c.sent c.received [] :: s.out) ∧
    (c.failed = false → s.onNetwork = true → bytes ≠ [] → packetOf bytes = none → ∃ t,
      exec (.ethernetFrame peer c.received ack bytes) s = .next t ∧ (t.conn peer).received = c.received + 1 ∧
      t.out = .frame (etherPort peer) peer c.sent (c.received + 1) [] :: s.out ∧ t.mem = s.mem ∧ t.stackTab = s.stackTab) ∧
    (let at_ := pathStack peer
     let got := s.modConn peer fun x => { x with
       unacked := x.unacked.filter fun f => decide (ack ≤ f.1)
       lastAck := if x.acked < ack then now else x.lastAck, acked := Nat.max x.acked ack, received := x.received + 1 }
     let done (t : State) : State := t.send (.frame (etherPort peer) peer (t.conn peer).sent (t.conn peer).received [])
     let answers (q : Packet) : Prop := exec (.ethernetFrame peer c.received ack bytes) s = .next (done (got.sendPacket peer q))
     let refused : Packet := { kind := .refused, serial := p.serial, chunk := p.chunk }
     let whole : Prop := (∀ f ∈ s.farParts, ¬ (f.path = peer ∧ f.serial = p.serial ∧ f.chunk = p.chunk)) ∧ p.bytes.length = p.len
     let base := ((s.stack at_).remoteWord p.entry 2).toNat % 2 ^ 48
     c.failed = false → s.onNetwork = true → bytes ≠ [] → packetOf bytes = some p → 8 ≤ peer →
     (p.kind = .put ∨ p.kind = .putWords → whole →
       (got.farWrite at_ peer p.entry p.off (p.kind == .putWords) p.bytes = none → answers refused) ∧
       (got.farWrite at_ peer p.entry p.off (p.kind == .putWords) p.bytes = some (adds, bs) → s.sourceReady at_ 49 0 = true →
         s.putWaits at_ peer = false → ∃ t, exec (.ethernetFrame peer c.received ack bytes) s = .next t ∧ t.mem = s.mem ∧ t.hart = s.hart ∧
           (t.conn peer).received = c.received + 1 ∧ (t.stack at_).srcKeys.look (8 * 49) 0 = s.sourceKey at_ 49 0 ∧
           t.farPuts = s.farPuts ++ [{ path := peer, serial := p.serial, chunk := p.chunk, stk := at_, keys := [s.sourceKey at_ 49 0]
                                       homes := (bs.map fun x => homeOf x.1).eraseDups }] ∧
           (adds = false → (bs.map Prod.fst).Nodup → ∀ x ∈ bs, t.sendsByte (.port (sourceOf at_ 49 0)) x.1 x.2))) ∧
     (p.kind = .get →
       (got.farAddrs at_ peer p.entry 1 p.off p.len = none → answers refused) ∧
       (got.farAddrs at_ peer p.entry 1 p.off p.len = some as → (∀ x ∈ as, s.roundTrip at_ (homeOf x) = true) →
         s.lockedAt as = none → (∃ x ∈ as, s.badSector (sectorOf x) = true) →
         ∃ t, exec (.ethernetFrame peer c.received ack bytes) s = .next t ∧ t.mem = s.mem ∧ t.hart = s.hart ∧
           t.out = .frame (etherPort peer) peer (c.sent + 1) (c.received + 1) [] ::
             .frame (etherPort peer) peer c.sent (c.received + 1) refused.encode :: s.out) ∧
       (got.farAddrs at_ peer p.entry 1 p.off p.len = some as → (∀ x ∈ as, s.roundTrip at_ (homeOf x) = true) →
         s.lockedAt as = none → (∀ x ∈ as, s.badSector (sectorOf x) = false) → p.len ≤ 8192 → 0 < p.len →
         ∃ t, exec (.ethernetFrame peer c.received ack bytes) s = .next t ∧ t.mem = s.mem ∧ t.hart = s.hart ∧
           t.out = .frame (etherPort peer) peer (c.sent + 1) (c.received + 1) [] :: .frame (etherPort peer) peer c.sent (c.received + 1)
             (Packet.encode { kind := .data, serial := p.serial, chunk := p.chunk
                              bytes := (List.range p.len).map fun i => s.mem.read (portByte (base + p.off) i) }) :: s.out)) ∧
     (p.kind = .done ∨ p.kind = .data ∨ p.kind = .refused ∨ p.kind = .poisoned →
       let flag : Option (BitVec 6) := match p.kind with | .refused => some 32 | .poisoned => some 4 | _ => none
       let data := if p.kind = .data then p.bytes else []
       (∀ a ∈ (s.stack at_).arrivals, ∀ n f b, a ≠ .answer p.serial n f b) →
       (∀ t, got.remoteAnswer p.serial p.chunk flag data = some t →
         exec (.ethernetFrame peer c.received ack bytes) s = .next (done t)) ∧
       (got.remoteAnswer p.serial p.chunk flag data = none → ∃ t, exec (.ethernetFrame peer c.received ack bytes) s = .next t ∧
         (t.stack at_).arrivals = (s.stack at_).arrivals ++ [.answer p.serial p.chunk flag data] ∧ t.mem = s.mem ∧ t.hart = s.hart))) ∧
    (c.failed = false → s.onNetwork = true → ∃ t, exec (.frameResend peer) s = .next t ∧ t.mem = s.mem ∧ t.hart = s.hart ∧
      t.out = ((c.unacked.filter fun f => decide (f.2.1 + 6000 ≤ now)).map fun f =>
        .frame (etherPort peer) peer f.1 c.received f.2.2).reverse ++ s.out ∧
      (t.conn peer).stale now = []) ∧
    (c.dead now = true ↔ c.failed = false ∧ c.unacked ≠ [] ∧ c.lastAck + 600000 ≤ now) ∧
    (∀ pre post, s.agenda = [] → s.inReset = false → s.onNetwork = true → c.dead now = true → s.conns = pre ++ (peer, c) :: post →
      (∀ x ∈ pre, let at_ := (s.time (pathStack x.1)).toNat
        x.2.dead at_ = false ∧ (x.2.failed = true ∨ x.2.stale at_ = [])) →
      (∀ x ∈ s.stackTab, dueMemory s x.1 = none ∧ dueBanks s x.1 = none ∧ dueLaunches s x.1 = none) → dueBeacons s = none →
      (∀ x ∈ s.logs, x.2.reclaimable = false) → (∀ x ∈ s.cores, x.1 < 1152 → dueCore s x.1 x.2 = none) →
      (∀ h ∈ s.harts, dueContext s h = none) → step s = exec (.connectionFail peer) s) ∧
    (let at_ := pathStack peer
     let refused : Packet := { kind := .refused, serial := p.serial, chunk := p.chunk }
     let whole : Prop := (∀ f ∈ s.farParts, ¬ (f.path = peer ∧ f.serial = p.serial ∧ f.chunk = p.chunk)) ∧ p.bytes.length = p.len
     let base := ((s.stack at_).remoteWord p.entry 2).toNat % 2 ^ 48
     let key := s.sourceKey at_ 57 (peer % 2)
     let taken (t : State) : Prop := s.peerPacket peer bytes = t ∧ t.mem = s.mem ∧ t.hart = s.hart
     (∀ r, s.stopped = false → s.inReset = false → peer < 8 → step { s with agenda := .input (.peerPacket peer bytes) :: r } =
       .next (({ s with agenda := r } : State).peerPacket peer bytes)) ∧
     (8 ≤ peer ∨ s.onNetwork = false ∨ packetOf bytes = none → s.peerPacket peer bytes = s) ∧
     (peer < 8 → s.onNetwork = true → packetOf bytes = some p →
      (p.kind = .put ∨ p.kind = .putWords → whole →
        (s.farWrite at_ peer p.entry p.off (p.kind == .putWords) p.bytes = none →
          s.peerPacket peer bytes = (s.count at_ 0x08 1).sendPacket peer refused) ∧
        (s.farWrite at_ peer p.entry p.off (p.kind == .putWords) p.bytes = some (adds, bs) → s.sourceReady at_ 57 (peer % 2) = true →
          s.putWaits at_ peer = false → ∃ t, taken t ∧ (t.stack at_).srcKeys.look (8 * 57 + peer % 2) 0 = key ∧
            t.farPuts = s.farPuts ++ [{ path := peer, serial := p.serial, chunk := p.chunk, stk := at_, keys := [key]
                                        homes := (bs.map fun x => homeOf x.1).eraseDups }] ∧
            (adds = false → (bs.map Prod.fst).Nodup → ∀ x ∈ bs, ∃ o, t.sendsByte o x.1 x.2))) ∧
      (p.kind = .get →
        (s.farAddrs at_ peer p.entry 1 p.off p.len = none → s.peerPacket peer bytes = s.sendPacket peer refused) ∧
        (s.farAddrs at_ peer p.entry 1 p.off p.len = some as → (∀ x ∈ as, s.roundTrip at_ (homeOf x) = true) →
          s.lockedAt as = none → p.len ≤ 8192 → 0 < p.len → ∃ t, taken t ∧
            t.out = .peer peer (Packet.encode
              { kind := if as.any fun x => s.badSector (sectorOf x) then .poisoned else .data, serial := p.serial, chunk := p.chunk
                bytes := (List.range p.len).map fun i => s.mem.read (portByte (base + p.off) i) }) :: s.out)) ∧
      (p.kind = .done ∨ p.kind = .data ∨ p.kind = .refused ∨ p.kind = .poisoned →
        let flag : Option (BitVec 6) := match p.kind with | .refused => some 32 | .poisoned => some 4 | _ => none
        let data := if p.kind = .data then p.bytes else []
        (∀ a ∈ (s.stack at_).arrivals, ∀ n f b, a ≠ .answer p.serial n f b) →
        (∀ t, s.remoteAnswer p.serial p.chunk flag data = some t → s.peerPacket peer bytes = t) ∧
        (s.remoteAnswer p.serial p.chunk flag data = none → ∃ t, taken t ∧
          (t.stack at_).arrivals = (s.stack at_).arrivals ++ [.answer p.serial p.chunk flag data])))) ∧
    (c.failed = false → s.onNetwork = true → ∃ t, exec (.connectionFail peer) s = .next t ∧ (t.conn peer).failed = true ∧ (t.conn peer).unacked = [] ∧
      t.mem = s.mem ∧ t.hart.regs = s.hart.regs)

/-- R400 to R403: a replay is counted, and its CRC failure; a module paused leaves traffic and takes it up again; a retraining
with at most four marked lanes ends active, one with more fails; the counts clear; the injector counts flits and acts on the
Nth. That a retraining ends exactly 6,000 ticks after it began (notes/assumptions/63.md), and that a stack has one retry
threshold for its modules (notes/assumptions/48.md), are this model's readings. -/
def Obligations.LinkModulesChangeState : Prop :=
  ∀ (s : State) (stk edge m : Nat) (crc : Bool) (v : Word), stk < 24 → edge < 4 → m < 8 → (neighbour stk edge).isSome = true →
    let l := (s.stack stk).link edge m
    let after (i : Instr) (f : Link → Prop) : Prop :=
      ∃ u, exec i s = .next u ∧ f ((u.stack stk).link edge m) ∧ u.mem = s.mem ∧ u.hart = s.hart
    after (.flitReplay stk edge m crc) (fun x => x = { l with
      crc := if crc = true ∧ l.crc ≠ BitVec.allOnes 32 then l.crc + 1 else l.crc
      retries := if l.retries = BitVec.allOnes 32 then l.retries else l.retries + 1
      window := l.window + 1
      threshold := l.threshold || (decide ((s.stack stk).threshold ≠ 0) && decide ((s.stack stk).threshold < l.window + 1)) }) ∧
    (l.pause = true → l.state = 2 → after (.linkPause stk edge m) fun x => x = { l with state := 3 }) ∧
    (l.pause = false ∨ l.state ≠ 2 → exec (.linkPause stk edge m) s = .next s) ∧
    after (.linkUnpause stk edge m) (fun x => x = { l with pause := false, state := if l.state = 3 then 2 else l.state }) ∧
    (l.state = 2 ∨ l.state = 3 → let lost := popc (l.map &&& widthLanes l.target)
      after (.linkRetrain stk edge m) fun x => x = (if 4 < lost then { l with retrain := false, state := 5 }
        else { l with retrain := true, spares := lost, current := l.target, state := 4, done := (s.time stk).toNat + 6000 })) ∧
    (l.state ≠ 2 → l.state ≠ 3 → exec (.linkRetrain stk edge m) s = .next s) ∧
    (l.state = 4 ∨ l.state = 1 → after (.linkRetrainEnd stk edge m) fun x =>
      x = { l with retrain := false, state := if l.pause then 3 else 2 }) ∧
    (l.state ≠ 4 → l.state ≠ 1 → exec (.linkRetrainEnd stk edge m) s = .next s) ∧
    after (.linkClearRetry stk edge m) (fun x => x = { l with crc := 0, retries := 0 }) ∧
    after (.linkInjectArm stk edge m v) (fun x => x = { l with inject := v &&& 0xFFFFFFFFFFFF0001, flits := 0 }) ∧
    (l.inject.getLsbD 0 = false ∨ l.state ≠ 2 → exec (.linkInjectFire stk edge m) s = .next s) ∧
    (l.inject.getLsbD 0 = true → l.state = 2 → l.flits + 1 ≠ l.inject.toNat / 2 ^ 32 →
      after (.linkInjectFire stk edge m) fun x => x = { l with flits := l.flits + 1 }) ∧
    (l.inject.getLsbD 0 = true → l.state = 2 → l.flits + 1 = l.inject.toNat / 2 ^ 32 →
      after (.linkInjectFire stk edge m) fun x => x.inject = l.inject &&& ~~~1 ∧
        x.retries = (if (l.inject.toNat / 2 ^ 30 % 4 = 1 ∨ l.inject.toNat / 2 ^ 30 % 4 = 2) ∧ l.retries ≠ BitVec.allOnes 32
          then l.retries + 1 else l.retries)) ∧
    after (.linkWindowEnd stk edge m) (fun x => x = { l with window := 0, threshold := false })

/-- R442, R443: from a mean above 5.4 kW until one below 5.3 kW, each sample of a stack slows its distance cores by one step, at
most to half rate, and its reserved cores when those are there; afterwards a step is taken back at each sample, the reserved
cores' first; a warning level drives ALERT_N; a die above its limit shuts the module down: every buffer frozen, clocks
stopped, home memory lost. R2, R20, R36, R387: a tick advances each stack's TIME by one period, by two when it is behind the
last beacon, not at all when it is ahead, which holds its keys; a hart that was ready and did not issue has aged; a message that
waited for a path is tried again before what was sent later; with clocks stopped or the module held in reset nothing moves. The
hypotheses leave out a step of bring-up that ends, a core reset that is due, what has arrived and waits for a key, and a far put
that is applied. Where the model chose: notes/assumptions/58.md (power and temperature), 115.md (the shutdown is part of the step of the
reading), 134.md (how the slowing is taken back). -/
def Obligations.PowerHeatAndTime : Prop :=
  (∀ (s : State) (stk mw die t g : Nat), stk < 24 →
     let w := s.modStack stk fun x => { x with power := (((s.time stk).toNat, mw) :: x.power).take 100 }
     let v : State := { w with engaged := if 5400000 < w.meanPower then true else if w.meanPower < 5300000 then false else s.engaged }
     let far := s.coresWhere stk false
     let near := s.coresWhere stk true
     let becomes (g n : Nat) : Prop := ∃ u, exec (.powerSample stk mw) s = .next u ∧ (u.core g).stretch = n ∧
       u.engaged = v.engaged ∧ u.mem = s.mem ∧ u.hart = s.hart
     (s.sampleDue stk = false → exec (.powerSample stk mw) s = .next s) ∧
     (s.sampleDue stk = true →
       (v.engaged = true → g ∈ far → (∃ c ∈ far, (s.core c).stretch ≠ 4) → becomes g (Nat.min 4 ((s.core g).stretch + 1))) ∧
       (v.engaged = true → g ∈ near → (∃ c ∈ far, (s.core c).stretch ≠ 4) → becomes g (s.core g).stretch) ∧
       (v.engaged = true → g ∈ near → (∀ c ∈ far, (s.core c).stretch = 4) → becomes g (Nat.min 4 ((s.core g).stretch + 1))) ∧
       (v.engaged = false → g ∈ near → 0 < (s.core g).stretch → becomes g ((s.core g).stretch - 1)) ∧
       (v.engaged = false → (∀ c ∈ near, (s.core c).stretch = 0) → g ∈ far → 0 < (s.core g).stretch →
         becomes g ((s.core g).stretch - 1)) ∧
       (v.engaged = false → (∀ c ∈ near, (s.core c).stretch = 0) → (∀ c ∈ far, (s.core c).stretch = 0) →
         exec (.powerSample stk mw) s = .next v)) ∧
     (die < 14 → ∃ u, exec (.thermalAlert stk die t) s = .next u ∧ (u.stack stk).temps.look die 0 = t ∧
       (95 < t → u.alert = true) ∧ (s.stopped = true ∨ overLimit die t = false → u.mem = s.mem ∧ u.stopped = s.stopped) ∧
       (s.stopped = false → overLimit die t = true → u.stopped = true ∧ u.thermtrip = true ∧ u.mem = [] ∧
         ∀ k, k < 24 → (u.stack k).pfb.frozen = true)) ∧
     (s.stopped = false → ∃ u, exec .thermalShutdown s = .next u ∧ u.stopped = true ∧ u.thermtrip = true ∧ u.mem = [] ∧
       (∀ k, k < 24 → (u.stack k).pfb.frozen = true) ∧ u.out = .signal "THERMTRIP_N" false :: s.out) ∧
     (s.stopped = true → exec .thermalShutdown s = .next s)) ∧
  (∀ (s : State), (s.stopped = true ∨ s.inReset = true → exec .tick s = .next s) ∧
     (s.stopped = false → s.inReset = false → ({ s with ticks := s.ticks + 1 } : State).stepDue = false →
       (∀ e ∈ s.cores, e.2.resetWait = none) → s.farPuts = [] → (∀ e ∈ s.stackTab, e.2.arrivals = []) →
       (s.stackTab.map Prod.fst).Nodup →
       ∃ u, exec .tick s = .next u ∧ u.ticks = s.ticks + 1 ∧
         (∀ k, u.time k = s.time k + 1 + BitVec.ofInt 64 (s.stack k).adjust ∧ (u.stack k).adjust = 0 ∧
           (u.stack k).heldTick = decide ((s.stack k).adjust < 0)) ∧
         u.mem = s.mem ∧ u.logs = s.logs ∧ u.gangs = s.gangs ∧ u.stalled = [] ∧
         ((∀ e ∈ s.cores, e.2.ahead = []) → u.agenda = s.stalled.map Sched.msg ++ s.agenda) ∧
         ∀ k x, s.ctx k = some x → u.ctx k = some (x.age (s.isReady x) (s.issuedNow x))))

/-- R440, R443, R444, R446, R448, R450: a cold reset leaves the state of reset but for flash, fuses, bonds, defects and what
stands at the board, and shuts down again while a die is above its limit. A warm reset keeps TIME and home memory, in which
published records are merged first: with none left no byte changes, and with one the bytes that its mask names change and no
other, or none where its line is damaged; the photo-finish buffers stay when no record is discarded; tables are emptied and
bring-up begins again. Fundamental reset holds one port; an image goes into the inactive slot with its verification; the fused
minimum only rises. Where the model chose: notes/assumptions/59.md (a reset is one step), 60.md (what merges), 61.md (what a cold
reset keeps), 115.md (the shutdown after a cold reset). -/
def Obligations.ResetsAndFirmware : Prop :=
  ∀ (s : State) (port : Nat) (low : Bool) (image : List Byte) (v : BitVec 64),
    (∀ i, i = .coldReset ∨ i = .pldmColdReset → ∃ u, exec i s = .next u ∧ u.mem = [] ∧ u.hart = State.reset.hart ∧ u.others = [] ∧
      ((s.stackTab.map Prod.fst).Nodup → s.overheated = false → ∀ k, u.stack k = { State.reset.stack k with
        bonds := (s.stack k).bonds, temps := (s.stack k).temps }) ∧ u.logs = [] ∧ u.gangs = [] ∧ u.bringUp = 0 ∧ u.ticks = 0 ∧
      u.stopped = s.overheated ∧ u.thermtrip = s.overheated ∧ (s.overheated = true → ∀ k, k < 24 → (u.stack k).pfb.frozen = true) ∧
      ((s.cores.map Prod.fst).Nodup → ∀ g, u.core g = { State.reset.core g with defects := (s.core g).defects }) ∧
      u.modrst = s.modrst ∧ u.powerLow = s.powerLow ∧ u.perst = s.perst ∧ u.sensors = s.sensors ∧ u.alert = s.alert ∧
      u.flash = s.flash ∧ u.fusedMin = s.fusedMin ∧ u.keyHash = s.keyHash ∧ u.active = (if s.newImage then 1 - s.active else s.active)) ∧
    (∀ i, i = .warmReset ∨ i = .pldmWarmReset →
      (s.stopped = true → exec i s = .next s) ∧ (s.bringUp ≠ 6 → exec .warmReset s = .next s) ∧
      (s.stopped = false → (i = .warmReset → s.bringUp = 6) → ∃ u, exec i s = .next u ∧ u.others = [] ∧ u.gangs = [] ∧ u.bringUp = 1 ∧ u.warm = true ∧
        u.active = (if s.newImage then 1 - s.active else s.active) ∧ u.newImage = false ∧
        (∀ e ∈ u.stackTab, e.2.launches = [] ∧ e.2.walkers = [] ∧ e.2.mq = [] ∧ e.2.inbound = [] ∧ e.2.keySlots = [] ∧ e.2.locks = []) ∧
        (∀ e ∈ u.cores, e.2.capmask = e.2.fwCapmask ∧ e.2.view = [] ∧ e.2.tlb = [] ∧ e.2.copies = []) ∧
        (∀ e ∈ u.logs, 65280 ≤ e.1) ∧ u.ticks = s.ticks ∧ (∀ k, u.time k = s.time k) ∧
        ((∀ e ∈ s.cores, e.2.copies = []) → (∀ e ∈ s.stackTab, e.2.inbound = [] ∧ e.2.refused = [] ∧ e.2.deferred = [] ∧
            e.2.locks = [] ∧ e.2.released = []) →
          ((∀ k, (s.stack k).mq = []) → u.mem = s.mem ∧
            ((s.harts.map Hart.key).Nodup →
             (∀ h ∈ s.harts, h.service = false → (s.log h.key).wt + h.staging.length = (s.log h.key).pt) →
              ∀ k, (u.stack k).pfb = (s.stack k).pfb)) ∧
          (∀ (stk l q sec : Nat) (e : MEntry) (mask : BitVec 64) (d : BitVec 512), stk < 24 → (s.stack stk).mq = [e] →
            (∀ k, k ≠ stk → (s.stack k).mq = []) → e.body = .record sec mask d → e.origin = .publication l q →
            (s.lineGood l q = true →
              (∀ i, i < 64 → u.mem.read (sec + i) = if mask.getLsbD i then d.extractLsb' (8 * i) 8 else s.mem.read (sec + i)) ∧
              ∀ a, a < sec ∨ sec + 64 ≤ a → u.mem.read a = s.mem.read a) ∧
            (s.lineGood l q = false → u.mem = s.mem))))) ∧
    (port < 2 → ∃ u, exec (.perst port low) s = .next u ∧ (port ∈ u.perst ↔ low = true) ∧ u.mem = s.mem ∧ u.hart = s.hart ∧
      u.stackTab = s.stackTab ∧ ∀ q, q ≠ port → (q ∈ u.perst ↔ q ∈ s.perst)) ∧
    (∃ u, exec (.firmwareUpdate image) s = .next u ∧ u.flash.look (1 - s.active) [] = image ∧
      (∀ k, k ≠ 1 - s.active → u.flash.look k [] = s.flash.look k []) ∧ u.newImage = accepts s.keyHash s.fusedMin image ∧
      u.mem = s.mem ∧ u.hart = s.hart) ∧
    (∃ u, exec (.raiseFusedMinimum v) s = .next u ∧ u.fusedMin = (if v &&& (v + 1) = 0 then s.fusedMin ||| v else s.fusedMin) ∧
      u.mem = s.mem ∧ u.hart = s.hart)

/-! ## The whole machine -/

/-- Every instruction, event and input answers: where every unit it names exists the answer is a next state, and where one
does not (the model's own convention, log entry 4) it is the fault noSuchUnit. Nothing is refused. -/
def Obligations.EveryInstructionAnswersANextState : Prop :=
  ∀ (s : State) (i : Instr),
    (Instr.unitsExist i = true → ∃ t, exec i s = .next t) ∧ (Instr.unitsExist i = false → exec i s = .fault .noSuchUnit)

/-- R101, R105 to R110, R112, R113, R115, R116, R212, R223: an integer word, a jump, a branch, LDSD and TSTAMP that do not trap
change only their register and where the hart goes on, and a scalar floating-point word besides these FPSTAT and RNGS: no vector,
predicate, tile, plane, control or trap register, no other context and no byte of memory. A scalar load changes besides its
register only views, caches and translations (and settles a replay that was put off, notes/assumptions/121.md), or waits. A scalar store with room in its staging that does not trap leaves every
register and every byte of home memory: it only stages bytes; STSD changes its eight bytes of scalar data memory and their dirty
bit. A CSR word changes its register and the control register that it names, and no other of the hart's. -/
def Obligations.ScalarWordsChangeOnlyTheirRegister : Prop :=
  ∀ (s t : State) (sd sa sb sc : SReg) (imm csr : BitVec 15) (amt : BitVec 6) (im : BitVec 20) (dbl : Bool) (r : Rnd) (c : FCond)
    (k1 k2 : CvtKind) (i : Instr), exec i s = .next t →
    (i ∈ [.add sd sa sb, .sub sd sa sb, .and sd sa sb, .or sd sa sb, .xor sd sa sb, .sll sd sa sb, .srl sd sa sb, .sra sd sa sb,
        .slt sd sa sb, .sltu sd sa sb, .min sd sa sb, .max sd sa sb, .mul sd sa sb, .mulh sd sa sb, .mulhu sd sa sb, .div sd sa sb,
        .divu sd sa sb, .rem sd sa sb, .remu sd sa sb, .popc sd sa, .clz sd sa, .ctz sd sa, .sel sd sa sb sc, .addi sd sa imm,
        .andi sd sa imm, .ori sd sa imm, .xori sd sa imm, .slti sd sa imm, .slli sd sa amt, .srli sd sa amt, .srai sd sa amt,
        .lui sd im, .auipc sd im, .jal sd im, .jalr sd sa imm, .ldsd sd sa imm, .tstamp sd] →
      Trapped s t ∨ WordFrame s t sd false) ∧
    (i ∈ [.beq sa sb imm, .bne sa sb imm, .blt sa sb imm, .bge sa sb imm, .bltu sa sb imm, .bgeu sa sb imm, .fence] →
      Trapped s t ∨ WordFrame s t 0 false) ∧
    (i ∈ [.fadd dbl r sd sa sb, .fsub dbl r sd sa sb, .fmul dbl r sd sa sb, .fdiv dbl r sd sa sb, .fsqrt dbl r sd sa,
        .ffma dbl r sd sa sb sc, .fcvt k1 k2 r sd sa, .fmin dbl sd sa sb, .fmax dbl sd sa sb, .fcmp c dbl sd sa sb] →
      Trapped s t ∨ WordFrame s t sd true) ∧
    (s.hart.cv.active = false →
      i ∈ [.ldB sd sa imm, .ldH sd sa imm, .ldW sd sa imm, .ldD sd sa imm, .ldBU sd sa imm, .ldHU sd sa imm, .ldWU sd sa imm] →
      LoadTrapped s t ∨ LoadFrame s t sd) ∧
    (i = .stsd sb sa imm → Trapped s t ∨
      (let o := (s.rs sa + imm.signExtend 64).toNat
       t = { s with hart := t.hart } ∧
       t.hart = { s.hart with regs := t.hart.regs, pc := t.hart.pc, phase := t.hart.phase, slot := t.hart.slot
                              att := t.hart.att, results := t.hart.results, awaiting := t.hart.awaiting } ∧
       t.hart.regs = { s.hart.regs with sdm := t.hart.regs.sdm, sdmDirty := s.hart.regs.sdmDirty ||| 1#32 <<< (o / 2048) } ∧
       ∀ a, a < o ∨ o + 8 ≤ a → privRead t.hart.regs.sdm a 1 = privRead s.hart.regs.sdm a 1)) ∧
    (i ∈ [.csrr sd csr, .csrw sd csr sa, .csrs sd csr sa, .csrc sd csr sa] → Trapped s t ∨
      ((∀ r, r ≠ sd → t.rs r = s.rs r) ∧ t.mem = s.mem ∧ t.others = s.others ∧ t.logs = s.logs ∧ t.gangs = s.gangs ∧
       t.hart = { s.hart with regs := t.hart.regs, pc := t.hart.pc, phase := t.hart.phase, slot := t.hart.slot, trap1 := t.hart.trap1
                              trap2 := t.hart.trap2, att := t.hart.att, results := t.hart.results, awaiting := t.hart.awaiting } ∧
       t.hart.regs = { s.hart.regs with
         s := t.hart.regs.s, fpctl := t.hart.regs.fpctl, fpstat := t.hart.regs.fpstat, rngs := t.hart.regs.rngs
         splim := t.hart.regs.splim, ftrim := t.hart.regs.ftrim, bstride := t.hart.regs.bstride } ∧
       ∀ m, m ≠ csr.toNat ∨ i = .csrr sd csr → m < 0x400 → s.hasCsr m = true → t.csrRead m = s.csrRead m)) ∧
    (s.hart.service = false → s.hart.cv.active = false → s.hart.staging.length < 512 →
      i ∈ [.stB sb sa imm, .stH sb sa imm, .stW sb sa imm, .stD sb sa imm] →
      Trapped s t ∨ t.hart.regs = s.hart.regs ∧ t.mem = s.mem ∧ t.others = s.others ∧ t.hart.trap1 = s.hart.trap1 ∧
        t.hart.trap2 = s.hart.trap2)

/-- R142 to R162, R168 to R179, R285 to R288, R292, R293, R335: a vector arithmetic member that does not trap changes only its
destination register, RNGS and the convoy in progress: no other vector register, no predicate, no s-register, no control or trap
register, no other context, no byte of home memory and no log. Neither do cross-lane, memory, scratchpad and copy members
change more than the vectors and predicates that they name as destinations (and FTRIM with .ff, the slices with VSSX, the floor
with CWAIT, and what a load settles of the replays put off), unless they trap or wait: their scalar results, stores, home operations and copies leave when the convoy retires. -/
def Obligations.VectorMembersChangeOnlyTheirRegister : Prop :=
  (∀ (s t : State) (g : Gov) (vd va vb vc : VReg) (b : VB) (sat x : Bool) (r : Rnd) (d : Tag) (pc : PReg) (ss : SReg) (i : Instr),
    i ∈ [.vadd g vd va b sat r, .vsub g vd va b sat r, .vmul g vd va b sat r, .vmulh g vd va b, .vfma g vd va vb vc sat r,
      .vfms g vd va vb vc sat r, .vnfma g vd va vb vc sat r, .vdiv g vd va b sat r, .vsqrt g vd va r, .vrcp g vd va r, .vrsq g vd va r,
      .vexp2 g vd va r, .vlog2 g vd va r, .vtanh g vd va r, .vmin g vd va b, .vmax g vd va b, .vabs g vd va sat, .vneg g vd va sat,
      .vand g vd va b, .vor g vd va b, .vxor g vd va b, .vnot g vd va, .vshl g vd va b sat, .vshr g vd va b, .vrot g vd va b x,
      .vclz g vd va, .vpopc g vd va, .vclmul g vd va b x, .vsel g vd va vb pc, .vcvt g vd va d sat r, .vscale g vd va b r,
      .vqnt g vd va d r, .vmov g vd va, .vsplat g vd ss d, .viota g vd ss d sat] →
    exec i s = .next t → MemberTrapped s t ∨ MemberFrame s t vd) ∧
  (∀ (s t : State) (g : Gov) (vd va vb vi : VReg) (pd px pa : PReg) (op : RedOp) (am : VAmoOp) (ord : Order) (hi keep ff ck sat : Bool)
     (r : Rnd) (off : BitVec 8) (sd sb st sk ss s1 s2 s3 s4 s5 : SReg) (k : BitVec 5) (c : BitVec 3) (word : BitVec 2) (i : Instr),
     let keeps (is : List Instr) (vs : List VReg) (ps : List PReg) (trim slices reads : Bool) : Prop :=
       i ∈ is → exec i s = .next t → MemberTrapped s t reads ∨ MemberWaits s t reads ∨ MemberKeeps s t vs ps trim slices reads
     s.hart.cv.active = true →
     keeps [.vperm g vd va vb keep, .vslu g vd va sk keep, .vsld g vd va sk keep, .vbcast g vd va sk keep, .vzip g vd va vb hi keep,
       .vunzip g vd va vb hi keep, .vcomp g vd va sd, .vexpd g vd va, .vred g op keep sat r vd va vb sd, .vscan g op keep sat r vd va,
       .vinss g vd ss sk] [vd] [] false false false ∧
     keeps [.vput g vd va vb px] [vd] [px] false false false ∧ keeps [.vconf g pd va sd] [] [pd] false false false ∧
     keeps [.vexts g sd va sk keep, .plead g sd pa, .pnum g sd pa] [] [] false false false ∧
     keeps [.vld g vd off sb ss ff ck, .vlds g vd off sb st ff ck, .vldx g vd off sb vi ff ck] [vd] [] ff false true ∧
     keeps [.vlsx g vd off sb vi, .vldh g vd off sb vi ck] [vd] [] false false false ∧
     keeps [.vst g va off sb ss, .vsts g va off sb st, .vstx g va off sb vi, .vpf off sb sk, .vamo g am ord va off sb vi] [] [] false false false ∧
     keeps [.vssx g va off sb vi] [] [] false true false ∧
     keeps [.cpy k s1 s2 s3 c pd, .cpy2d k s1 s2 s3 c s4 s5 pd, .cpyd k s1 s2 s3 s4 s5 pd, .cpye k s1 s2 s3 c s4 pd] [] [pd] false false false ∧
     keeps [.ckey k s1 s2, .cstat sd k word] [] [] false false false ∧
     (i = .cwait sd sk → exec i s = .next t → MemberTrapped s t ∨ MemberWaits s t ∨
       ∃ f, MemberKeeps (s.modLog s.hart.key fun l => { l with floor := f }) t [] [] false false))

/-- R26, R69 to R76, R89, R92: words written out from the encoding tables decode to the instruction that they stand for. -/
def Obligations.WordsDecodeToTheirInstruction : Prop :=
  fetched 0x000E6281 = .word (.add 5 6 7) ∧ fetched 0x00120057 = .word (.trap 9) ∧ fetched 0x300C5056 = .word (.bbox 5 6) ∧
  fetched 0x003602D2 = .word (.csrr 5 0x01B) ∧ fetched 0x10000056 = .word .halt ∧
  fetched 0x028E62C0 = .word (.fadd true .rtz 5 6 7) ∧ fetched 0x530042D8 = .word (.vsetl 5 4 .int32 .c16) ∧
  decodeTableWord 64 0x00C0000000001938 = some (.psetc ⟨0, false, false⟩ 3 6) ∧
  decodeTableWord 64 0x007000000000003B = some (.mxpert 7) ∧
  fetched 0 = .bad .opcode ∧ fetched 0xFFFFFFFF = .bad .opcode

/-- R69 to R76, R89, R92: every well-formed instruction with an encoding has one; a scalar word is fetched back from its own
encoding, and a member from its, with every operand at every value; no operand bit is dropped. -/
def Obligations.EncodedInstructionsDecodeBack : Prop :=
  ∀ i : Instr, Instr.wellFormed i = true →
    (Instr.coded i = true → (encodeF32 i).isSome = true ∨ (encodeF64 i).isSome = true) ∧
    (∀ x, encodeF32 i = some x → fetched x.join = .word i) ∧ (∀ x, encodeF64 i = some x → decodeMember x.join = .ok i)

/-- R20, R26, R100: a step that the agenda gives to a context that runs, with no convoy in progress and no trap pending,
fetches four bytes at its program counter, once its forced publication is made and its predicates are sampled; where they
decode to a word the step is that word, where they are a header whose checks pass it is the members in order, and else the
illegal-instruction trap. R27, R98, R99: of the checks of a convoy the first that fails is taken: the header's alignment and
fields and its mode bit with the header's address, then each member's in turn: not a member, or a register past the cap (0x10),
privilege (0x11), mode (0x12), use mask (0x13), CAPMASK (0x14), and at last the count of registers written (0x10). R91: opcode 0x7F is illegal on a service core; that the trap's value is then the header word
is this model's reading (notes/assumptions/22.md). -/
def Obligations.AStepRunsTheDecodedInstruction : Prop :=
  ∀ (s u v : State) (k : Nat) (r : List Sched) (w n : Nat) (ws : List (BitVec 64)) (is : List Instr) (i : Instr) (h : Header)
    (wd : BitVec 64) (e : DecodeError),
    let a := ({ s with agenda := r } : State).select k
    let b := a.markIssue.forcedPublish.sample
    let x := BitVec.ofNat 32 w
    s.stopped = false → s.inReset = false → s.agenda = .issue k :: r → a.hart.key = k → a.hart.slot = .ready → a.hart.phase = .run →
    a.hart.cv.active = false → a.markIssue.forcedWaits = false → (a.hart.tlevel ≠ 0 ∨ a.hart.async30 = none ∧ a.hart.async31 = none) →
    b.fetchBytes b.hart.pc 4 = .ok (u, w) →
    let f := u.latch [BitVec.ofNat 64 w]
    let g := v.latch (x.setWidth 64 :: ws)
    let trap (cause : Nat) (val : Word) : Prop := step s = .next (g.takeTrap cause val g.hart.pc)
    (fetched x = .word i → step s = exec i f) ∧
    (fetched x = .bad e → step s = exec (.illegalWord (x.setWidth 64)) f) ∧
    (fetched x = .convoy h → f.hart.service = true → step s = exec (.illegalWord (x.setWidth 64)) f) ∧
    (fetched x = .convoy h → f.hart.service = false → f.fetchMembers 0 h.members = .ok (v, ws) →
      let pc := g.hart.pc
      let here := g.hart.memberAddr n
      let val (bit : Nat) : Word := BitVec.ofNat 64 (2 ^ 32 + n * 2 ^ 24 + bit)
      let alone (i : Instr) : Prop := (Instr.memberInfo i).alone = true ∧ 1 < h.members
      let framed : Prop := pc.toNat % 8 = 4 ∧ headerSound h ws = true
      let before : Prop := framed ∧ h.matrix = g.hart.regs.mode ∧
        ∀ j, j < n → ∃ i, decodeMember (ws.getD j 0) = .ok i ∧ ¬ alone i ∧ stage1 g j i = none
      let m := Instr.memberInfo i
      let capped : Prop := ∃ r ∈ m.vregs, g.hart.cap ≤ r.toNat
      let barred : Prop := m.priv = true ∧ g.hart.tlevel = 0
      let shut : Prop := (if g.hart.regs.mode then m.matrix else m.vector) = false
      let undeclared : Prop := g.hart.usemask.getLsbD m.cls = false
      let fenced : Prop := g.hart.underWay = false ∧ (g.core g.hart.core).capmask.getLsbD m.cls = false
      (convoyChecks g h ws = .ok is → step s = runMembers (g.beginConvoy h) {} is) ∧
      (¬ framed → trap 0x10 pc) ∧
      (framed → h.matrix ≠ g.hart.regs.mode → trap 0x12 pc) ∧
      (before → ws[n]? = some wd → decodeMember wd = .error e → trap 0x10 here) ∧
      (before → ws[n]? = some wd → decodeMember wd = .ok i →
        (alone i ∨ capped → trap 0x10 here) ∧
        (¬ alone i → ¬ capped → barred → trap 0x11 here) ∧
        (¬ alone i → ¬ capped → ¬ barred → shut → trap 0x12 here) ∧
        (¬ alone i → ¬ capped → ¬ barred → ¬ shut → undeclared → trap 0x13 (val m.cls)) ∧
        (¬ alone i → ¬ capped → ¬ barred → ¬ shut → ¬ undeclared → fenced → trap 0x14 (val m.cls))) ∧
      (before → n = ws.length → 16 < ((ws.filterMap fun x => (decodeMember x).toOption).map fun i => (Instr.memberInfo i).writes).sum →
        trap 0x10 pc))

/-- R402, R440, R444, R445, R393, R394: at reset the module is in step 0 of bring-up with its clocks running, no context but
the one that the model selects (a service core that sleeps, log entry 5), home memory with nothing written and in canonical
form, every table, log and counter empty, every link module in training, and every fuse unblown
(notes/assumptions/8.md). -/
def Obligations.ResetIsTheBeginningOfBringUp : Prop :=
  let s := State.reset
  s.bringUp = 0 ∧ s.stopped = false ∧ s.ticks = 0 ∧ s.mem = [] ∧ Memory.wf s.mem = true ∧ s.others = [] ∧ s.logs = [] ∧ s.gangs = [] ∧
  s.agenda = [] ∧ s.hart.service = true ∧ s.hart.slot = .sleeping ∧ s.fusedMin = 0 ∧
  (∀ k, (s.stack k).block = [] ∧ (s.stack k).launches = [] ∧ (s.stack k).mq = [] ∧ (s.stack k).pfb.frozen = false ∧
    (s.stack k).pfb.idx = 0 ∧ s.time k = 0 ∧ ∀ e m, ((s.stack k).link e m).state = 1) ∧
  (∀ g, (s.core g).copies = [] ∧ (s.core g).view = [] ∧ (s.core g).tlb = [])

/-- Every step of the module keeps home memory in its canonical form (the model's own form of memory): addresses strictly
rising, and no cell equal to what an unlisted address reads as. So two memories that read alike at every address are equal. -/
def Obligations.EveryStepKeepsMemoryCanonical : Prop :=
  (∀ s t : State, Memory.wf s.mem = true → step s = .next t → Memory.wf t.mem = true) ∧
  (∀ m n : Memory, Memory.wf m = true → Memory.wf n = true → (∀ a, m.read a = n.read a) → m = n)
end

