-- ==== Sys2Proof/Laws/Decode.lean ====
section
/-! SUPPORT. Lemmas about encodings: the fields of a word are read back from the word that joins them. -/

namespace Sys2Proof

/-! Where a field of a word stands: above the last part of the word, in it, or all of what is left. -/

theorem above {v w i n : Nat} {x : BitVec v} {y : BitVec w} {z : BitVec n} (e : x.extractLsb' (i - w) n = z)
    (h : w ≤ i := by decide) : (x ++ y).extractLsb' i n = z := (BitVec.extractLsb'_append_eq_of_le h).trans e
theorem below {v w i n : Nat} {x : BitVec v} {y : BitVec w} {z : BitVec n} (e : y.extractLsb' i n = z)
    (h : i + n ≤ w := by decide) : (x ++ y).extractLsb' i n = z := (BitVec.extractLsb'_append_eq_of_add_le h).trans e
theorem whole {n : Nat} {x : BitVec n} : x.extractLsb' 0 n = x := BitVec.extractLsb'_eq_self

theorem F32.part0 (f : BitVec 10) (b a d : BitVec 5) (op : BitVec 7) :
    @BitVec.extractLsb' (10+5+5+5+7) 22 10 (f ++ b ++ a ++ d ++ op) = f :=
  above <| above <| above <| above <| whole
theorem F32.part1 (f : BitVec 10) (b a d : BitVec 5) (op : BitVec 7) :
    @BitVec.extractLsb' (10+5+5+5+7) 17 5 (f ++ b ++ a ++ d ++ op) = b :=
  above <| above <| above <| below <| whole
theorem F32.part2 (f : BitVec 10) (b a d : BitVec 5) (op : BitVec 7) :
    @BitVec.extractLsb' (10+5+5+5+7) 12 5 (f ++ b ++ a ++ d ++ op) = a :=
  above <| above <| below <| whole
theorem F32.part3 (f : BitVec 10) (b a d : BitVec 5) (op : BitVec 7) :
    @BitVec.extractLsb' (10+5+5+5+7) 7 5 (f ++ b ++ a ++ d ++ op) = d :=
  above <| below <| whole
theorem F32.part4 (f : BitVec 10) (b a d : BitVec 5) (op : BitVec 7) :
    @BitVec.extractLsb' (10+5+5+5+7) 0 7 (f ++ b ++ a ++ d ++ op) = op :=
  below <| whole
theorem F64.part0 (x0 : BitVec 18) (x1 : BitVec 4) (x2 x3 : BitVec 1) (x4 : BitVec 5) (x5 x6 x7 x8 : BitVec 6) (x9 : BitVec 8) (x10 : BitVec 3) :
    @BitVec.extractLsb' (18+4+1+1+5+6+6+6+6+8+3) 46 18 (x0 ++ x1 ++ x2 ++ x3 ++ x4 ++ x5 ++ x6 ++ x7 ++ x8 ++ x9 ++ x10) = x0 :=
  above <| above <| above <| above <| above <| above <| above <| above <| above <| above <| whole
theorem F64.part1 (x0 : BitVec 18) (x1 : BitVec 4) (x2 x3 : BitVec 1) (x4 : BitVec 5) (x5 x6 x7 x8 : BitVec 6) (x9 : BitVec 8) (x10 : BitVec 3) :
    @BitVec.extractLsb' (18+4+1+1+5+6+6+6+6+8+3) 42 4 (x0 ++ x1 ++ x2 ++ x3 ++ x4 ++ x5 ++ x6 ++ x7 ++ x8 ++ x9 ++ x10) = x1 :=
  above <| above <| above <| above <| above <| above <| above <| above <| above <| below <| whole
theorem F64.part2 (x0 : BitVec 18) (x1 : BitVec 4) (x2 x3 : BitVec 1) (x4 : BitVec 5) (x5 x6 x7 x8 : BitVec 6) (x9 : BitVec 8) (x10 : BitVec 3) :
    @BitVec.extractLsb' (18+4+1+1+5+6+6+6+6+8+3) 41 1 (x0 ++ x1 ++ x2 ++ x3 ++ x4 ++ x5 ++ x6 ++ x7 ++ x8 ++ x9 ++ x10) = x2 :=
  above <| above <| above <| above <| above <| above <| above <| above <| below <| whole
theorem F64.part3 (x0 : BitVec 18) (x1 : BitVec 4) (x2 x3 : BitVec 1) (x4 : BitVec 5) (x5 x6 x7 x8 : BitVec 6) (x9 : BitVec 8) (x10 : BitVec 3) :
    @BitVec.extractLsb' (18+4+1+1+5+6+6+6+6+8+3) 40 1 (x0 ++ x1 ++ x2 ++ x3 ++ x4 ++ x5 ++ x6 ++ x7 ++ x8 ++ x9 ++ x10) = x3 :=
  above <| above <| above <| above <| above <| above <| above <| below <| whole
theorem F64.part4 (x0 : BitVec 18) (x1 : BitVec 4) (x2 x3 : BitVec 1) (x4 : BitVec 5) (x5 x6 x7 x8 : BitVec 6) (x9 : BitVec 8) (x10 : BitVec 3) :
    @BitVec.extractLsb' (18+4+1+1+5+6+6+6+6+8+3) 35 5 (x0 ++ x1 ++ x2 ++ x3 ++ x4 ++ x5 ++ x6 ++ x7 ++ x8 ++ x9 ++ x10) = x4 :=
  above <| above <| above <| above <| above <| above <| below <| whole
theorem F64.part5 (x0 : BitVec 18) (x1 : BitVec 4) (x2 x3 : BitVec 1) (x4 : BitVec 5) (x5 x6 x7 x8 : BitVec 6) (x9 : BitVec 8) (x10 : BitVec 3) :
    @BitVec.extractLsb' (18+4+1+1+5+6+6+6+6+8+3) 29 6 (x0 ++ x1 ++ x2 ++ x3 ++ x4 ++ x5 ++ x6 ++ x7 ++ x8 ++ x9 ++ x10) = x5 :=
  above <| above <| above <| above <| above <| below <| whole
theorem F64.part6 (x0 : BitVec 18) (x1 : BitVec 4) (x2 x3 : BitVec 1) (x4 : BitVec 5) (x5 x6 x7 x8 : BitVec 6) (x9 : BitVec 8) (x10 : BitVec 3) :
    @BitVec.extractLsb' (18+4+1+1+5+6+6+6+6+8+3) 23 6 (x0 ++ x1 ++ x2 ++ x3 ++ x4 ++ x5 ++ x6 ++ x7 ++ x8 ++ x9 ++ x10) = x6 :=
  above <| above <| above <| above <| below <| whole
theorem F64.part7 (x0 : BitVec 18) (x1 : BitVec 4) (x2 x3 : BitVec 1) (x4 : BitVec 5) (x5 x6 x7 x8 : BitVec 6) (x9 : BitVec 8) (x10 : BitVec 3) :
    @BitVec.extractLsb' (18+4+1+1+5+6+6+6+6+8+3) 17 6 (x0 ++ x1 ++ x2 ++ x3 ++ x4 ++ x5 ++ x6 ++ x7 ++ x8 ++ x9 ++ x10) = x7 :=
  above <| above <| above <| below <| whole
theorem F64.part8 (x0 : BitVec 18) (x1 : BitVec 4) (x2 x3 : BitVec 1) (x4 : BitVec 5) (x5 x6 x7 x8 : BitVec 6) (x9 : BitVec 8) (x10 : BitVec 3) :
    @BitVec.extractLsb' (18+4+1+1+5+6+6+6+6+8+3) 11 6 (x0 ++ x1 ++ x2 ++ x3 ++ x4 ++ x5 ++ x6 ++ x7 ++ x8 ++ x9 ++ x10) = x8 :=
  above <| above <| below <| whole
theorem F64.part9 (x0 : BitVec 18) (x1 : BitVec 4) (x2 x3 : BitVec 1) (x4 : BitVec 5) (x5 x6 x7 x8 : BitVec 6) (x9 : BitVec 8) (x10 : BitVec 3) :
    @BitVec.extractLsb' (18+4+1+1+5+6+6+6+6+8+3) 3 8 (x0 ++ x1 ++ x2 ++ x3 ++ x4 ++ x5 ++ x6 ++ x7 ++ x8 ++ x9 ++ x10) = x9 :=
  above <| below <| whole
theorem F64.part10 (x0 : BitVec 18) (x1 : BitVec 4) (x2 x3 : BitVec 1) (x4 : BitVec 5) (x5 x6 x7 x8 : BitVec 6) (x9 : BitVec 8) (x10 : BitVec 3) :
    @BitVec.extractLsb' (18+4+1+1+5+6+6+6+6+8+3) 0 3 (x0 ++ x1 ++ x2 ++ x3 ++ x4 ++ x5 ++ x6 ++ x7 ++ x8 ++ x9 ++ x10) = x10 :=
  below <| whole

/-- The fields of a scalar word are read back from it. -/
@[simp] theorem F32.split_join (x : F32) : F32.split x.join = x := by
  rcases x with ⟨f, b, a, d, op⟩
  simp only [F32.split, F32.join, F32.mk.injEq]
  exact ⟨F32.part0 .., F32.part1 .., F32.part2 .., F32.part3 .., F32.part4 ..⟩

/-- A one-bit field as a bit. -/
theorem getLsbD_of_field (w : BitVec 64) (i : Nat) (b : Bool) (h : w.extractLsb' i 1 = bit b 1) : w.getLsbD i = b := by
  have := congrArg (fun x => x.getLsbD 0) h
  simp at this
  rw [this]; cases b <;> rfl

/-- The fields of a member are read back from it. -/
@[simp] theorem F64.split_join (x : F64) : F64.split x.join = x := by
  rcases x with ⟨f, b, a, d, op, p, q, r, s, t, u⟩
  simp only [F64.split, F64.join, F64.mk.injEq]
  exact ⟨F64.part0 .., F64.part1 .., getLsbD_of_field _ _ _ (F64.part2 ..), getLsbD_of_field _ _ _ (F64.part3 ..), F64.part4 .., F64.part5 .., F64.part6 .., F64.part7 .., F64.part8 .., F64.part9 .., F64.part10 ..⟩

/-! The immediates of a word are read back from its fields. -/

@[simp] theorem F32.immI_si (op : BitVec 7) (m : BitVec 15) (a d) : (F32.si op m a d).immI = m := by
  apply BitVec.eq_of_getLsbD_eq; intro i hi
  simp only [F32.si, F32.immI, BitVec.getLsbD_append, BitVec.getLsbD_extractLsb']
  split
  · simp [*]
  · have : 5 + (i - 5) = i := by omega
    simp [*]; omega
@[simp] theorem F32.immB_sb (op : BitVec 7) (m : BitVec 15) (a d) : (F32.sb op m a d).immB = m := by
  apply BitVec.eq_of_getLsbD_eq; intro i hi
  simp only [F32.sb, F32.immB, BitVec.getLsbD_append, BitVec.getLsbD_extractLsb']
  split
  · simp [*]
  · have : 5 + (i - 5) = i := by omega
    simp [*]; omega
@[simp] theorem F32.imm20_sj (op : BitVec 7) (m : BitVec 20) (d) : (F32.sj op m d).imm20 = m := by
  apply BitVec.eq_of_getLsbD_eq; intro i hi
  simp only [F32.sj, F32.imm20, BitVec.getLsbD_append, BitVec.getLsbD_extractLsb']
  split
  · simp [*]
  · split
    · have : 5 + (i - 5) = i := by omega
      simp [*]
    · have : 10 + (i - 5 - 5) = i := by omega
      simp [*]; omega
@[simp] theorem F32.hi5_s3 (op : BitVec 7) (c l : BitVec 5) (b a d) : (F32.s3 op (c ++ l) b a d).hi5 = c := 
  above whole
@[simp] theorem F32.lo5_s3 (op : BitVec 7) (c l : BitVec 5) (b a d) : (F32.s3 op (c ++ l) b a d).lo5 = l := 
  below whole

end Sys2Proof
end

