-- ==== Sys2Proof/Laws/Memory.lean ====
section
/-! SUPPORT. Laws of the tables, of memory as cells, and of the registers: read after write, the canonical form, and
what stands after a write. -/

namespace Sys2Proof

/-! ## Tables -/

@[simp] theorem Tbl.look_nil {α : Type} (k : Nat) (d : α) : Tbl.look [] k d = d := rfl

@[simp] theorem Tbl.look_put_same {α : Type} (t : Tbl α) (k : Nat) (v d : α) : (t.put k v).look k d = v := by
  induction t with
  | nil => simp [Tbl.put, Tbl.look]
  | cons e r ih =>
    obtain ⟨k', v'⟩ := e
    simp only [Tbl.put]
    split
    · simp [Tbl.look]
    · split
      · simp [Tbl.look]
      · simp [Tbl.look, *]

theorem Tbl.look_put_other {α : Type} (t : Tbl α) {k j : Nat} (v d : α) (h : j ≠ k) :
    (t.put k v).look j d = t.look j d := by
  induction t with
  | nil => simp [Tbl.put, Tbl.look, Ne.symm h]
  | cons e r ih =>
    obtain ⟨k', v'⟩ := e
    simp only [Tbl.put]
    split
    · next he => subst he; simp [Tbl.look, Ne.symm h]
    · split
      · simp [Tbl.look, Ne.symm h]
      · simp [Tbl.look, ih]

theorem Tbl.look_drop_other {α : Type} (t : Tbl α) {k j : Nat} (d : α) (h : j ≠ k) :
    (t.drop k).look j d = t.look j d := by
  induction t with
  | nil => rfl
  | cons e r ih =>
    obtain ⟨k', v'⟩ := e
    unfold Tbl.drop at ih ⊢
    by_cases hk : k' = k
    · subst hk; simp [Tbl.look, Ne.symm h, ih]
    · simp [Tbl.look, hk, ih]

@[simp] theorem Tbl.look_drop_same {α : Type} (t : Tbl α) (k : Nat) (d : α) : (t.drop k).look k d = d := by
  induction t with
  | nil => rfl
  | cons e r ih =>
    obtain ⟨k', v'⟩ := e
    unfold Tbl.drop at ih ⊢
    by_cases hk : k' = k <;> simp [Tbl.look, hk, ih]

namespace Machine

/-! ## Cells -/

@[simp] theorem cellRead_put_same (z : Byte) (m : Memory) (a : Nat) (b : Byte) : cellRead z (cellPut m a b) a = b := by
  induction m with
  | nil => simp [cellPut, cellRead]
  | cons e r ih =>
    obtain ⟨a', b'⟩ := e
    simp only [cellPut]
    split
    · simp [cellRead]
    · split <;> simp [cellRead, *]

theorem cellRead_put_other (z : Byte) (m : Memory) {a c : Nat} (b : Byte) (h : c ≠ a) :
    cellRead z (cellPut m a b) c = cellRead z m c := by
  induction m with
  | nil => simp [cellPut, cellRead, Ne.symm h]
  | cons e r ih =>
    obtain ⟨a', b'⟩ := e
    simp only [cellPut]
    split
    · next he => subst he; simp [cellRead, Ne.symm h]
    · split
      · simp [cellRead, Ne.symm h]
      · simp [cellRead, ih]

@[simp] theorem cellRead_erase_same (z : Byte) (m : Memory) (a : Nat) : cellRead z (cellErase m a) a = z := by
  induction m with
  | nil => rfl
  | cons e r ih =>
    obtain ⟨a', b'⟩ := e
    simp only [cellErase]
    split <;> simp [cellRead, *]

theorem cellRead_erase_other (z : Byte) (m : Memory) {a c : Nat} (h : c ≠ a) :
    cellRead z (cellErase m a) c = cellRead z m c := by
  induction m with
  | nil => rfl
  | cons e r ih =>
    obtain ⟨a', b'⟩ := e
    simp only [cellErase]
    split
    · next he => subst he; simp [cellRead, Ne.symm h, ih]
    · simp [cellRead, ih]

@[simp] theorem cellRead_write_same (z : Byte) (m : Memory) (a : Nat) (b : Byte) : cellRead z (cellWrite z m a b) a = b := by
  unfold cellWrite
  split
  · next h => simp [h]
  · simp

theorem cellRead_write_other (y z : Byte) (m : Memory) {a c : Nat} (b : Byte) (h : c ≠ a) :
    cellRead y (cellWrite z m a b) c = cellRead y m c := by
  unfold cellWrite
  split
  · exact cellRead_erase_other y m h
  · exact cellRead_put_other y m b h

theorem cellsWf_lower {z : Nat → Byte} {lo lo' : Nat} {m : Memory} (h : cellsWf z lo m = true) (hl : lo' ≤ lo) :
    cellsWf z lo' m = true := by
  cases m with
  | nil => rfl
  | cons e r =>
    simp only [cellsWf, Bool.and_eq_true, decide_eq_true_eq] at h ⊢
    exact ⟨⟨by omega, h.1.2⟩, h.2⟩

theorem cellsWf_erase {z : Nat → Byte} (m : Memory) (lo a : Nat) (h : cellsWf z lo m = true) :
    cellsWf z lo (cellErase m a) = true := by
  induction m generalizing lo with
  | nil => rfl
  | cons e r ih =>
    simp only [cellsWf, Bool.and_eq_true, decide_eq_true_eq] at h
    simp only [cellErase]
    split
    · exact ih lo (cellsWf_lower h.2 (by omega))
    · simp only [cellsWf, Bool.and_eq_true, decide_eq_true_eq]
      exact ⟨h.1, ih _ h.2⟩

theorem cellsWf_put {z : Nat → Byte} (m : Memory) (lo a : Nat) (b : Byte) (h : cellsWf z lo m = true) (hl : lo ≤ a)
    (hb : b ≠ z a) : cellsWf z lo (cellPut m a b) = true := by
  induction m generalizing lo with
  | nil => simp [cellPut, cellsWf, hl, hb]
  | cons e r ih =>
    simp only [cellsWf, Bool.and_eq_true, decide_eq_true_eq] at h
    simp only [cellPut]
    split
    · next he => simp only [cellsWf, Bool.and_eq_true, decide_eq_true_eq]; subst he; exact ⟨⟨hl, by simp [hb]⟩, h.2⟩
    · split
      · simp only [cellsWf, Bool.and_eq_true, decide_eq_true_eq]
        exact ⟨⟨hl, by simp [hb]⟩, ⟨by omega, h.1.2⟩, h.2⟩
      · simp only [cellsWf, Bool.and_eq_true, decide_eq_true_eq]
        exact ⟨h.1, ih _ h.2 (by omega)⟩

/-! ## Home memory -/

@[simp] theorem Memory.read_write_same (m : Memory) (a : Nat) (b : Byte) : Memory.read (Memory.write m a b) a = b := by
  simp [Memory.read, Memory.write]

theorem Memory.read_write_other (m : Memory) {a c : Nat} (b : Byte) (h : c ≠ a) :
    Memory.read (Memory.write m a b) c = Memory.read m c := by
  simp [Memory.read, Memory.write, cellRead_write_other _ _ m b h]

/-- A write of one byte keeps the canonical form. -/
theorem Memory.wf_write (m : Memory) (a : Nat) (b : Byte) (h : Memory.wf m = true) : Memory.wf (Memory.write m a b) = true := by
  unfold Memory.wf Memory.write cellWrite at *
  split
  · exact cellsWf_erase m 0 a h
  · next hb => exact cellsWf_put m 0 a b h (Nat.zero_le a) hb

theorem Memory.wf_writeN (n : Nat) (m : Memory) (a x : Nat) (h : Memory.wf m = true) :
    Memory.wf (Memory.writeN m a n x) = true := by
  induction n generalizing m a x with
  | zero => exact h
  | succ n ih => exact ih _ _ _ (wf_write m a _ h)

theorem Memory.wf_writeList (bs : List Byte) (m : Memory) (a : Nat) (h : Memory.wf m = true) :
    Memory.wf (Memory.writeList m a bs) = true := by
  induction bs generalizing m a with
  | nil => exact h
  | cons b bs ih => exact ih _ _ (wf_write m a b h)

theorem Memory.wf_writeMasked (n : Nat) (m : Memory) (sec : Nat) (mask : BitVec 64) (x : BitVec 512)
    (h : Memory.wf m = true) : Memory.wf (Memory.writeMasked m sec mask x n) = true := by
  induction n with
  | zero => exact h
  | succ n ih =>
    simp only [Memory.writeMasked]
    split
    · exact wf_write _ _ _ ih
    · exact ih

/-- A write of `n` bytes from `a` leaves every byte outside them. -/
theorem Memory.read_writeN_other (n : Nat) (m : Memory) (a x c : Nat) (h : c < a ∨ a + n ≤ c) :
    Memory.read (Memory.writeN m a n x) c = Memory.read m c := by
  induction n generalizing m a x with
  | zero => rfl
  | succ n ih => exact (ih _ _ _ (by omega)).trans (read_write_other m _ (by omega))

/-- The canonical form of reset memory. -/
theorem reset_mem_wf : Memory.wf State.reset.mem = true := rfl

/-! ## Registers -/

@[simp] theorem Regs.rs_zero (r : Regs) : r.rs 0 = 0 := rfl

@[simp] theorem Regs.ws_zero (r : Regs) (x : Word) : r.ws 0 x = r := rfl

theorem Regs.rs_ws_same (r : Regs) {n : SReg} (x : Word) (h : n ≠ 0) : (r.ws n x).rs n = x := by
  rw [Regs.rs, Regs.ws, if_neg h, if_neg h]
  exact Tbl.look_put_same _ _ _ _

theorem Regs.rs_ws_other (r : Regs) {n m : SReg} (x : Word) (h : m ≠ n) : (r.ws n x).rs m = r.rs m := by
  unfold Regs.rs Regs.ws
  split
  · rfl
  · split
    · rfl
    · exact Tbl.look_put_other _ _ _ fun e => h (BitVec.eq_of_toNat_eq e)

theorem Regs.rv_wv_same (r : Regs) (n : VReg) (x : VRegS) : (r.wv n x).rv n = x :=
  Tbl.look_put_same _ _ _ _

theorem Regs.rv_wv_other (r : Regs) {n m : VReg} (x : VRegS) (h : m ≠ n) : (r.wv n x).rv m = r.rv m := by
  unfold Regs.rv Regs.wv
  exact Tbl.look_put_other _ _ _ fun e => h (BitVec.eq_of_toNat_eq e)

@[simp] theorem Regs.wp_zero (r : Regs) (x : BitVec 16384) : r.wp 0 x = r := rfl

theorem Regs.rp_wp_other (r : Regs) {n m : PReg} (x : BitVec 16384) (h : m ≠ n) : (r.wp n x).rp m = r.rp m := by
  unfold Regs.rp Regs.wp
  split
  · rfl
  · split
    · rfl
    · exact Tbl.look_put_other _ _ _ fun e => h (BitVec.eq_of_toNat_eq e)

theorem Regs.rb_wb_same (r : Regs) (n : BReg) (x : BitVec 128) : (r.wb n x).rb n = x :=
  Tbl.look_put_same _ _ _ _

theorem Regs.rb_wb_other (r : Regs) {n m : BReg} (x : BitVec 128) (h : m ≠ n) : (r.wb n x).rb m = r.rb m := by
  unfold Regs.rb Regs.wb
  exact Tbl.look_put_other _ _ _ fun e => h (BitVec.eq_of_toNat_eq e)

end Machine

end Sys2Proof
end

