-- ==== Sys2Proof/Laws/State.lean ====
section
/-! SUPPORT. One lemma per field per update of the state: what each update leaves alone, and what it sets. -/

namespace Sys2Proof.Machine

namespace State

variable (s : State)

/-! ### `modCore` -/

@[simp] theorem modCore_agenda (g : Nat) (f : CoreS → CoreS) : (s.modCore g f).agenda = s.agenda := rfl
@[simp] theorem modCore_stalled (g : Nat) (f : CoreS → CoreS) : (s.modCore g f).stalled = s.stalled := rfl
@[simp] theorem modCore_fresh (g : Nat) (f : CoreS → CoreS) : (s.modCore g f).fresh = s.fresh := rfl
@[simp] theorem modCore_serial (g : Nat) (f : CoreS → CoreS) : (s.modCore g f).serial = s.serial := rfl
@[simp] theorem modCore_ticks (g : Nat) (f : CoreS → CoreS) : (s.modCore g f).ticks = s.ticks := rfl
@[simp] theorem modCore_skew (g : Nat) (f : CoreS → CoreS) : (s.modCore g f).skew = s.skew := rfl
@[simp] theorem modCore_hart (g : Nat) (f : CoreS → CoreS) : (s.modCore g f).hart = s.hart := rfl
@[simp] theorem modCore_others (g : Nat) (f : CoreS → CoreS) : (s.modCore g f).others = s.others := rfl
@[simp] theorem modCore_gangs (g : Nat) (f : CoreS → CoreS) : (s.modCore g f).gangs = s.gangs := rfl
@[simp] theorem modCore_logs (g : Nat) (f : CoreS → CoreS) : (s.modCore g f).logs = s.logs := rfl
@[simp] theorem modCore_past (g : Nat) (f : CoreS → CoreS) : (s.modCore g f).past = s.past := rfl
@[simp] theorem modCore_stackTab (g : Nat) (f : CoreS → CoreS) : (s.modCore g f).stackTab = s.stackTab := rfl
@[simp] theorem modCore_mem (g : Nat) (f : CoreS → CoreS) : (s.modCore g f).mem = s.mem := rfl
@[simp] theorem modCore_poison (g : Nat) (f : CoreS → CoreS) : (s.modCore g f).poison = s.poison := rfl
@[simp] theorem modCore_tdis (g : Nat) (f : CoreS → CoreS) : (s.modCore g f).tdis = s.tdis := rfl
@[simp] theorem modCore_portDomain (g : Nat) (f : CoreS → CoreS) : (s.modCore g f).portDomain = s.portDomain := rfl
@[simp] theorem modCore_perst (g : Nat) (f : CoreS → CoreS) : (s.modCore g f).perst = s.perst := rfl
@[simp] theorem modCore_spdm (g : Nat) (f : CoreS → CoreS) : (s.modCore g f).spdm = s.spdm := rfl
@[simp] theorem modCore_conns (g : Nat) (f : CoreS → CoreS) : (s.modCore g f).conns = s.conns := rfl
@[simp] theorem modCore_out (g : Nat) (f : CoreS → CoreS) : (s.modCore g f).out = s.out := rfl
@[simp] theorem modCore_flash (g : Nat) (f : CoreS → CoreS) : (s.modCore g f).flash = s.flash := rfl
@[simp] theorem modCore_active (g : Nat) (f : CoreS → CoreS) : (s.modCore g f).active = s.active := rfl
@[simp] theorem modCore_newImage (g : Nat) (f : CoreS → CoreS) : (s.modCore g f).newImage = s.newImage := rfl
@[simp] theorem modCore_image (g : Nat) (f : CoreS → CoreS) : (s.modCore g f).image = s.image := rfl
@[simp] theorem modCore_fusedMin (g : Nat) (f : CoreS → CoreS) : (s.modCore g f).fusedMin = s.fusedMin := rfl
@[simp] theorem modCore_keyHash (g : Nat) (f : CoreS → CoreS) : (s.modCore g f).keyHash = s.keyHash := rfl
@[simp] theorem modCore_bringUp (g : Nat) (f : CoreS → CoreS) : (s.modCore g f).bringUp = s.bringUp := rfl
@[simp] theorem modCore_upSince (g : Nat) (f : CoreS → CoreS) : (s.modCore g f).upSince = s.upSince := rfl
@[simp] theorem modCore_warm (g : Nat) (f : CoreS → CoreS) : (s.modCore g f).warm = s.warm := rfl
@[simp] theorem modCore_failed (g : Nat) (f : CoreS → CoreS) : (s.modCore g f).failed = s.failed := rfl
@[simp] theorem modCore_farPuts (g : Nat) (f : CoreS → CoreS) : (s.modCore g f).farPuts = s.farPuts := rfl
@[simp] theorem modCore_farParts (g : Nat) (f : CoreS → CoreS) : (s.modCore g f).farParts = s.farParts := rfl
@[simp] theorem modCore_gathers (g : Nat) (f : CoreS → CoreS) : (s.modCore g f).gathers = s.gathers := rfl
@[simp] theorem modCore_badCopies (g : Nat) (f : CoreS → CoreS) : (s.modCore g f).badCopies = s.badCopies := rfl
@[simp] theorem modCore_modrst (g : Nat) (f : CoreS → CoreS) : (s.modCore g f).modrst = s.modrst := rfl
@[simp] theorem modCore_powerLow (g : Nat) (f : CoreS → CoreS) : (s.modCore g f).powerLow = s.powerLow := rfl
@[simp] theorem modCore_sensors (g : Nat) (f : CoreS → CoreS) : (s.modCore g f).sensors = s.sensors := rfl
@[simp] theorem modCore_engaged (g : Nat) (f : CoreS → CoreS) : (s.modCore g f).engaged = s.engaged := rfl
@[simp] theorem modCore_stopped (g : Nat) (f : CoreS → CoreS) : (s.modCore g f).stopped = s.stopped := rfl
@[simp] theorem modCore_thermtrip (g : Nat) (f : CoreS → CoreS) : (s.modCore g f).thermtrip = s.thermtrip := rfl
@[simp] theorem modCore_alert (g : Nat) (f : CoreS → CoreS) : (s.modCore g f).alert = s.alert := rfl

/-! ### `modStack` -/

@[simp] theorem modStack_agenda (k : Nat) (f : Stack → Stack) : (s.modStack k f).agenda = s.agenda := rfl
@[simp] theorem modStack_stalled (k : Nat) (f : Stack → Stack) : (s.modStack k f).stalled = s.stalled := rfl
@[simp] theorem modStack_fresh (k : Nat) (f : Stack → Stack) : (s.modStack k f).fresh = s.fresh := rfl
@[simp] theorem modStack_serial (k : Nat) (f : Stack → Stack) : (s.modStack k f).serial = s.serial := rfl
@[simp] theorem modStack_ticks (k : Nat) (f : Stack → Stack) : (s.modStack k f).ticks = s.ticks := rfl
@[simp] theorem modStack_skew (k : Nat) (f : Stack → Stack) : (s.modStack k f).skew = s.skew := rfl
@[simp] theorem modStack_hart (k : Nat) (f : Stack → Stack) : (s.modStack k f).hart = s.hart := rfl
@[simp] theorem modStack_others (k : Nat) (f : Stack → Stack) : (s.modStack k f).others = s.others := rfl
@[simp] theorem modStack_cores (k : Nat) (f : Stack → Stack) : (s.modStack k f).cores = s.cores := rfl
@[simp] theorem modStack_gangs (k : Nat) (f : Stack → Stack) : (s.modStack k f).gangs = s.gangs := rfl
@[simp] theorem modStack_logs (k : Nat) (f : Stack → Stack) : (s.modStack k f).logs = s.logs := rfl
@[simp] theorem modStack_past (k : Nat) (f : Stack → Stack) : (s.modStack k f).past = s.past := rfl
@[simp] theorem modStack_mem (k : Nat) (f : Stack → Stack) : (s.modStack k f).mem = s.mem := rfl
@[simp] theorem modStack_poison (k : Nat) (f : Stack → Stack) : (s.modStack k f).poison = s.poison := rfl
@[simp] theorem modStack_tdis (k : Nat) (f : Stack → Stack) : (s.modStack k f).tdis = s.tdis := rfl
@[simp] theorem modStack_portDomain (k : Nat) (f : Stack → Stack) : (s.modStack k f).portDomain = s.portDomain := rfl
@[simp] theorem modStack_perst (k : Nat) (f : Stack → Stack) : (s.modStack k f).perst = s.perst := rfl
@[simp] theorem modStack_spdm (k : Nat) (f : Stack → Stack) : (s.modStack k f).spdm = s.spdm := rfl
@[simp] theorem modStack_conns (k : Nat) (f : Stack → Stack) : (s.modStack k f).conns = s.conns := rfl
@[simp] theorem modStack_out (k : Nat) (f : Stack → Stack) : (s.modStack k f).out = s.out := rfl
@[simp] theorem modStack_flash (k : Nat) (f : Stack → Stack) : (s.modStack k f).flash = s.flash := rfl
@[simp] theorem modStack_active (k : Nat) (f : Stack → Stack) : (s.modStack k f).active = s.active := rfl
@[simp] theorem modStack_newImage (k : Nat) (f : Stack → Stack) : (s.modStack k f).newImage = s.newImage := rfl
@[simp] theorem modStack_image (k : Nat) (f : Stack → Stack) : (s.modStack k f).image = s.image := rfl
@[simp] theorem modStack_fusedMin (k : Nat) (f : Stack → Stack) : (s.modStack k f).fusedMin = s.fusedMin := rfl
@[simp] theorem modStack_keyHash (k : Nat) (f : Stack → Stack) : (s.modStack k f).keyHash = s.keyHash := rfl
@[simp] theorem modStack_bringUp (k : Nat) (f : Stack → Stack) : (s.modStack k f).bringUp = s.bringUp := rfl
@[simp] theorem modStack_upSince (k : Nat) (f : Stack → Stack) : (s.modStack k f).upSince = s.upSince := rfl
@[simp] theorem modStack_warm (k : Nat) (f : Stack → Stack) : (s.modStack k f).warm = s.warm := rfl
@[simp] theorem modStack_failed (k : Nat) (f : Stack → Stack) : (s.modStack k f).failed = s.failed := rfl
@[simp] theorem modStack_farPuts (k : Nat) (f : Stack → Stack) : (s.modStack k f).farPuts = s.farPuts := rfl
@[simp] theorem modStack_farParts (k : Nat) (f : Stack → Stack) : (s.modStack k f).farParts = s.farParts := rfl
@[simp] theorem modStack_gathers (k : Nat) (f : Stack → Stack) : (s.modStack k f).gathers = s.gathers := rfl
@[simp] theorem modStack_badCopies (k : Nat) (f : Stack → Stack) : (s.modStack k f).badCopies = s.badCopies := rfl
@[simp] theorem modStack_modrst (k : Nat) (f : Stack → Stack) : (s.modStack k f).modrst = s.modrst := rfl
@[simp] theorem modStack_powerLow (k : Nat) (f : Stack → Stack) : (s.modStack k f).powerLow = s.powerLow := rfl
@[simp] theorem modStack_sensors (k : Nat) (f : Stack → Stack) : (s.modStack k f).sensors = s.sensors := rfl
@[simp] theorem modStack_engaged (k : Nat) (f : Stack → Stack) : (s.modStack k f).engaged = s.engaged := rfl
@[simp] theorem modStack_stopped (k : Nat) (f : Stack → Stack) : (s.modStack k f).stopped = s.stopped := rfl
@[simp] theorem modStack_thermtrip (k : Nat) (f : Stack → Stack) : (s.modStack k f).thermtrip = s.thermtrip := rfl
@[simp] theorem modStack_alert (k : Nat) (f : Stack → Stack) : (s.modStack k f).alert = s.alert := rfl

/-! ### `modLog` -/

@[simp] theorem modLog_agenda (l : Nat) (f : Log → Log) : (s.modLog l f).agenda = s.agenda := rfl
@[simp] theorem modLog_stalled (l : Nat) (f : Log → Log) : (s.modLog l f).stalled = s.stalled := rfl
@[simp] theorem modLog_fresh (l : Nat) (f : Log → Log) : (s.modLog l f).fresh = s.fresh := rfl
@[simp] theorem modLog_serial (l : Nat) (f : Log → Log) : (s.modLog l f).serial = s.serial := rfl
@[simp] theorem modLog_ticks (l : Nat) (f : Log → Log) : (s.modLog l f).ticks = s.ticks := rfl
@[simp] theorem modLog_skew (l : Nat) (f : Log → Log) : (s.modLog l f).skew = s.skew := rfl
@[simp] theorem modLog_hart (l : Nat) (f : Log → Log) : (s.modLog l f).hart = s.hart := rfl
@[simp] theorem modLog_others (l : Nat) (f : Log → Log) : (s.modLog l f).others = s.others := rfl
@[simp] theorem modLog_cores (l : Nat) (f : Log → Log) : (s.modLog l f).cores = s.cores := rfl
@[simp] theorem modLog_gangs (l : Nat) (f : Log → Log) : (s.modLog l f).gangs = s.gangs := rfl
@[simp] theorem modLog_past (l : Nat) (f : Log → Log) : (s.modLog l f).past = s.past := rfl
@[simp] theorem modLog_stackTab (l : Nat) (f : Log → Log) : (s.modLog l f).stackTab = s.stackTab := rfl
@[simp] theorem modLog_mem (l : Nat) (f : Log → Log) : (s.modLog l f).mem = s.mem := rfl
@[simp] theorem modLog_poison (l : Nat) (f : Log → Log) : (s.modLog l f).poison = s.poison := rfl
@[simp] theorem modLog_tdis (l : Nat) (f : Log → Log) : (s.modLog l f).tdis = s.tdis := rfl
@[simp] theorem modLog_portDomain (l : Nat) (f : Log → Log) : (s.modLog l f).portDomain = s.portDomain := rfl
@[simp] theorem modLog_perst (l : Nat) (f : Log → Log) : (s.modLog l f).perst = s.perst := rfl
@[simp] theorem modLog_spdm (l : Nat) (f : Log → Log) : (s.modLog l f).spdm = s.spdm := rfl
@[simp] theorem modLog_conns (l : Nat) (f : Log → Log) : (s.modLog l f).conns = s.conns := rfl
@[simp] theorem modLog_out (l : Nat) (f : Log → Log) : (s.modLog l f).out = s.out := rfl
@[simp] theorem modLog_flash (l : Nat) (f : Log → Log) : (s.modLog l f).flash = s.flash := rfl
@[simp] theorem modLog_active (l : Nat) (f : Log → Log) : (s.modLog l f).active = s.active := rfl
@[simp] theorem modLog_newImage (l : Nat) (f : Log → Log) : (s.modLog l f).newImage = s.newImage := rfl
@[simp] theorem modLog_image (l : Nat) (f : Log → Log) : (s.modLog l f).image = s.image := rfl
@[simp] theorem modLog_fusedMin (l : Nat) (f : Log → Log) : (s.modLog l f).fusedMin = s.fusedMin := rfl
@[simp] theorem modLog_keyHash (l : Nat) (f : Log → Log) : (s.modLog l f).keyHash = s.keyHash := rfl
@[simp] theorem modLog_bringUp (l : Nat) (f : Log → Log) : (s.modLog l f).bringUp = s.bringUp := rfl
@[simp] theorem modLog_upSince (l : Nat) (f : Log → Log) : (s.modLog l f).upSince = s.upSince := rfl
@[simp] theorem modLog_warm (l : Nat) (f : Log → Log) : (s.modLog l f).warm = s.warm := rfl
@[simp] theorem modLog_failed (l : Nat) (f : Log → Log) : (s.modLog l f).failed = s.failed := rfl
@[simp] theorem modLog_farPuts (l : Nat) (f : Log → Log) : (s.modLog l f).farPuts = s.farPuts := rfl
@[simp] theorem modLog_farParts (l : Nat) (f : Log → Log) : (s.modLog l f).farParts = s.farParts := rfl
@[simp] theorem modLog_gathers (l : Nat) (f : Log → Log) : (s.modLog l f).gathers = s.gathers := rfl
@[simp] theorem modLog_badCopies (l : Nat) (f : Log → Log) : (s.modLog l f).badCopies = s.badCopies := rfl
@[simp] theorem modLog_modrst (l : Nat) (f : Log → Log) : (s.modLog l f).modrst = s.modrst := rfl
@[simp] theorem modLog_powerLow (l : Nat) (f : Log → Log) : (s.modLog l f).powerLow = s.powerLow := rfl
@[simp] theorem modLog_sensors (l : Nat) (f : Log → Log) : (s.modLog l f).sensors = s.sensors := rfl
@[simp] theorem modLog_engaged (l : Nat) (f : Log → Log) : (s.modLog l f).engaged = s.engaged := rfl
@[simp] theorem modLog_stopped (l : Nat) (f : Log → Log) : (s.modLog l f).stopped = s.stopped := rfl
@[simp] theorem modLog_thermtrip (l : Nat) (f : Log → Log) : (s.modLog l f).thermtrip = s.thermtrip := rfl
@[simp] theorem modLog_alert (l : Nat) (f : Log → Log) : (s.modLog l f).alert = s.alert := rfl

/-! ### `modGang` -/

@[simp] theorem modGang_agenda (g : Nat) (f : Gang → Gang) : (s.modGang g f).agenda = s.agenda := rfl
@[simp] theorem modGang_stalled (g : Nat) (f : Gang → Gang) : (s.modGang g f).stalled = s.stalled := rfl
@[simp] theorem modGang_fresh (g : Nat) (f : Gang → Gang) : (s.modGang g f).fresh = s.fresh := rfl
@[simp] theorem modGang_serial (g : Nat) (f : Gang → Gang) : (s.modGang g f).serial = s.serial := rfl
@[simp] theorem modGang_ticks (g : Nat) (f : Gang → Gang) : (s.modGang g f).ticks = s.ticks := rfl
@[simp] theorem modGang_skew (g : Nat) (f : Gang → Gang) : (s.modGang g f).skew = s.skew := rfl
@[simp] theorem modGang_hart (g : Nat) (f : Gang → Gang) : (s.modGang g f).hart = s.hart := rfl
@[simp] theorem modGang_others (g : Nat) (f : Gang → Gang) : (s.modGang g f).others = s.others := rfl
@[simp] theorem modGang_cores (g : Nat) (f : Gang → Gang) : (s.modGang g f).cores = s.cores := rfl
@[simp] theorem modGang_logs (g : Nat) (f : Gang → Gang) : (s.modGang g f).logs = s.logs := rfl
@[simp] theorem modGang_past (g : Nat) (f : Gang → Gang) : (s.modGang g f).past = s.past := rfl
@[simp] theorem modGang_stackTab (g : Nat) (f : Gang → Gang) : (s.modGang g f).stackTab = s.stackTab := rfl
@[simp] theorem modGang_mem (g : Nat) (f : Gang → Gang) : (s.modGang g f).mem = s.mem := rfl
@[simp] theorem modGang_poison (g : Nat) (f : Gang → Gang) : (s.modGang g f).poison = s.poison := rfl
@[simp] theorem modGang_tdis (g : Nat) (f : Gang → Gang) : (s.modGang g f).tdis = s.tdis := rfl
@[simp] theorem modGang_portDomain (g : Nat) (f : Gang → Gang) : (s.modGang g f).portDomain = s.portDomain := rfl
@[simp] theorem modGang_perst (g : Nat) (f : Gang → Gang) : (s.modGang g f).perst = s.perst := rfl
@[simp] theorem modGang_spdm (g : Nat) (f : Gang → Gang) : (s.modGang g f).spdm = s.spdm := rfl
@[simp] theorem modGang_conns (g : Nat) (f : Gang → Gang) : (s.modGang g f).conns = s.conns := rfl
@[simp] theorem modGang_out (g : Nat) (f : Gang → Gang) : (s.modGang g f).out = s.out := rfl
@[simp] theorem modGang_flash (g : Nat) (f : Gang → Gang) : (s.modGang g f).flash = s.flash := rfl
@[simp] theorem modGang_active (g : Nat) (f : Gang → Gang) : (s.modGang g f).active = s.active := rfl
@[simp] theorem modGang_newImage (g : Nat) (f : Gang → Gang) : (s.modGang g f).newImage = s.newImage := rfl
@[simp] theorem modGang_image (g : Nat) (f : Gang → Gang) : (s.modGang g f).image = s.image := rfl
@[simp] theorem modGang_fusedMin (g : Nat) (f : Gang → Gang) : (s.modGang g f).fusedMin = s.fusedMin := rfl
@[simp] theorem modGang_keyHash (g : Nat) (f : Gang → Gang) : (s.modGang g f).keyHash = s.keyHash := rfl
@[simp] theorem modGang_bringUp (g : Nat) (f : Gang → Gang) : (s.modGang g f).bringUp = s.bringUp := rfl
@[simp] theorem modGang_upSince (g : Nat) (f : Gang → Gang) : (s.modGang g f).upSince = s.upSince := rfl
@[simp] theorem modGang_warm (g : Nat) (f : Gang → Gang) : (s.modGang g f).warm = s.warm := rfl
@[simp] theorem modGang_failed (g : Nat) (f : Gang → Gang) : (s.modGang g f).failed = s.failed := rfl
@[simp] theorem modGang_farPuts (g : Nat) (f : Gang → Gang) : (s.modGang g f).farPuts = s.farPuts := rfl
@[simp] theorem modGang_farParts (g : Nat) (f : Gang → Gang) : (s.modGang g f).farParts = s.farParts := rfl
@[simp] theorem modGang_gathers (g : Nat) (f : Gang → Gang) : (s.modGang g f).gathers = s.gathers := rfl
@[simp] theorem modGang_badCopies (g : Nat) (f : Gang → Gang) : (s.modGang g f).badCopies = s.badCopies := rfl
@[simp] theorem modGang_modrst (g : Nat) (f : Gang → Gang) : (s.modGang g f).modrst = s.modrst := rfl
@[simp] theorem modGang_powerLow (g : Nat) (f : Gang → Gang) : (s.modGang g f).powerLow = s.powerLow := rfl
@[simp] theorem modGang_sensors (g : Nat) (f : Gang → Gang) : (s.modGang g f).sensors = s.sensors := rfl
@[simp] theorem modGang_engaged (g : Nat) (f : Gang → Gang) : (s.modGang g f).engaged = s.engaged := rfl
@[simp] theorem modGang_stopped (g : Nat) (f : Gang → Gang) : (s.modGang g f).stopped = s.stopped := rfl
@[simp] theorem modGang_thermtrip (g : Nat) (f : Gang → Gang) : (s.modGang g f).thermtrip = s.thermtrip := rfl
@[simp] theorem modGang_alert (g : Nat) (f : Gang → Gang) : (s.modGang g f).alert = s.alert := rfl

/-! ### `modHart` -/

@[simp] theorem modHart_agenda (f : Hart → Hart) : (s.modHart f).agenda = s.agenda := rfl
@[simp] theorem modHart_stalled (f : Hart → Hart) : (s.modHart f).stalled = s.stalled := rfl
@[simp] theorem modHart_fresh (f : Hart → Hart) : (s.modHart f).fresh = s.fresh := rfl
@[simp] theorem modHart_serial (f : Hart → Hart) : (s.modHart f).serial = s.serial := rfl
@[simp] theorem modHart_ticks (f : Hart → Hart) : (s.modHart f).ticks = s.ticks := rfl
@[simp] theorem modHart_skew (f : Hart → Hart) : (s.modHart f).skew = s.skew := rfl
@[simp] theorem modHart_others (f : Hart → Hart) : (s.modHart f).others = s.others := rfl
@[simp] theorem modHart_cores (f : Hart → Hart) : (s.modHart f).cores = s.cores := rfl
@[simp] theorem modHart_gangs (f : Hart → Hart) : (s.modHart f).gangs = s.gangs := rfl
@[simp] theorem modHart_logs (f : Hart → Hart) : (s.modHart f).logs = s.logs := rfl
@[simp] theorem modHart_past (f : Hart → Hart) : (s.modHart f).past = s.past := rfl
@[simp] theorem modHart_stackTab (f : Hart → Hart) : (s.modHart f).stackTab = s.stackTab := rfl
@[simp] theorem modHart_mem (f : Hart → Hart) : (s.modHart f).mem = s.mem := rfl
@[simp] theorem modHart_poison (f : Hart → Hart) : (s.modHart f).poison = s.poison := rfl
@[simp] theorem modHart_tdis (f : Hart → Hart) : (s.modHart f).tdis = s.tdis := rfl
@[simp] theorem modHart_portDomain (f : Hart → Hart) : (s.modHart f).portDomain = s.portDomain := rfl
@[simp] theorem modHart_perst (f : Hart → Hart) : (s.modHart f).perst = s.perst := rfl
@[simp] theorem modHart_spdm (f : Hart → Hart) : (s.modHart f).spdm = s.spdm := rfl
@[simp] theorem modHart_conns (f : Hart → Hart) : (s.modHart f).conns = s.conns := rfl
@[simp] theorem modHart_out (f : Hart → Hart) : (s.modHart f).out = s.out := rfl
@[simp] theorem modHart_flash (f : Hart → Hart) : (s.modHart f).flash = s.flash := rfl
@[simp] theorem modHart_active (f : Hart → Hart) : (s.modHart f).active = s.active := rfl
@[simp] theorem modHart_newImage (f : Hart → Hart) : (s.modHart f).newImage = s.newImage := rfl
@[simp] theorem modHart_image (f : Hart → Hart) : (s.modHart f).image = s.image := rfl
@[simp] theorem modHart_fusedMin (f : Hart → Hart) : (s.modHart f).fusedMin = s.fusedMin := rfl
@[simp] theorem modHart_keyHash (f : Hart → Hart) : (s.modHart f).keyHash = s.keyHash := rfl
@[simp] theorem modHart_bringUp (f : Hart → Hart) : (s.modHart f).bringUp = s.bringUp := rfl
@[simp] theorem modHart_upSince (f : Hart → Hart) : (s.modHart f).upSince = s.upSince := rfl
@[simp] theorem modHart_warm (f : Hart → Hart) : (s.modHart f).warm = s.warm := rfl
@[simp] theorem modHart_failed (f : Hart → Hart) : (s.modHart f).failed = s.failed := rfl
@[simp] theorem modHart_farPuts (f : Hart → Hart) : (s.modHart f).farPuts = s.farPuts := rfl
@[simp] theorem modHart_farParts (f : Hart → Hart) : (s.modHart f).farParts = s.farParts := rfl
@[simp] theorem modHart_gathers (f : Hart → Hart) : (s.modHart f).gathers = s.gathers := rfl
@[simp] theorem modHart_badCopies (f : Hart → Hart) : (s.modHart f).badCopies = s.badCopies := rfl
@[simp] theorem modHart_modrst (f : Hart → Hart) : (s.modHart f).modrst = s.modrst := rfl
@[simp] theorem modHart_powerLow (f : Hart → Hart) : (s.modHart f).powerLow = s.powerLow := rfl
@[simp] theorem modHart_sensors (f : Hart → Hart) : (s.modHart f).sensors = s.sensors := rfl
@[simp] theorem modHart_engaged (f : Hart → Hart) : (s.modHart f).engaged = s.engaged := rfl
@[simp] theorem modHart_stopped (f : Hart → Hart) : (s.modHart f).stopped = s.stopped := rfl
@[simp] theorem modHart_thermtrip (f : Hart → Hart) : (s.modHart f).thermtrip = s.thermtrip := rfl
@[simp] theorem modHart_alert (f : Hart → Hart) : (s.modHart f).alert = s.alert := rfl

/-! ### `mapCtx` -/

@[simp] theorem mapCtx_agenda (f : Hart → Hart) : (s.mapCtx f).agenda = s.agenda := rfl
@[simp] theorem mapCtx_stalled (f : Hart → Hart) : (s.mapCtx f).stalled = s.stalled := rfl
@[simp] theorem mapCtx_fresh (f : Hart → Hart) : (s.mapCtx f).fresh = s.fresh := rfl
@[simp] theorem mapCtx_serial (f : Hart → Hart) : (s.mapCtx f).serial = s.serial := rfl
@[simp] theorem mapCtx_ticks (f : Hart → Hart) : (s.mapCtx f).ticks = s.ticks := rfl
@[simp] theorem mapCtx_skew (f : Hart → Hart) : (s.mapCtx f).skew = s.skew := rfl
@[simp] theorem mapCtx_cores (f : Hart → Hart) : (s.mapCtx f).cores = s.cores := rfl
@[simp] theorem mapCtx_gangs (f : Hart → Hart) : (s.mapCtx f).gangs = s.gangs := rfl
@[simp] theorem mapCtx_logs (f : Hart → Hart) : (s.mapCtx f).logs = s.logs := rfl
@[simp] theorem mapCtx_past (f : Hart → Hart) : (s.mapCtx f).past = s.past := rfl
@[simp] theorem mapCtx_stackTab (f : Hart → Hart) : (s.mapCtx f).stackTab = s.stackTab := rfl
@[simp] theorem mapCtx_mem (f : Hart → Hart) : (s.mapCtx f).mem = s.mem := rfl
@[simp] theorem mapCtx_poison (f : Hart → Hart) : (s.mapCtx f).poison = s.poison := rfl
@[simp] theorem mapCtx_tdis (f : Hart → Hart) : (s.mapCtx f).tdis = s.tdis := rfl
@[simp] theorem mapCtx_portDomain (f : Hart → Hart) : (s.mapCtx f).portDomain = s.portDomain := rfl
@[simp] theorem mapCtx_perst (f : Hart → Hart) : (s.mapCtx f).perst = s.perst := rfl
@[simp] theorem mapCtx_spdm (f : Hart → Hart) : (s.mapCtx f).spdm = s.spdm := rfl
@[simp] theorem mapCtx_conns (f : Hart → Hart) : (s.mapCtx f).conns = s.conns := rfl
@[simp] theorem mapCtx_out (f : Hart → Hart) : (s.mapCtx f).out = s.out := rfl
@[simp] theorem mapCtx_flash (f : Hart → Hart) : (s.mapCtx f).flash = s.flash := rfl
@[simp] theorem mapCtx_active (f : Hart → Hart) : (s.mapCtx f).active = s.active := rfl
@[simp] theorem mapCtx_newImage (f : Hart → Hart) : (s.mapCtx f).newImage = s.newImage := rfl
@[simp] theorem mapCtx_image (f : Hart → Hart) : (s.mapCtx f).image = s.image := rfl
@[simp] theorem mapCtx_fusedMin (f : Hart → Hart) : (s.mapCtx f).fusedMin = s.fusedMin := rfl
@[simp] theorem mapCtx_keyHash (f : Hart → Hart) : (s.mapCtx f).keyHash = s.keyHash := rfl
@[simp] theorem mapCtx_bringUp (f : Hart → Hart) : (s.mapCtx f).bringUp = s.bringUp := rfl
@[simp] theorem mapCtx_upSince (f : Hart → Hart) : (s.mapCtx f).upSince = s.upSince := rfl
@[simp] theorem mapCtx_warm (f : Hart → Hart) : (s.mapCtx f).warm = s.warm := rfl
@[simp] theorem mapCtx_failed (f : Hart → Hart) : (s.mapCtx f).failed = s.failed := rfl
@[simp] theorem mapCtx_farPuts (f : Hart → Hart) : (s.mapCtx f).farPuts = s.farPuts := rfl
@[simp] theorem mapCtx_farParts (f : Hart → Hart) : (s.mapCtx f).farParts = s.farParts := rfl
@[simp] theorem mapCtx_gathers (f : Hart → Hart) : (s.mapCtx f).gathers = s.gathers := rfl
@[simp] theorem mapCtx_badCopies (f : Hart → Hart) : (s.mapCtx f).badCopies = s.badCopies := rfl
@[simp] theorem mapCtx_modrst (f : Hart → Hart) : (s.mapCtx f).modrst = s.modrst := rfl
@[simp] theorem mapCtx_powerLow (f : Hart → Hart) : (s.mapCtx f).powerLow = s.powerLow := rfl
@[simp] theorem mapCtx_sensors (f : Hart → Hart) : (s.mapCtx f).sensors = s.sensors := rfl
@[simp] theorem mapCtx_engaged (f : Hart → Hart) : (s.mapCtx f).engaged = s.engaged := rfl
@[simp] theorem mapCtx_stopped (f : Hart → Hart) : (s.mapCtx f).stopped = s.stopped := rfl
@[simp] theorem mapCtx_thermtrip (f : Hart → Hart) : (s.mapCtx f).thermtrip = s.thermtrip := rfl
@[simp] theorem mapCtx_alert (f : Hart → Hart) : (s.mapCtx f).alert = s.alert := rfl

/-! ### `send` -/

@[simp] theorem send_agenda (o : Out) : (s.send o).agenda = s.agenda := rfl
@[simp] theorem send_stalled (o : Out) : (s.send o).stalled = s.stalled := rfl
@[simp] theorem send_fresh (o : Out) : (s.send o).fresh = s.fresh := rfl
@[simp] theorem send_serial (o : Out) : (s.send o).serial = s.serial := rfl
@[simp] theorem send_ticks (o : Out) : (s.send o).ticks = s.ticks := rfl
@[simp] theorem send_skew (o : Out) : (s.send o).skew = s.skew := rfl
@[simp] theorem send_hart (o : Out) : (s.send o).hart = s.hart := rfl
@[simp] theorem send_others (o : Out) : (s.send o).others = s.others := rfl
@[simp] theorem send_cores (o : Out) : (s.send o).cores = s.cores := rfl
@[simp] theorem send_gangs (o : Out) : (s.send o).gangs = s.gangs := rfl
@[simp] theorem send_logs (o : Out) : (s.send o).logs = s.logs := rfl
@[simp] theorem send_past (o : Out) : (s.send o).past = s.past := rfl
@[simp] theorem send_stackTab (o : Out) : (s.send o).stackTab = s.stackTab := rfl
@[simp] theorem send_mem (o : Out) : (s.send o).mem = s.mem := rfl
@[simp] theorem send_poison (o : Out) : (s.send o).poison = s.poison := rfl
@[simp] theorem send_tdis (o : Out) : (s.send o).tdis = s.tdis := rfl
@[simp] theorem send_portDomain (o : Out) : (s.send o).portDomain = s.portDomain := rfl
@[simp] theorem send_perst (o : Out) : (s.send o).perst = s.perst := rfl
@[simp] theorem send_spdm (o : Out) : (s.send o).spdm = s.spdm := rfl
@[simp] theorem send_conns (o : Out) : (s.send o).conns = s.conns := rfl
@[simp] theorem send_flash (o : Out) : (s.send o).flash = s.flash := rfl
@[simp] theorem send_active (o : Out) : (s.send o).active = s.active := rfl
@[simp] theorem send_newImage (o : Out) : (s.send o).newImage = s.newImage := rfl
@[simp] theorem send_image (o : Out) : (s.send o).image = s.image := rfl
@[simp] theorem send_fusedMin (o : Out) : (s.send o).fusedMin = s.fusedMin := rfl
@[simp] theorem send_keyHash (o : Out) : (s.send o).keyHash = s.keyHash := rfl
@[simp] theorem send_bringUp (o : Out) : (s.send o).bringUp = s.bringUp := rfl
@[simp] theorem send_upSince (o : Out) : (s.send o).upSince = s.upSince := rfl
@[simp] theorem send_warm (o : Out) : (s.send o).warm = s.warm := rfl
@[simp] theorem send_failed (o : Out) : (s.send o).failed = s.failed := rfl
@[simp] theorem send_farPuts (o : Out) : (s.send o).farPuts = s.farPuts := rfl
@[simp] theorem send_farParts (o : Out) : (s.send o).farParts = s.farParts := rfl
@[simp] theorem send_gathers (o : Out) : (s.send o).gathers = s.gathers := rfl
@[simp] theorem send_badCopies (o : Out) : (s.send o).badCopies = s.badCopies := rfl
@[simp] theorem send_modrst (o : Out) : (s.send o).modrst = s.modrst := rfl
@[simp] theorem send_powerLow (o : Out) : (s.send o).powerLow = s.powerLow := rfl
@[simp] theorem send_sensors (o : Out) : (s.send o).sensors = s.sensors := rfl
@[simp] theorem send_engaged (o : Out) : (s.send o).engaged = s.engaged := rfl
@[simp] theorem send_stopped (o : Out) : (s.send o).stopped = s.stopped := rfl
@[simp] theorem send_thermtrip (o : Out) : (s.send o).thermtrip = s.thermtrip := rfl
@[simp] theorem send_alert (o : Out) : (s.send o).alert = s.alert := rfl

/-! ### `post` -/

@[simp] theorem post_stalled (ms : List Msg) : (s.post ms).stalled = s.stalled := rfl
@[simp] theorem post_fresh (ms : List Msg) : (s.post ms).fresh = s.fresh := rfl
@[simp] theorem post_serial (ms : List Msg) : (s.post ms).serial = s.serial := rfl
@[simp] theorem post_ticks (ms : List Msg) : (s.post ms).ticks = s.ticks := rfl
@[simp] theorem post_skew (ms : List Msg) : (s.post ms).skew = s.skew := rfl
@[simp] theorem post_hart (ms : List Msg) : (s.post ms).hart = s.hart := rfl
@[simp] theorem post_others (ms : List Msg) : (s.post ms).others = s.others := rfl
@[simp] theorem post_cores (ms : List Msg) : (s.post ms).cores = s.cores := rfl
@[simp] theorem post_gangs (ms : List Msg) : (s.post ms).gangs = s.gangs := rfl
@[simp] theorem post_logs (ms : List Msg) : (s.post ms).logs = s.logs := rfl
@[simp] theorem post_past (ms : List Msg) : (s.post ms).past = s.past := rfl
@[simp] theorem post_stackTab (ms : List Msg) : (s.post ms).stackTab = s.stackTab := rfl
@[simp] theorem post_mem (ms : List Msg) : (s.post ms).mem = s.mem := rfl
@[simp] theorem post_poison (ms : List Msg) : (s.post ms).poison = s.poison := rfl
@[simp] theorem post_tdis (ms : List Msg) : (s.post ms).tdis = s.tdis := rfl
@[simp] theorem post_portDomain (ms : List Msg) : (s.post ms).portDomain = s.portDomain := rfl
@[simp] theorem post_perst (ms : List Msg) : (s.post ms).perst = s.perst := rfl
@[simp] theorem post_spdm (ms : List Msg) : (s.post ms).spdm = s.spdm := rfl
@[simp] theorem post_conns (ms : List Msg) : (s.post ms).conns = s.conns := rfl
@[simp] theorem post_out (ms : List Msg) : (s.post ms).out = s.out := rfl
@[simp] theorem post_flash (ms : List Msg) : (s.post ms).flash = s.flash := rfl
@[simp] theorem post_active (ms : List Msg) : (s.post ms).active = s.active := rfl
@[simp] theorem post_newImage (ms : List Msg) : (s.post ms).newImage = s.newImage := rfl
@[simp] theorem post_image (ms : List Msg) : (s.post ms).image = s.image := rfl
@[simp] theorem post_fusedMin (ms : List Msg) : (s.post ms).fusedMin = s.fusedMin := rfl
@[simp] theorem post_keyHash (ms : List Msg) : (s.post ms).keyHash = s.keyHash := rfl
@[simp] theorem post_bringUp (ms : List Msg) : (s.post ms).bringUp = s.bringUp := rfl
@[simp] theorem post_upSince (ms : List Msg) : (s.post ms).upSince = s.upSince := rfl
@[simp] theorem post_warm (ms : List Msg) : (s.post ms).warm = s.warm := rfl
@[simp] theorem post_failed (ms : List Msg) : (s.post ms).failed = s.failed := rfl
@[simp] theorem post_farPuts (ms : List Msg) : (s.post ms).farPuts = s.farPuts := rfl
@[simp] theorem post_farParts (ms : List Msg) : (s.post ms).farParts = s.farParts := rfl
@[simp] theorem post_gathers (ms : List Msg) : (s.post ms).gathers = s.gathers := rfl
@[simp] theorem post_badCopies (ms : List Msg) : (s.post ms).badCopies = s.badCopies := rfl
@[simp] theorem post_modrst (ms : List Msg) : (s.post ms).modrst = s.modrst := rfl
@[simp] theorem post_powerLow (ms : List Msg) : (s.post ms).powerLow = s.powerLow := rfl
@[simp] theorem post_sensors (ms : List Msg) : (s.post ms).sensors = s.sensors := rfl
@[simp] theorem post_engaged (ms : List Msg) : (s.post ms).engaged = s.engaged := rfl
@[simp] theorem post_stopped (ms : List Msg) : (s.post ms).stopped = s.stopped := rfl
@[simp] theorem post_thermtrip (ms : List Msg) : (s.post ms).thermtrip = s.thermtrip := rfl
@[simp] theorem post_alert (ms : List Msg) : (s.post ms).alert = s.alert := rfl

/-! ### `count` -/

@[simp] theorem count_agenda (k off n : Nat) : (s.count k off n).agenda = s.agenda := rfl
@[simp] theorem count_stalled (k off n : Nat) : (s.count k off n).stalled = s.stalled := rfl
@[simp] theorem count_fresh (k off n : Nat) : (s.count k off n).fresh = s.fresh := rfl
@[simp] theorem count_serial (k off n : Nat) : (s.count k off n).serial = s.serial := rfl
@[simp] theorem count_ticks (k off n : Nat) : (s.count k off n).ticks = s.ticks := rfl
@[simp] theorem count_skew (k off n : Nat) : (s.count k off n).skew = s.skew := rfl
@[simp] theorem count_hart (k off n : Nat) : (s.count k off n).hart = s.hart := rfl
@[simp] theorem count_others (k off n : Nat) : (s.count k off n).others = s.others := rfl
@[simp] theorem count_cores (k off n : Nat) : (s.count k off n).cores = s.cores := rfl
@[simp] theorem count_gangs (k off n : Nat) : (s.count k off n).gangs = s.gangs := rfl
@[simp] theorem count_logs (k off n : Nat) : (s.count k off n).logs = s.logs := rfl
@[simp] theorem count_past (k off n : Nat) : (s.count k off n).past = s.past := rfl
@[simp] theorem count_mem (k off n : Nat) : (s.count k off n).mem = s.mem := rfl
@[simp] theorem count_poison (k off n : Nat) : (s.count k off n).poison = s.poison := rfl
@[simp] theorem count_tdis (k off n : Nat) : (s.count k off n).tdis = s.tdis := rfl
@[simp] theorem count_portDomain (k off n : Nat) : (s.count k off n).portDomain = s.portDomain := rfl
@[simp] theorem count_perst (k off n : Nat) : (s.count k off n).perst = s.perst := rfl
@[simp] theorem count_spdm (k off n : Nat) : (s.count k off n).spdm = s.spdm := rfl
@[simp] theorem count_conns (k off n : Nat) : (s.count k off n).conns = s.conns := rfl
@[simp] theorem count_out (k off n : Nat) : (s.count k off n).out = s.out := rfl
@[simp] theorem count_flash (k off n : Nat) : (s.count k off n).flash = s.flash := rfl
@[simp] theorem count_active (k off n : Nat) : (s.count k off n).active = s.active := rfl
@[simp] theorem count_newImage (k off n : Nat) : (s.count k off n).newImage = s.newImage := rfl
@[simp] theorem count_image (k off n : Nat) : (s.count k off n).image = s.image := rfl
@[simp] theorem count_fusedMin (k off n : Nat) : (s.count k off n).fusedMin = s.fusedMin := rfl
@[simp] theorem count_keyHash (k off n : Nat) : (s.count k off n).keyHash = s.keyHash := rfl
@[simp] theorem count_bringUp (k off n : Nat) : (s.count k off n).bringUp = s.bringUp := rfl
@[simp] theorem count_upSince (k off n : Nat) : (s.count k off n).upSince = s.upSince := rfl
@[simp] theorem count_warm (k off n : Nat) : (s.count k off n).warm = s.warm := rfl
@[simp] theorem count_failed (k off n : Nat) : (s.count k off n).failed = s.failed := rfl
@[simp] theorem count_farPuts (k off n : Nat) : (s.count k off n).farPuts = s.farPuts := rfl
@[simp] theorem count_farParts (k off n : Nat) : (s.count k off n).farParts = s.farParts := rfl
@[simp] theorem count_gathers (k off n : Nat) : (s.count k off n).gathers = s.gathers := rfl
@[simp] theorem count_badCopies (k off n : Nat) : (s.count k off n).badCopies = s.badCopies := rfl
@[simp] theorem count_modrst (k off n : Nat) : (s.count k off n).modrst = s.modrst := rfl
@[simp] theorem count_powerLow (k off n : Nat) : (s.count k off n).powerLow = s.powerLow := rfl
@[simp] theorem count_sensors (k off n : Nat) : (s.count k off n).sensors = s.sensors := rfl
@[simp] theorem count_engaged (k off n : Nat) : (s.count k off n).engaged = s.engaged := rfl
@[simp] theorem count_stopped (k off n : Nat) : (s.count k off n).stopped = s.stopped := rfl
@[simp] theorem count_thermtrip (k off n : Nat) : (s.count k off n).thermtrip = s.thermtrip := rfl
@[simp] theorem count_alert (k off n : Nat) : (s.count k off n).alert = s.alert := rfl

/-! ### what the updates set -/

@[simp] theorem modHart_hart (f : Hart → Hart) : (s.modHart f).hart = f s.hart := rfl
@[simp] theorem mapCtx_hart (f : Hart → Hart) : (s.mapCtx f).hart = f s.hart := rfl
@[simp] theorem send_out (o : Out) : (s.send o).out = o :: s.out := rfl
@[simp] theorem post_agenda (ms : List Msg) : (s.post ms).agenda = s.agenda ++ ms.map Sched.msg := rfl
@[simp] theorem goto_pc (a : Word) : (s.goto a).hart.pc = a := rfl
@[simp] theorem goto_phase (a : Word) : (s.goto a).hart.phase = .run := rfl
@[simp] theorem goto_slot (a : Word) : (s.goto a).hart.slot = .ready := rfl
@[simp] theorem goto_results (a : Word) : (s.goto a).hart.results = [] := rfl
@[simp] theorem goto_awaiting (a : Word) : (s.goto a).hart.awaiting = 0 := rfl
@[simp] theorem goto_att (a : Word) : (s.goto a).hart.att = {} := rfl
@[simp] theorem next_pc : s.next.hart.pc = s.hart.pc + 4 := rfl
@[simp] theorem next_phase : s.next.hart.phase = .run := rfl
@[simp] theorem next_slot : s.next.hart.slot = .ready := rfl
@[simp] theorem next_att : s.next.hart.att = {} := rfl

@[simp] theorem goto_key_hart (a : Word) : (s.goto a).hart.key = s.hart.key := rfl
@[simp] theorem next_key_hart : s.next.hart.key = s.hart.key := rfl
@[simp] theorem goto_service_hart (a : Word) : (s.goto a).hart.service = s.hart.service := rfl
@[simp] theorem next_service_hart : s.next.hart.service = s.hart.service := rfl
@[simp] theorem goto_loc_hart (a : Word) : (s.goto a).hart.loc = s.hart.loc := rfl
@[simp] theorem next_loc_hart : s.next.hart.loc = s.hart.loc := rfl
@[simp] theorem goto_regs_hart (a : Word) : (s.goto a).hart.regs = s.hart.regs := rfl
@[simp] theorem next_regs_hart : s.next.hart.regs = s.hart.regs := rfl
@[simp] theorem goto_saved_hart (a : Word) : (s.goto a).hart.saved = s.hart.saved := rfl
@[simp] theorem next_saved_hart : s.next.hart.saved = s.hart.saved := rfl
@[simp] theorem goto_cv_hart (a : Word) : (s.goto a).hart.cv = s.hart.cv := rfl
@[simp] theorem next_cv_hart : s.next.hart.cv = s.hart.cv := rfl
@[simp] theorem goto_inst_hart (a : Word) : (s.goto a).hart.inst = s.hart.inst := rfl
@[simp] theorem next_inst_hart : s.next.hart.inst = s.hart.inst := rfl
@[simp] theorem goto_tried_hart (a : Word) : (s.goto a).hart.tried = s.hart.tried := rfl
@[simp] theorem next_tried_hart : s.next.hart.tried = s.hart.tried := rfl
@[simp] theorem goto_frags_hart (a : Word) : (s.goto a).hart.frags = s.hart.frags := rfl
@[simp] theorem next_frags_hart : s.next.hart.frags = s.hart.frags := rfl
@[simp] theorem goto_tlevel_hart (a : Word) : (s.goto a).hart.tlevel = s.hart.tlevel := rfl
@[simp] theorem next_tlevel_hart : s.next.hart.tlevel = s.hart.tlevel := rfl
@[simp] theorem goto_trap1_hart (a : Word) : (s.goto a).hart.trap1 = s.hart.trap1 := rfl
@[simp] theorem next_trap1_hart : s.next.hart.trap1 = s.hart.trap1 := rfl
@[simp] theorem goto_trap2_hart (a : Word) : (s.goto a).hart.trap2 = s.hart.trap2 := rfl
@[simp] theorem next_trap2_hart : s.next.hart.trap2 = s.hart.trap2 := rfl
@[simp] theorem goto_cseq_hart (a : Word) : (s.goto a).hart.cseq = s.hart.cseq := rfl
@[simp] theorem next_cseq_hart : s.next.hart.cseq = s.hart.cseq := rfl
@[simp] theorem goto_event_hart (a : Word) : (s.goto a).hart.event = s.hart.event := rfl
@[simp] theorem next_event_hart : s.next.hart.event = s.hart.event := rfl
@[simp] theorem goto_async30_hart (a : Word) : (s.goto a).hart.async30 = s.hart.async30 := rfl
@[simp] theorem next_async30_hart : s.next.hart.async30 = s.hart.async30 := rfl
@[simp] theorem goto_async31_hart (a : Word) : (s.goto a).hart.async31 = s.hart.async31 := rfl
@[simp] theorem next_async31_hart : s.next.hart.async31 = s.hart.async31 := rfl
@[simp] theorem goto_npSince_hart (a : Word) : (s.goto a).hart.npSince = s.hart.npSince := rfl
@[simp] theorem next_npSince_hart : s.next.hart.npSince = s.hart.npSince := rfl
@[simp] theorem goto_rendezvous_hart (a : Word) : (s.goto a).hart.rendezvous = s.hart.rendezvous := rfl
@[simp] theorem next_rendezvous_hart : s.next.hart.rendezvous = s.hart.rendezvous := rfl
@[simp] theorem goto_passed_hart (a : Word) : (s.goto a).hart.passed = s.hart.passed := rfl
@[simp] theorem next_passed_hart : s.next.hart.passed = s.hart.passed := rfl
@[simp] theorem goto_usemask_hart (a : Word) : (s.goto a).hart.usemask = s.hart.usemask := rfl
@[simp] theorem next_usemask_hart : s.next.hart.usemask = s.hart.usemask := rfl
@[simp] theorem goto_domain_hart (a : Word) : (s.goto a).hart.domain = s.hart.domain := rfl
@[simp] theorem next_domain_hart : s.next.hart.domain = s.hart.domain := rfl
@[simp] theorem goto_cap_hart (a : Word) : (s.goto a).hart.cap = s.hart.cap := rfl
@[simp] theorem next_cap_hart : s.next.hart.cap = s.hart.cap := rfl
@[simp] theorem goto_gangRank_hart (a : Word) : (s.goto a).hart.gangRank = s.hart.gangRank := rfl
@[simp] theorem next_gangRank_hart : s.next.hart.gangRank = s.hart.gangRank := rfl
@[simp] theorem goto_gangSize_hart (a : Word) : (s.goto a).hart.gangSize = s.hart.gangSize := rfl
@[simp] theorem next_gangSize_hart : s.next.hart.gangSize = s.hart.gangSize := rfl
@[simp] theorem goto_gangIdx_hart (a : Word) : (s.goto a).hart.gangIdx = s.hart.gangIdx := rfl
@[simp] theorem next_gangIdx_hart : s.next.hart.gangIdx = s.hart.gangIdx := rfl
@[simp] theorem goto_logsz_hart (a : Word) : (s.goto a).hart.logsz = s.hart.logsz := rfl
@[simp] theorem next_logsz_hart : s.next.hart.logsz = s.hart.logsz := rfl
@[simp] theorem goto_staging_hart (a : Word) : (s.goto a).hart.staging = s.hart.staging := rfl
@[simp] theorem next_staging_hart : s.next.hart.staging = s.hart.staging := rfl
@[simp] theorem goto_sprint_hart (a : Word) : (s.goto a).hart.sprint = s.hart.sprint := rfl
@[simp] theorem next_sprint_hart : s.next.hart.sprint = s.hart.sprint := rfl
@[simp] theorem goto_prio_hart (a : Word) : (s.goto a).hart.prio = s.hart.prio := rfl
@[simp] theorem next_prio_hart : s.next.hart.prio = s.hart.prio := rfl
@[simp] theorem goto_readyTicks_hart (a : Word) : (s.goto a).hart.readyTicks = s.hart.readyTicks := rfl
@[simp] theorem next_readyTicks_hart : s.next.hart.readyTicks = s.hart.readyTicks := rfl
@[simp] theorem goto_skip_hart (a : Word) : (s.goto a).hart.skip = s.hart.skip := rfl
@[simp] theorem next_skip_hart : s.next.hart.skip = s.hart.skip := rfl
@[simp] theorem goto_home_hart (a : Word) : (s.goto a).hart.home = s.hart.home := rfl
@[simp] theorem next_home_hart : s.next.hart.home = s.hart.home := rfl
@[simp] theorem goto_launch_hart (a : Word) : (s.goto a).hart.launch = s.hart.launch := rfl
@[simp] theorem next_launch_hart : s.next.hart.launch = s.hart.launch := rfl
@[simp] theorem goto_launchId_hart (a : Word) : (s.goto a).hart.launchId = s.hart.launchId := rfl
@[simp] theorem next_launchId_hart : s.next.hart.launchId = s.hart.launchId := rfl
@[simp] theorem goto_instStack_hart (a : Word) : (s.goto a).hart.instStack = s.hart.instStack := rfl
@[simp] theorem next_instStack_hart : s.next.hart.instStack = s.hart.instStack := rfl
@[simp] theorem goto_serial_hart (a : Word) : (s.goto a).hart.serial = s.hart.serial := rfl
@[simp] theorem next_serial_hart : s.next.hart.serial = s.hart.serial := rfl
@[simp] theorem goto_tile_hart (a : Word) : (s.goto a).hart.tile = s.hart.tile := rfl
@[simp] theorem next_tile_hart : s.next.hart.tile = s.hart.tile := rfl
@[simp] theorem goto_held_hart (a : Word) : (s.goto a).hart.held = s.hart.held := rfl
@[simp] theorem next_held_hart : s.next.hart.held = s.hart.held := rfl
@[simp] theorem goto_heldCore_hart (a : Word) : (s.goto a).hart.heldCore = s.hart.heldCore := rfl
@[simp] theorem next_heldCore_hart : s.next.hart.heldCore = s.hart.heldCore := rfl
@[simp] theorem goto_preempt_hart (a : Word) : (s.goto a).hart.preempt = s.hart.preempt := rfl
@[simp] theorem next_preempt_hart : s.next.hart.preempt = s.hart.preempt := rfl
@[simp] theorem goto_replace_hart (a : Word) : (s.goto a).hart.replace = s.hart.replace := rfl
@[simp] theorem next_replace_hart : s.next.hart.replace = s.hart.replace := rfl
@[simp] theorem goto_migrate_hart (a : Word) : (s.goto a).hart.migrate = s.hart.migrate := rfl
@[simp] theorem next_migrate_hart : s.next.hart.migrate = s.hart.migrate := rfl
@[simp] theorem goto_chunks_hart (a : Word) : (s.goto a).hart.chunks = s.hart.chunks := rfl
@[simp] theorem next_chunks_hart : s.next.hart.chunks = s.hart.chunks := rfl
@[simp] theorem goto_agenda (a : Word) : (s.goto a).agenda = s.agenda := rfl
@[simp] theorem next_agenda : s.next.agenda = s.agenda := rfl
@[simp] theorem goto_stalled (a : Word) : (s.goto a).stalled = s.stalled := rfl
@[simp] theorem next_stalled : s.next.stalled = s.stalled := rfl
@[simp] theorem goto_fresh (a : Word) : (s.goto a).fresh = s.fresh := rfl
@[simp] theorem next_fresh : s.next.fresh = s.fresh := rfl
@[simp] theorem goto_serial (a : Word) : (s.goto a).serial = s.serial := rfl
@[simp] theorem next_serial : s.next.serial = s.serial := rfl
@[simp] theorem goto_ticks (a : Word) : (s.goto a).ticks = s.ticks := rfl
@[simp] theorem next_ticks : s.next.ticks = s.ticks := rfl
@[simp] theorem goto_skew (a : Word) : (s.goto a).skew = s.skew := rfl
@[simp] theorem next_skew : s.next.skew = s.skew := rfl
@[simp] theorem goto_others (a : Word) : (s.goto a).others = s.others := rfl
@[simp] theorem next_others : s.next.others = s.others := rfl
@[simp] theorem goto_cores (a : Word) : (s.goto a).cores = s.cores := rfl
@[simp] theorem next_cores : s.next.cores = s.cores := rfl
@[simp] theorem goto_gangs (a : Word) : (s.goto a).gangs = s.gangs := rfl
@[simp] theorem next_gangs : s.next.gangs = s.gangs := rfl
@[simp] theorem goto_logs (a : Word) : (s.goto a).logs = s.logs := rfl
@[simp] theorem next_logs : s.next.logs = s.logs := rfl
@[simp] theorem goto_past (a : Word) : (s.goto a).past = s.past := rfl
@[simp] theorem next_past : s.next.past = s.past := rfl
@[simp] theorem goto_stackTab (a : Word) : (s.goto a).stackTab = s.stackTab := rfl
@[simp] theorem next_stackTab : s.next.stackTab = s.stackTab := rfl
@[simp] theorem goto_mem (a : Word) : (s.goto a).mem = s.mem := rfl
@[simp] theorem next_mem : s.next.mem = s.mem := rfl
@[simp] theorem goto_poison (a : Word) : (s.goto a).poison = s.poison := rfl
@[simp] theorem next_poison : s.next.poison = s.poison := rfl
@[simp] theorem goto_tdis (a : Word) : (s.goto a).tdis = s.tdis := rfl
@[simp] theorem next_tdis : s.next.tdis = s.tdis := rfl
@[simp] theorem goto_portDomain (a : Word) : (s.goto a).portDomain = s.portDomain := rfl
@[simp] theorem next_portDomain : s.next.portDomain = s.portDomain := rfl
@[simp] theorem goto_perst (a : Word) : (s.goto a).perst = s.perst := rfl
@[simp] theorem next_perst : s.next.perst = s.perst := rfl
@[simp] theorem goto_spdm (a : Word) : (s.goto a).spdm = s.spdm := rfl
@[simp] theorem next_spdm : s.next.spdm = s.spdm := rfl
@[simp] theorem goto_conns (a : Word) : (s.goto a).conns = s.conns := rfl
@[simp] theorem next_conns : s.next.conns = s.conns := rfl
@[simp] theorem goto_out (a : Word) : (s.goto a).out = s.out := rfl
@[simp] theorem next_out : s.next.out = s.out := rfl
@[simp] theorem goto_flash (a : Word) : (s.goto a).flash = s.flash := rfl
@[simp] theorem next_flash : s.next.flash = s.flash := rfl
@[simp] theorem goto_active (a : Word) : (s.goto a).active = s.active := rfl
@[simp] theorem next_active : s.next.active = s.active := rfl
@[simp] theorem goto_newImage (a : Word) : (s.goto a).newImage = s.newImage := rfl
@[simp] theorem next_newImage : s.next.newImage = s.newImage := rfl
@[simp] theorem goto_image (a : Word) : (s.goto a).image = s.image := rfl
@[simp] theorem next_image : s.next.image = s.image := rfl
@[simp] theorem goto_fusedMin (a : Word) : (s.goto a).fusedMin = s.fusedMin := rfl
@[simp] theorem next_fusedMin : s.next.fusedMin = s.fusedMin := rfl
@[simp] theorem goto_keyHash (a : Word) : (s.goto a).keyHash = s.keyHash := rfl
@[simp] theorem next_keyHash : s.next.keyHash = s.keyHash := rfl
@[simp] theorem goto_bringUp (a : Word) : (s.goto a).bringUp = s.bringUp := rfl
@[simp] theorem next_bringUp : s.next.bringUp = s.bringUp := rfl
@[simp] theorem goto_upSince (a : Word) : (s.goto a).upSince = s.upSince := rfl
@[simp] theorem next_upSince : s.next.upSince = s.upSince := rfl
@[simp] theorem goto_warm (a : Word) : (s.goto a).warm = s.warm := rfl
@[simp] theorem next_warm : s.next.warm = s.warm := rfl
@[simp] theorem goto_failed (a : Word) : (s.goto a).failed = s.failed := rfl
@[simp] theorem next_failed : s.next.failed = s.failed := rfl
@[simp] theorem goto_farPuts (a : Word) : (s.goto a).farPuts = s.farPuts := rfl
@[simp] theorem next_farPuts : s.next.farPuts = s.farPuts := rfl
@[simp] theorem goto_farParts (a : Word) : (s.goto a).farParts = s.farParts := rfl
@[simp] theorem next_farParts : s.next.farParts = s.farParts := rfl
@[simp] theorem goto_gathers (a : Word) : (s.goto a).gathers = s.gathers := rfl
@[simp] theorem next_gathers : s.next.gathers = s.gathers := rfl
@[simp] theorem goto_badCopies (a : Word) : (s.goto a).badCopies = s.badCopies := rfl
@[simp] theorem next_badCopies : s.next.badCopies = s.badCopies := rfl
@[simp] theorem goto_modrst (a : Word) : (s.goto a).modrst = s.modrst := rfl
@[simp] theorem next_modrst : s.next.modrst = s.modrst := rfl
@[simp] theorem goto_powerLow (a : Word) : (s.goto a).powerLow = s.powerLow := rfl
@[simp] theorem next_powerLow : s.next.powerLow = s.powerLow := rfl
@[simp] theorem goto_sensors (a : Word) : (s.goto a).sensors = s.sensors := rfl
@[simp] theorem next_sensors : s.next.sensors = s.sensors := rfl
@[simp] theorem goto_engaged (a : Word) : (s.goto a).engaged = s.engaged := rfl
@[simp] theorem next_engaged : s.next.engaged = s.engaged := rfl
@[simp] theorem goto_stopped (a : Word) : (s.goto a).stopped = s.stopped := rfl
@[simp] theorem next_stopped : s.next.stopped = s.stopped := rfl
@[simp] theorem goto_thermtrip (a : Word) : (s.goto a).thermtrip = s.thermtrip := rfl
@[simp] theorem next_thermtrip : s.next.thermtrip = s.thermtrip := rfl
@[simp] theorem goto_alert (a : Word) : (s.goto a).alert = s.alert := rfl
@[simp] theorem next_alert : s.next.alert = s.alert := rfl

@[simp] theorem modRegs_agenda (f : Regs → Regs) : (s.modRegs f).agenda = s.agenda := rfl
@[simp] theorem modRegs_stalled (f : Regs → Regs) : (s.modRegs f).stalled = s.stalled := rfl
@[simp] theorem modRegs_fresh (f : Regs → Regs) : (s.modRegs f).fresh = s.fresh := rfl
@[simp] theorem modRegs_serial (f : Regs → Regs) : (s.modRegs f).serial = s.serial := rfl
@[simp] theorem modRegs_ticks (f : Regs → Regs) : (s.modRegs f).ticks = s.ticks := rfl
@[simp] theorem modRegs_skew (f : Regs → Regs) : (s.modRegs f).skew = s.skew := rfl
@[simp] theorem modRegs_others (f : Regs → Regs) : (s.modRegs f).others = s.others := rfl
@[simp] theorem modRegs_cores (f : Regs → Regs) : (s.modRegs f).cores = s.cores := rfl
@[simp] theorem modRegs_gangs (f : Regs → Regs) : (s.modRegs f).gangs = s.gangs := rfl
@[simp] theorem modRegs_logs (f : Regs → Regs) : (s.modRegs f).logs = s.logs := rfl
@[simp] theorem modRegs_past (f : Regs → Regs) : (s.modRegs f).past = s.past := rfl
@[simp] theorem modRegs_stackTab (f : Regs → Regs) : (s.modRegs f).stackTab = s.stackTab := rfl
@[simp] theorem modRegs_mem (f : Regs → Regs) : (s.modRegs f).mem = s.mem := rfl
@[simp] theorem modRegs_poison (f : Regs → Regs) : (s.modRegs f).poison = s.poison := rfl
@[simp] theorem modRegs_tdis (f : Regs → Regs) : (s.modRegs f).tdis = s.tdis := rfl
@[simp] theorem modRegs_portDomain (f : Regs → Regs) : (s.modRegs f).portDomain = s.portDomain := rfl
@[simp] theorem modRegs_perst (f : Regs → Regs) : (s.modRegs f).perst = s.perst := rfl
@[simp] theorem modRegs_spdm (f : Regs → Regs) : (s.modRegs f).spdm = s.spdm := rfl
@[simp] theorem modRegs_conns (f : Regs → Regs) : (s.modRegs f).conns = s.conns := rfl
@[simp] theorem modRegs_out (f : Regs → Regs) : (s.modRegs f).out = s.out := rfl
@[simp] theorem modRegs_flash (f : Regs → Regs) : (s.modRegs f).flash = s.flash := rfl
@[simp] theorem modRegs_active (f : Regs → Regs) : (s.modRegs f).active = s.active := rfl
@[simp] theorem modRegs_newImage (f : Regs → Regs) : (s.modRegs f).newImage = s.newImage := rfl
@[simp] theorem modRegs_image (f : Regs → Regs) : (s.modRegs f).image = s.image := rfl
@[simp] theorem modRegs_fusedMin (f : Regs → Regs) : (s.modRegs f).fusedMin = s.fusedMin := rfl
@[simp] theorem modRegs_keyHash (f : Regs → Regs) : (s.modRegs f).keyHash = s.keyHash := rfl
@[simp] theorem modRegs_bringUp (f : Regs → Regs) : (s.modRegs f).bringUp = s.bringUp := rfl
@[simp] theorem modRegs_upSince (f : Regs → Regs) : (s.modRegs f).upSince = s.upSince := rfl
@[simp] theorem modRegs_warm (f : Regs → Regs) : (s.modRegs f).warm = s.warm := rfl
@[simp] theorem modRegs_failed (f : Regs → Regs) : (s.modRegs f).failed = s.failed := rfl
@[simp] theorem modRegs_farPuts (f : Regs → Regs) : (s.modRegs f).farPuts = s.farPuts := rfl
@[simp] theorem modRegs_farParts (f : Regs → Regs) : (s.modRegs f).farParts = s.farParts := rfl
@[simp] theorem modRegs_gathers (f : Regs → Regs) : (s.modRegs f).gathers = s.gathers := rfl
@[simp] theorem modRegs_badCopies (f : Regs → Regs) : (s.modRegs f).badCopies = s.badCopies := rfl
@[simp] theorem modRegs_modrst (f : Regs → Regs) : (s.modRegs f).modrst = s.modrst := rfl
@[simp] theorem modRegs_powerLow (f : Regs → Regs) : (s.modRegs f).powerLow = s.powerLow := rfl
@[simp] theorem modRegs_sensors (f : Regs → Regs) : (s.modRegs f).sensors = s.sensors := rfl
@[simp] theorem modRegs_engaged (f : Regs → Regs) : (s.modRegs f).engaged = s.engaged := rfl
@[simp] theorem modRegs_stopped (f : Regs → Regs) : (s.modRegs f).stopped = s.stopped := rfl
@[simp] theorem modRegs_thermtrip (f : Regs → Regs) : (s.modRegs f).thermtrip = s.thermtrip := rfl
@[simp] theorem modRegs_alert (f : Regs → Regs) : (s.modRegs f).alert = s.alert := rfl
@[simp] theorem modRegs_key_hart (f : Regs → Regs) : (s.modRegs f).hart.key = s.hart.key := rfl
@[simp] theorem modRegs_service_hart (f : Regs → Regs) : (s.modRegs f).hart.service = s.hart.service := rfl
@[simp] theorem modRegs_loc_hart (f : Regs → Regs) : (s.modRegs f).hart.loc = s.hart.loc := rfl
@[simp] theorem modRegs_slot_hart (f : Regs → Regs) : (s.modRegs f).hart.slot = s.hart.slot := rfl
@[simp] theorem modRegs_pc_hart (f : Regs → Regs) : (s.modRegs f).hart.pc = s.hart.pc := rfl
@[simp] theorem modRegs_saved_hart (f : Regs → Regs) : (s.modRegs f).hart.saved = s.hart.saved := rfl
@[simp] theorem modRegs_cv_hart (f : Regs → Regs) : (s.modRegs f).hart.cv = s.hart.cv := rfl
@[simp] theorem modRegs_phase_hart (f : Regs → Regs) : (s.modRegs f).hart.phase = s.hart.phase := rfl
@[simp] theorem modRegs_inst_hart (f : Regs → Regs) : (s.modRegs f).hart.inst = s.hart.inst := rfl
@[simp] theorem modRegs_tried_hart (f : Regs → Regs) : (s.modRegs f).hart.tried = s.hart.tried := rfl
@[simp] theorem modRegs_frags_hart (f : Regs → Regs) : (s.modRegs f).hart.frags = s.hart.frags := rfl
@[simp] theorem modRegs_tlevel_hart (f : Regs → Regs) : (s.modRegs f).hart.tlevel = s.hart.tlevel := rfl
@[simp] theorem modRegs_trap1_hart (f : Regs → Regs) : (s.modRegs f).hart.trap1 = s.hart.trap1 := rfl
@[simp] theorem modRegs_trap2_hart (f : Regs → Regs) : (s.modRegs f).hart.trap2 = s.hart.trap2 := rfl
@[simp] theorem modRegs_cseq_hart (f : Regs → Regs) : (s.modRegs f).hart.cseq = s.hart.cseq := rfl
@[simp] theorem modRegs_event_hart (f : Regs → Regs) : (s.modRegs f).hart.event = s.hart.event := rfl
@[simp] theorem modRegs_async30_hart (f : Regs → Regs) : (s.modRegs f).hart.async30 = s.hart.async30 := rfl
@[simp] theorem modRegs_async31_hart (f : Regs → Regs) : (s.modRegs f).hart.async31 = s.hart.async31 := rfl
@[simp] theorem modRegs_npSince_hart (f : Regs → Regs) : (s.modRegs f).hart.npSince = s.hart.npSince := rfl
@[simp] theorem modRegs_rendezvous_hart (f : Regs → Regs) : (s.modRegs f).hart.rendezvous = s.hart.rendezvous := rfl
@[simp] theorem modRegs_passed_hart (f : Regs → Regs) : (s.modRegs f).hart.passed = s.hart.passed := rfl
@[simp] theorem modRegs_usemask_hart (f : Regs → Regs) : (s.modRegs f).hart.usemask = s.hart.usemask := rfl
@[simp] theorem modRegs_domain_hart (f : Regs → Regs) : (s.modRegs f).hart.domain = s.hart.domain := rfl
@[simp] theorem modRegs_cap_hart (f : Regs → Regs) : (s.modRegs f).hart.cap = s.hart.cap := rfl
@[simp] theorem modRegs_gangRank_hart (f : Regs → Regs) : (s.modRegs f).hart.gangRank = s.hart.gangRank := rfl
@[simp] theorem modRegs_gangSize_hart (f : Regs → Regs) : (s.modRegs f).hart.gangSize = s.hart.gangSize := rfl
@[simp] theorem modRegs_gangIdx_hart (f : Regs → Regs) : (s.modRegs f).hart.gangIdx = s.hart.gangIdx := rfl
@[simp] theorem modRegs_logsz_hart (f : Regs → Regs) : (s.modRegs f).hart.logsz = s.hart.logsz := rfl
@[simp] theorem modRegs_staging_hart (f : Regs → Regs) : (s.modRegs f).hart.staging = s.hart.staging := rfl
@[simp] theorem modRegs_sprint_hart (f : Regs → Regs) : (s.modRegs f).hart.sprint = s.hart.sprint := rfl
@[simp] theorem modRegs_prio_hart (f : Regs → Regs) : (s.modRegs f).hart.prio = s.hart.prio := rfl
@[simp] theorem modRegs_readyTicks_hart (f : Regs → Regs) : (s.modRegs f).hart.readyTicks = s.hart.readyTicks := rfl
@[simp] theorem modRegs_skip_hart (f : Regs → Regs) : (s.modRegs f).hart.skip = s.hart.skip := rfl
@[simp] theorem modRegs_home_hart (f : Regs → Regs) : (s.modRegs f).hart.home = s.hart.home := rfl
@[simp] theorem modRegs_launch_hart (f : Regs → Regs) : (s.modRegs f).hart.launch = s.hart.launch := rfl
@[simp] theorem modRegs_launchId_hart (f : Regs → Regs) : (s.modRegs f).hart.launchId = s.hart.launchId := rfl
@[simp] theorem modRegs_instStack_hart (f : Regs → Regs) : (s.modRegs f).hart.instStack = s.hart.instStack := rfl
@[simp] theorem modRegs_serial_hart (f : Regs → Regs) : (s.modRegs f).hart.serial = s.hart.serial := rfl
@[simp] theorem modRegs_tile_hart (f : Regs → Regs) : (s.modRegs f).hart.tile = s.hart.tile := rfl
@[simp] theorem modRegs_held_hart (f : Regs → Regs) : (s.modRegs f).hart.held = s.hart.held := rfl
@[simp] theorem modRegs_heldCore_hart (f : Regs → Regs) : (s.modRegs f).hart.heldCore = s.hart.heldCore := rfl
@[simp] theorem modRegs_preempt_hart (f : Regs → Regs) : (s.modRegs f).hart.preempt = s.hart.preempt := rfl
@[simp] theorem modRegs_replace_hart (f : Regs → Regs) : (s.modRegs f).hart.replace = s.hart.replace := rfl
@[simp] theorem modRegs_migrate_hart (f : Regs → Regs) : (s.modRegs f).hart.migrate = s.hart.migrate := rfl
@[simp] theorem modRegs_att_hart (f : Regs → Regs) : (s.modRegs f).hart.att = s.hart.att := rfl
@[simp] theorem modRegs_results_hart (f : Regs → Regs) : (s.modRegs f).hart.results = s.hart.results := rfl
@[simp] theorem modRegs_awaiting_hart (f : Regs → Regs) : (s.modRegs f).hart.awaiting = s.hart.awaiting := rfl
@[simp] theorem modRegs_chunks_hart (f : Regs → Regs) : (s.modRegs f).hart.chunks = s.hart.chunks := rfl
@[simp] theorem ws_agenda (n : SReg) (x : Word) : (s.ws n x).agenda = s.agenda := rfl
@[simp] theorem ws_stalled (n : SReg) (x : Word) : (s.ws n x).stalled = s.stalled := rfl
@[simp] theorem ws_fresh (n : SReg) (x : Word) : (s.ws n x).fresh = s.fresh := rfl
@[simp] theorem ws_serial (n : SReg) (x : Word) : (s.ws n x).serial = s.serial := rfl
@[simp] theorem ws_ticks (n : SReg) (x : Word) : (s.ws n x).ticks = s.ticks := rfl
@[simp] theorem ws_skew (n : SReg) (x : Word) : (s.ws n x).skew = s.skew := rfl
@[simp] theorem ws_others (n : SReg) (x : Word) : (s.ws n x).others = s.others := rfl
@[simp] theorem ws_cores (n : SReg) (x : Word) : (s.ws n x).cores = s.cores := rfl
@[simp] theorem ws_gangs (n : SReg) (x : Word) : (s.ws n x).gangs = s.gangs := rfl
@[simp] theorem ws_logs (n : SReg) (x : Word) : (s.ws n x).logs = s.logs := rfl
@[simp] theorem ws_past (n : SReg) (x : Word) : (s.ws n x).past = s.past := rfl
@[simp] theorem ws_stackTab (n : SReg) (x : Word) : (s.ws n x).stackTab = s.stackTab := rfl
@[simp] theorem ws_mem (n : SReg) (x : Word) : (s.ws n x).mem = s.mem := rfl
@[simp] theorem ws_poison (n : SReg) (x : Word) : (s.ws n x).poison = s.poison := rfl
@[simp] theorem ws_tdis (n : SReg) (x : Word) : (s.ws n x).tdis = s.tdis := rfl
@[simp] theorem ws_portDomain (n : SReg) (x : Word) : (s.ws n x).portDomain = s.portDomain := rfl
@[simp] theorem ws_perst (n : SReg) (x : Word) : (s.ws n x).perst = s.perst := rfl
@[simp] theorem ws_spdm (n : SReg) (x : Word) : (s.ws n x).spdm = s.spdm := rfl
@[simp] theorem ws_conns (n : SReg) (x : Word) : (s.ws n x).conns = s.conns := rfl
@[simp] theorem ws_out (n : SReg) (x : Word) : (s.ws n x).out = s.out := rfl
@[simp] theorem ws_flash (n : SReg) (x : Word) : (s.ws n x).flash = s.flash := rfl
@[simp] theorem ws_active (n : SReg) (x : Word) : (s.ws n x).active = s.active := rfl
@[simp] theorem ws_newImage (n : SReg) (x : Word) : (s.ws n x).newImage = s.newImage := rfl
@[simp] theorem ws_image (n : SReg) (x : Word) : (s.ws n x).image = s.image := rfl
@[simp] theorem ws_fusedMin (n : SReg) (x : Word) : (s.ws n x).fusedMin = s.fusedMin := rfl
@[simp] theorem ws_keyHash (n : SReg) (x : Word) : (s.ws n x).keyHash = s.keyHash := rfl
@[simp] theorem ws_bringUp (n : SReg) (x : Word) : (s.ws n x).bringUp = s.bringUp := rfl
@[simp] theorem ws_upSince (n : SReg) (x : Word) : (s.ws n x).upSince = s.upSince := rfl
@[simp] theorem ws_warm (n : SReg) (x : Word) : (s.ws n x).warm = s.warm := rfl
@[simp] theorem ws_failed (n : SReg) (x : Word) : (s.ws n x).failed = s.failed := rfl
@[simp] theorem ws_farPuts (n : SReg) (x : Word) : (s.ws n x).farPuts = s.farPuts := rfl
@[simp] theorem ws_farParts (n : SReg) (x : Word) : (s.ws n x).farParts = s.farParts := rfl
@[simp] theorem ws_gathers (n : SReg) (x : Word) : (s.ws n x).gathers = s.gathers := rfl
@[simp] theorem ws_badCopies (n : SReg) (x : Word) : (s.ws n x).badCopies = s.badCopies := rfl
@[simp] theorem ws_modrst (n : SReg) (x : Word) : (s.ws n x).modrst = s.modrst := rfl
@[simp] theorem ws_powerLow (n : SReg) (x : Word) : (s.ws n x).powerLow = s.powerLow := rfl
@[simp] theorem ws_sensors (n : SReg) (x : Word) : (s.ws n x).sensors = s.sensors := rfl
@[simp] theorem ws_engaged (n : SReg) (x : Word) : (s.ws n x).engaged = s.engaged := rfl
@[simp] theorem ws_stopped (n : SReg) (x : Word) : (s.ws n x).stopped = s.stopped := rfl
@[simp] theorem ws_thermtrip (n : SReg) (x : Word) : (s.ws n x).thermtrip = s.thermtrip := rfl
@[simp] theorem ws_alert (n : SReg) (x : Word) : (s.ws n x).alert = s.alert := rfl
@[simp] theorem ws_key_hart (n : SReg) (x : Word) : (s.ws n x).hart.key = s.hart.key := rfl
@[simp] theorem ws_service_hart (n : SReg) (x : Word) : (s.ws n x).hart.service = s.hart.service := rfl
@[simp] theorem ws_loc_hart (n : SReg) (x : Word) : (s.ws n x).hart.loc = s.hart.loc := rfl
@[simp] theorem ws_slot_hart (n : SReg) (x : Word) : (s.ws n x).hart.slot = s.hart.slot := rfl
@[simp] theorem ws_pc_hart (n : SReg) (x : Word) : (s.ws n x).hart.pc = s.hart.pc := rfl
@[simp] theorem ws_saved_hart (n : SReg) (x : Word) : (s.ws n x).hart.saved = s.hart.saved := rfl
@[simp] theorem ws_cv_hart (n : SReg) (x : Word) : (s.ws n x).hart.cv = s.hart.cv := rfl
@[simp] theorem ws_phase_hart (n : SReg) (x : Word) : (s.ws n x).hart.phase = s.hart.phase := rfl
@[simp] theorem ws_inst_hart (n : SReg) (x : Word) : (s.ws n x).hart.inst = s.hart.inst := rfl
@[simp] theorem ws_tried_hart (n : SReg) (x : Word) : (s.ws n x).hart.tried = s.hart.tried := rfl
@[simp] theorem ws_frags_hart (n : SReg) (x : Word) : (s.ws n x).hart.frags = s.hart.frags := rfl
@[simp] theorem ws_tlevel_hart (n : SReg) (x : Word) : (s.ws n x).hart.tlevel = s.hart.tlevel := rfl
@[simp] theorem ws_trap1_hart (n : SReg) (x : Word) : (s.ws n x).hart.trap1 = s.hart.trap1 := rfl
@[simp] theorem ws_trap2_hart (n : SReg) (x : Word) : (s.ws n x).hart.trap2 = s.hart.trap2 := rfl
@[simp] theorem ws_cseq_hart (n : SReg) (x : Word) : (s.ws n x).hart.cseq = s.hart.cseq := rfl
@[simp] theorem ws_event_hart (n : SReg) (x : Word) : (s.ws n x).hart.event = s.hart.event := rfl
@[simp] theorem ws_async30_hart (n : SReg) (x : Word) : (s.ws n x).hart.async30 = s.hart.async30 := rfl
@[simp] theorem ws_async31_hart (n : SReg) (x : Word) : (s.ws n x).hart.async31 = s.hart.async31 := rfl
@[simp] theorem ws_npSince_hart (n : SReg) (x : Word) : (s.ws n x).hart.npSince = s.hart.npSince := rfl
@[simp] theorem ws_rendezvous_hart (n : SReg) (x : Word) : (s.ws n x).hart.rendezvous = s.hart.rendezvous := rfl
@[simp] theorem ws_passed_hart (n : SReg) (x : Word) : (s.ws n x).hart.passed = s.hart.passed := rfl
@[simp] theorem ws_usemask_hart (n : SReg) (x : Word) : (s.ws n x).hart.usemask = s.hart.usemask := rfl
@[simp] theorem ws_domain_hart (n : SReg) (x : Word) : (s.ws n x).hart.domain = s.hart.domain := rfl
@[simp] theorem ws_cap_hart (n : SReg) (x : Word) : (s.ws n x).hart.cap = s.hart.cap := rfl
@[simp] theorem ws_gangRank_hart (n : SReg) (x : Word) : (s.ws n x).hart.gangRank = s.hart.gangRank := rfl
@[simp] theorem ws_gangSize_hart (n : SReg) (x : Word) : (s.ws n x).hart.gangSize = s.hart.gangSize := rfl
@[simp] theorem ws_gangIdx_hart (n : SReg) (x : Word) : (s.ws n x).hart.gangIdx = s.hart.gangIdx := rfl
@[simp] theorem ws_logsz_hart (n : SReg) (x : Word) : (s.ws n x).hart.logsz = s.hart.logsz := rfl
@[simp] theorem ws_staging_hart (n : SReg) (x : Word) : (s.ws n x).hart.staging = s.hart.staging := rfl
@[simp] theorem ws_sprint_hart (n : SReg) (x : Word) : (s.ws n x).hart.sprint = s.hart.sprint := rfl
@[simp] theorem ws_prio_hart (n : SReg) (x : Word) : (s.ws n x).hart.prio = s.hart.prio := rfl
@[simp] theorem ws_readyTicks_hart (n : SReg) (x : Word) : (s.ws n x).hart.readyTicks = s.hart.readyTicks := rfl
@[simp] theorem ws_skip_hart (n : SReg) (x : Word) : (s.ws n x).hart.skip = s.hart.skip := rfl
@[simp] theorem ws_home_hart (n : SReg) (x : Word) : (s.ws n x).hart.home = s.hart.home := rfl
@[simp] theorem ws_launch_hart (n : SReg) (x : Word) : (s.ws n x).hart.launch = s.hart.launch := rfl
@[simp] theorem ws_launchId_hart (n : SReg) (x : Word) : (s.ws n x).hart.launchId = s.hart.launchId := rfl
@[simp] theorem ws_instStack_hart (n : SReg) (x : Word) : (s.ws n x).hart.instStack = s.hart.instStack := rfl
@[simp] theorem ws_serial_hart (n : SReg) (x : Word) : (s.ws n x).hart.serial = s.hart.serial := rfl
@[simp] theorem ws_tile_hart (n : SReg) (x : Word) : (s.ws n x).hart.tile = s.hart.tile := rfl
@[simp] theorem ws_held_hart (n : SReg) (x : Word) : (s.ws n x).hart.held = s.hart.held := rfl
@[simp] theorem ws_heldCore_hart (n : SReg) (x : Word) : (s.ws n x).hart.heldCore = s.hart.heldCore := rfl
@[simp] theorem ws_preempt_hart (n : SReg) (x : Word) : (s.ws n x).hart.preempt = s.hart.preempt := rfl
@[simp] theorem ws_replace_hart (n : SReg) (x : Word) : (s.ws n x).hart.replace = s.hart.replace := rfl
@[simp] theorem ws_migrate_hart (n : SReg) (x : Word) : (s.ws n x).hart.migrate = s.hart.migrate := rfl
@[simp] theorem ws_att_hart (n : SReg) (x : Word) : (s.ws n x).hart.att = s.hart.att := rfl
@[simp] theorem ws_results_hart (n : SReg) (x : Word) : (s.ws n x).hart.results = s.hart.results := rfl
@[simp] theorem ws_awaiting_hart (n : SReg) (x : Word) : (s.ws n x).hart.awaiting = s.hart.awaiting := rfl
@[simp] theorem ws_chunks_hart (n : SReg) (x : Word) : (s.ws n x).hart.chunks = s.hart.chunks := rfl
@[simp] theorem modRegs_regs (f : Regs → Regs) : (s.modRegs f).hart.regs = f s.hart.regs := rfl
@[simp] theorem ws_regs (n : SReg) (x : Word) : (s.ws n x).hart.regs = s.hart.regs.ws n x := rfl

end State

namespace Regs

variable (r : Regs)

@[simp] theorem wv_s (n : VReg) (x : VRegS) : (r.wv n x).s = r.s := rfl
@[simp] theorem wp_s (n : PReg) (x : BitVec 16384) : (r.wp n x).s = r.s := by unfold wp; split <;> rfl
@[simp] theorem wb_s (n : BReg) (x : BitVec 128) : (r.wb n x).s = r.s := rfl
@[simp] theorem ws_v (n : SReg) (x : Word) : (r.ws n x).v = r.v := by unfold ws; split <;> rfl
@[simp] theorem wp_v (n : PReg) (x : BitVec 16384) : (r.wp n x).v = r.v := by unfold wp; split <;> rfl
@[simp] theorem wb_v (n : BReg) (x : BitVec 128) : (r.wb n x).v = r.v := rfl
@[simp] theorem ws_p (n : SReg) (x : Word) : (r.ws n x).p = r.p := by unfold ws; split <;> rfl
@[simp] theorem wv_p (n : VReg) (x : VRegS) : (r.wv n x).p = r.p := rfl
@[simp] theorem wb_p (n : BReg) (x : BitVec 128) : (r.wb n x).p = r.p := rfl
@[simp] theorem ws_acc (n : SReg) (x : Word) : (r.ws n x).acc = r.acc := by unfold ws; split <;> rfl
@[simp] theorem wv_acc (n : VReg) (x : VRegS) : (r.wv n x).acc = r.acc := rfl
@[simp] theorem wp_acc (n : PReg) (x : BitVec 16384) : (r.wp n x).acc = r.acc := by unfold wp; split <;> rfl
@[simp] theorem wb_acc (n : BReg) (x : BitVec 128) : (r.wb n x).acc = r.acc := rfl
@[simp] theorem ws_bp (n : SReg) (x : Word) : (r.ws n x).bp = r.bp := by unfold ws; split <;> rfl
@[simp] theorem wv_bp (n : VReg) (x : VRegS) : (r.wv n x).bp = r.bp := rfl
@[simp] theorem wp_bp (n : PReg) (x : BitVec 16384) : (r.wp n x).bp = r.bp := by unfold wp; split <;> rfl
@[simp] theorem ws_mode (n : SReg) (x : Word) : (r.ws n x).mode = r.mode := by unfold ws; split <;> rfl
@[simp] theorem wv_mode (n : VReg) (x : VRegS) : (r.wv n x).mode = r.mode := rfl
@[simp] theorem wp_mode (n : PReg) (x : BitVec 16384) : (r.wp n x).mode = r.mode := by unfold wp; split <;> rfl
@[simp] theorem wb_mode (n : BReg) (x : BitVec 128) : (r.wb n x).mode = r.mode := rfl
@[simp] theorem ws_vlen (n : SReg) (x : Word) : (r.ws n x).vlen = r.vlen := by unfold ws; split <;> rfl
@[simp] theorem wv_vlen (n : VReg) (x : VRegS) : (r.wv n x).vlen = r.vlen := rfl
@[simp] theorem wp_vlen (n : PReg) (x : BitVec 16384) : (r.wp n x).vlen = r.vlen := by unfold wp; split <;> rfl
@[simp] theorem wb_vlen (n : BReg) (x : BitVec 128) : (r.wb n x).vlen = r.vlen := rfl
@[simp] theorem ws_savedVlen (n : SReg) (x : Word) : (r.ws n x).savedVlen = r.savedVlen := by unfold ws; split <;> rfl
@[simp] theorem wv_savedVlen (n : VReg) (x : VRegS) : (r.wv n x).savedVlen = r.savedVlen := rfl
@[simp] theorem wp_savedVlen (n : PReg) (x : BitVec 16384) : (r.wp n x).savedVlen = r.savedVlen := by unfold wp; split <;> rfl
@[simp] theorem wb_savedVlen (n : BReg) (x : BitVec 128) : (r.wb n x).savedVlen = r.savedVlen := rfl
@[simp] theorem ws_ftrim (n : SReg) (x : Word) : (r.ws n x).ftrim = r.ftrim := by unfold ws; split <;> rfl
@[simp] theorem wv_ftrim (n : VReg) (x : VRegS) : (r.wv n x).ftrim = r.ftrim := rfl
@[simp] theorem wp_ftrim (n : PReg) (x : BitVec 16384) : (r.wp n x).ftrim = r.ftrim := by unfold wp; split <;> rfl
@[simp] theorem wb_ftrim (n : BReg) (x : BitVec 128) : (r.wb n x).ftrim = r.ftrim := rfl
@[simp] theorem ws_grant (n : SReg) (x : Word) : (r.ws n x).grant = r.grant := by unfold ws; split <;> rfl
@[simp] theorem wv_grant (n : VReg) (x : VRegS) : (r.wv n x).grant = r.grant := rfl
@[simp] theorem wp_grant (n : PReg) (x : BitVec 16384) : (r.wp n x).grant = r.grant := by unfold wp; split <;> rfl
@[simp] theorem wb_grant (n : BReg) (x : BitVec 128) : (r.wb n x).grant = r.grant := rfl
@[simp] theorem ws_fpctl (n : SReg) (x : Word) : (r.ws n x).fpctl = r.fpctl := by unfold ws; split <;> rfl
@[simp] theorem wv_fpctl (n : VReg) (x : VRegS) : (r.wv n x).fpctl = r.fpctl := rfl
@[simp] theorem wp_fpctl (n : PReg) (x : BitVec 16384) : (r.wp n x).fpctl = r.fpctl := by unfold wp; split <;> rfl
@[simp] theorem wb_fpctl (n : BReg) (x : BitVec 128) : (r.wb n x).fpctl = r.fpctl := rfl
@[simp] theorem ws_fpstat (n : SReg) (x : Word) : (r.ws n x).fpstat = r.fpstat := by unfold ws; split <;> rfl
@[simp] theorem wv_fpstat (n : VReg) (x : VRegS) : (r.wv n x).fpstat = r.fpstat := rfl
@[simp] theorem wp_fpstat (n : PReg) (x : BitVec 16384) : (r.wp n x).fpstat = r.fpstat := by unfold wp; split <;> rfl
@[simp] theorem wb_fpstat (n : BReg) (x : BitVec 128) : (r.wb n x).fpstat = r.fpstat := rfl
@[simp] theorem ws_rngs (n : SReg) (x : Word) : (r.ws n x).rngs = r.rngs := by unfold ws; split <;> rfl
@[simp] theorem wv_rngs (n : VReg) (x : VRegS) : (r.wv n x).rngs = r.rngs := rfl
@[simp] theorem wp_rngs (n : PReg) (x : BitVec 16384) : (r.wp n x).rngs = r.rngs := by unfold wp; split <;> rfl
@[simp] theorem wb_rngs (n : BReg) (x : BitVec 128) : (r.wb n x).rngs = r.rngs := rfl
@[simp] theorem ws_splim (n : SReg) (x : Word) : (r.ws n x).splim = r.splim := by unfold ws; split <;> rfl
@[simp] theorem wv_splim (n : VReg) (x : VRegS) : (r.wv n x).splim = r.splim := rfl
@[simp] theorem wp_splim (n : PReg) (x : BitVec 16384) : (r.wp n x).splim = r.splim := by unfold wp; split <;> rfl
@[simp] theorem wb_splim (n : BReg) (x : BitVec 128) : (r.wb n x).splim = r.splim := rfl
@[simp] theorem ws_sdmDirty (n : SReg) (x : Word) : (r.ws n x).sdmDirty = r.sdmDirty := by unfold ws; split <;> rfl
@[simp] theorem wv_sdmDirty (n : VReg) (x : VRegS) : (r.wv n x).sdmDirty = r.sdmDirty := rfl
@[simp] theorem wp_sdmDirty (n : PReg) (x : BitVec 16384) : (r.wp n x).sdmDirty = r.sdmDirty := by unfold wp; split <;> rfl
@[simp] theorem wb_sdmDirty (n : BReg) (x : BitVec 128) : (r.wb n x).sdmDirty = r.sdmDirty := rfl
@[simp] theorem ws_tshm (n : SReg) (x : Word) : (r.ws n x).tshm = r.tshm := by unfold ws; split <;> rfl
@[simp] theorem wv_tshm (n : VReg) (x : VRegS) : (r.wv n x).tshm = r.tshm := rfl
@[simp] theorem wp_tshm (n : PReg) (x : BitVec 16384) : (r.wp n x).tshm = r.tshm := by unfold wp; split <;> rfl
@[simp] theorem wb_tshm (n : BReg) (x : BitVec 128) : (r.wb n x).tshm = r.tshm := rfl
@[simp] theorem ws_tshn (n : SReg) (x : Word) : (r.ws n x).tshn = r.tshn := by unfold ws; split <;> rfl
@[simp] theorem wv_tshn (n : VReg) (x : VRegS) : (r.wv n x).tshn = r.tshn := rfl
@[simp] theorem wp_tshn (n : PReg) (x : BitVec 16384) : (r.wp n x).tshn = r.tshn := by unfold wp; split <;> rfl
@[simp] theorem wb_tshn (n : BReg) (x : BitVec 128) : (r.wb n x).tshn = r.tshn := rfl
@[simp] theorem ws_tshk (n : SReg) (x : Word) : (r.ws n x).tshk = r.tshk := by unfold ws; split <;> rfl
@[simp] theorem wv_tshk (n : VReg) (x : VRegS) : (r.wv n x).tshk = r.tshk := rfl
@[simp] theorem wp_tshk (n : PReg) (x : BitVec 16384) : (r.wp n x).tshk = r.tshk := by unfold wp; split <;> rfl
@[simp] theorem wb_tshk (n : BReg) (x : BitVec 128) : (r.wb n x).tshk = r.tshk := rfl
@[simp] theorem ws_mxpcmd (n : SReg) (x : Word) : (r.ws n x).mxpcmd = r.mxpcmd := by unfold ws; split <;> rfl
@[simp] theorem wv_mxpcmd (n : VReg) (x : VRegS) : (r.wv n x).mxpcmd = r.mxpcmd := rfl
@[simp] theorem wp_mxpcmd (n : PReg) (x : BitVec 16384) : (r.wp n x).mxpcmd = r.mxpcmd := by unfold wp; split <;> rfl
@[simp] theorem wb_mxpcmd (n : BReg) (x : BitVec 128) : (r.wb n x).mxpcmd = r.mxpcmd := rfl
@[simp] theorem ws_bstride (n : SReg) (x : Word) : (r.ws n x).bstride = r.bstride := by unfold ws; split <;> rfl
@[simp] theorem wv_bstride (n : VReg) (x : VRegS) : (r.wv n x).bstride = r.bstride := rfl
@[simp] theorem wp_bstride (n : PReg) (x : BitVec 16384) : (r.wp n x).bstride = r.bstride := by unfold wp; split <;> rfl
@[simp] theorem wb_bstride (n : BReg) (x : BitVec 128) : (r.wb n x).bstride = r.bstride := rfl
@[simp] theorem ws_sdm (n : SReg) (x : Word) : (r.ws n x).sdm = r.sdm := by unfold ws; split <;> rfl
@[simp] theorem wv_sdm (n : VReg) (x : VRegS) : (r.wv n x).sdm = r.sdm := rfl
@[simp] theorem wp_sdm (n : PReg) (x : BitVec 16384) : (r.wp n x).sdm = r.sdm := by unfold wp; split <;> rfl
@[simp] theorem wb_sdm (n : BReg) (x : BitVec 128) : (r.wb n x).sdm = r.sdm := rfl
@[simp] theorem ws_bad (n : SReg) (x : Word) : (r.ws n x).bad = r.bad := by unfold ws; split <;> rfl
@[simp] theorem wp_bad (n : PReg) (x : BitVec 16384) : (r.wp n x).bad = r.bad := by unfold wp; split <;> rfl
@[simp] theorem wb_bad (n : BReg) (x : BitVec 128) : (r.wb n x).bad = r.bad := rfl
@[simp] theorem ws_badAcc (n : SReg) (x : Word) : (r.ws n x).badAcc = r.badAcc := by unfold ws; split <;> rfl
@[simp] theorem wv_badAcc (n : VReg) (x : VRegS) : (r.wv n x).badAcc = r.badAcc := rfl
@[simp] theorem wp_badAcc (n : PReg) (x : BitVec 16384) : (r.wp n x).badAcc = r.badAcc := by unfold wp; split <;> rfl
@[simp] theorem wb_badAcc (n : BReg) (x : BitVec 128) : (r.wb n x).badAcc = r.badAcc := rfl
@[simp] theorem ws_scratch (n : SReg) (x : Word) : (r.ws n x).scratch = r.scratch := by unfold ws; split <;> rfl
@[simp] theorem wv_scratch (n : VReg) (x : VRegS) : (r.wv n x).scratch = r.scratch := rfl
@[simp] theorem wp_scratch (n : PReg) (x : BitVec 16384) : (r.wp n x).scratch = r.scratch := by unfold wp; split <;> rfl
@[simp] theorem wb_scratch (n : BReg) (x : BitVec 128) : (r.wb n x).scratch = r.scratch := rfl

end Regs

end Sys2Proof.Machine
end

