-- ==== Sys2Proof/Laws/Events.lean ====
section
/-! SUPPORT. What the tables of the state read as after each update, and what an event leaves of the contexts. -/

namespace Sys2Proof.Machine

/-- A step of a unit that exists answers its next state. -/
theorem ifUnit_next {c : Bool} {s t : State} (h : c = true) (e : s = t) : ifUnit c s = .next t := by
  subst e; unfold ifUnit; rw [if_pos h]

/-- A step of a unit that does not exist is a fault. -/
theorem ifUnit_fault {c : Bool} {s : State} (h : c = false) : ifUnit c s = .fault .noSuchUnit := by
  subst h; rfl

namespace State

variable (s : State)

@[simp] theorem modCore_stack (g : Nat) (f : CoreS → CoreS) (k : Nat) : (s.modCore g f).stack k = s.stack k := rfl
@[simp] theorem modCore_core_same (g : Nat) (f : CoreS → CoreS) : (s.modCore g f).core g = f (s.core g) := Tbl.look_put_same ..
theorem modCore_core_other (g : Nat) (f : CoreS → CoreS) {k : Nat} (h : k ≠ g) : (s.modCore g f).core k = s.core k := Tbl.look_put_other _ _ _ h
@[simp] theorem modCore_log (g : Nat) (f : CoreS → CoreS) (k : Nat) : (s.modCore g f).log k = s.log k := rfl
@[simp] theorem modCore_gang (g : Nat) (f : CoreS → CoreS) (k : Nat) : (s.modCore g f).gang k = s.gang k := rfl
@[simp] theorem modCore_time (g : Nat) (f : CoreS → CoreS) (k : Nat) : (s.modCore g f).time k = s.time k := rfl
@[simp] theorem modStack_stack_same (g : Nat) (f : Stack → Stack) : (s.modStack g f).stack g = f (s.stack g) := Tbl.look_put_same ..
theorem modStack_stack_other (g : Nat) (f : Stack → Stack) {k : Nat} (h : k ≠ g) : (s.modStack g f).stack k = s.stack k := Tbl.look_put_other _ _ _ h
@[simp] theorem modStack_core (g : Nat) (f : Stack → Stack) (k : Nat) : (s.modStack g f).core k = s.core k := rfl
@[simp] theorem modStack_log (g : Nat) (f : Stack → Stack) (k : Nat) : (s.modStack g f).log k = s.log k := rfl
@[simp] theorem modStack_gang (g : Nat) (f : Stack → Stack) (k : Nat) : (s.modStack g f).gang k = s.gang k := rfl
@[simp] theorem modStack_time (g : Nat) (f : Stack → Stack) (k : Nat) : (s.modStack g f).time k = s.time k := rfl
@[simp] theorem modLog_stack (g : Nat) (f : Log → Log) (k : Nat) : (s.modLog g f).stack k = s.stack k := rfl
@[simp] theorem modLog_core (g : Nat) (f : Log → Log) (k : Nat) : (s.modLog g f).core k = s.core k := rfl
@[simp] theorem modLog_log_same (g : Nat) (f : Log → Log) : (s.modLog g f).log g = f (s.log g) := Tbl.look_put_same ..
theorem modLog_log_other (g : Nat) (f : Log → Log) {k : Nat} (h : k ≠ g) : (s.modLog g f).log k = s.log k := Tbl.look_put_other _ _ _ h
@[simp] theorem modLog_gang (g : Nat) (f : Log → Log) (k : Nat) : (s.modLog g f).gang k = s.gang k := rfl
@[simp] theorem modLog_time (g : Nat) (f : Log → Log) (k : Nat) : (s.modLog g f).time k = s.time k := rfl
@[simp] theorem modGang_stack (g : Nat) (f : Gang → Gang) (k : Nat) : (s.modGang g f).stack k = s.stack k := rfl
@[simp] theorem modGang_core (g : Nat) (f : Gang → Gang) (k : Nat) : (s.modGang g f).core k = s.core k := rfl
@[simp] theorem modGang_log (g : Nat) (f : Gang → Gang) (k : Nat) : (s.modGang g f).log k = s.log k := rfl
@[simp] theorem modGang_gang_same (g : Nat) (f : Gang → Gang) : (s.modGang g f).gang g = f (s.gang g) := Tbl.look_put_same ..
theorem modGang_gang_other (g : Nat) (f : Gang → Gang) {k : Nat} (h : k ≠ g) : (s.modGang g f).gang k = s.gang k := Tbl.look_put_other _ _ _ h
@[simp] theorem modGang_time (g : Nat) (f : Gang → Gang) (k : Nat) : (s.modGang g f).time k = s.time k := rfl
@[simp] theorem modHart_stack (f : Hart → Hart) (k : Nat) : (s.modHart f).stack k = s.stack k := rfl
@[simp] theorem modHart_core (f : Hart → Hart) (k : Nat) : (s.modHart f).core k = s.core k := rfl
@[simp] theorem modHart_log (f : Hart → Hart) (k : Nat) : (s.modHart f).log k = s.log k := rfl
@[simp] theorem modHart_gang (f : Hart → Hart) (k : Nat) : (s.modHart f).gang k = s.gang k := rfl
@[simp] theorem modHart_time (f : Hart → Hart) (k : Nat) : (s.modHart f).time k = s.time k := rfl
@[simp] theorem modRegs_stack (f : Regs → Regs) (k : Nat) : (s.modRegs f).stack k = s.stack k := rfl
@[simp] theorem modRegs_core (f : Regs → Regs) (k : Nat) : (s.modRegs f).core k = s.core k := rfl
@[simp] theorem modRegs_log (f : Regs → Regs) (k : Nat) : (s.modRegs f).log k = s.log k := rfl
@[simp] theorem modRegs_gang (f : Regs → Regs) (k : Nat) : (s.modRegs f).gang k = s.gang k := rfl
@[simp] theorem modRegs_time (f : Regs → Regs) (k : Nat) : (s.modRegs f).time k = s.time k := rfl
@[simp] theorem mapCtx_stack (f : Hart → Hart) (k : Nat) : (s.mapCtx f).stack k = s.stack k := rfl
@[simp] theorem mapCtx_core (f : Hart → Hart) (k : Nat) : (s.mapCtx f).core k = s.core k := rfl
@[simp] theorem mapCtx_log (f : Hart → Hart) (k : Nat) : (s.mapCtx f).log k = s.log k := rfl
@[simp] theorem mapCtx_gang (f : Hart → Hart) (k : Nat) : (s.mapCtx f).gang k = s.gang k := rfl
@[simp] theorem mapCtx_time (f : Hart → Hart) (k : Nat) : (s.mapCtx f).time k = s.time k := rfl
@[simp] theorem send_stack (o : Out) (k : Nat) : (s.send o).stack k = s.stack k := rfl
@[simp] theorem send_core (o : Out) (k : Nat) : (s.send o).core k = s.core k := rfl
@[simp] theorem send_log (o : Out) (k : Nat) : (s.send o).log k = s.log k := rfl
@[simp] theorem send_gang (o : Out) (k : Nat) : (s.send o).gang k = s.gang k := rfl
@[simp] theorem send_time (o : Out) (k : Nat) : (s.send o).time k = s.time k := rfl
@[simp] theorem post_stack (m : List Msg) (k : Nat) : (s.post m).stack k = s.stack k := rfl
@[simp] theorem post_core (m : List Msg) (k : Nat) : (s.post m).core k = s.core k := rfl
@[simp] theorem post_log (m : List Msg) (k : Nat) : (s.post m).log k = s.log k := rfl
@[simp] theorem post_gang (m : List Msg) (k : Nat) : (s.post m).gang k = s.gang k := rfl
@[simp] theorem post_time (m : List Msg) (k : Nat) : (s.post m).time k = s.time k := rfl
@[simp] theorem count_core (g off n : Nat) (k : Nat) : (s.count g off n).core k = s.core k := rfl
@[simp] theorem count_log (g off n : Nat) (k : Nat) : (s.count g off n).log k = s.log k := rfl
@[simp] theorem count_gang (g off n : Nat) (k : Nat) : (s.count g off n).gang k = s.gang k := rfl
@[simp] theorem count_time (g off n : Nat) (k : Nat) : (s.count g off n).time k = s.time k := rfl
@[simp] theorem count_stack_same (g off n : Nat) : (s.count g off n).stack g =
    { s.stack g with block := (s.stack g).block.put off ((s.stack g).block.look off 0 + BitVec.ofNat 64 n) } := Tbl.look_put_same ..
theorem count_stack_other (g off n : Nat) {k : Nat} (h : k ≠ g) : (s.count g off n).stack k = s.stack k := Tbl.look_put_other _ _ _ h

end State

/-! ## Contexts -/

/-- Among entries under their own keys, one of which changes and keeps its key, a key finds the entry changed. -/
theorem find_changed {l : Tbl Hart} {h : Nat} {f : Hart → Hart} (hk : ∀ e ∈ l, e.2.key = e.1)
    (hf : ∀ e ∈ l, e.1 = h → (f e.2).key = h) (k : Nat) :
    ((l.map fun e => if e.1 = h then (e.1, f e.2) else e).map Prod.snd).find? (fun x => x.key == k) =
      ((l.map Prod.snd).find? fun x => x.key == k).map fun x => if k = h then f x else x := by
  induction l with
  | nil => rfl
  | cons e r ih =>
    have ih' := ih (fun x hx => hk x (List.mem_cons_of_mem _ hx)) (fun x hx => hf x (List.mem_cons_of_mem _ hx))
    have ke := hk e List.mem_cons_self
    have fe := hf e List.mem_cons_self
    by_cases h1 : e.1 = h
    · by_cases h2 : k = h
      · simp only [List.map_cons, h1, if_true, List.find?_cons, fe h1, ke, h2, beq_self_eq_true, Option.map_some]
      · simp only [List.map_cons, h1, if_true, List.find?_cons, fe h1, ke, beq_eq_false_iff_ne.mpr (Ne.symm h2)]
        simpa only [h2, if_false] using ih'
    · by_cases h3 : e.1 = k
      · have h2 : k ≠ h := fun q => h1 (h3.trans q)
        simp only [List.map_cons, if_false, List.find?_cons, ke, h3, beq_self_eq_true, Option.map_some, h2]
      · simp only [List.map_cons, h1, if_false, List.find?_cons, ke, beq_eq_false_iff_ne.mpr h3]
        exact ih'

/-- A context changed by a function that keeps its key and does not end it became what the function gives. -/
theorem becomes_modCtx {s : State} {h : Nat} {x : Hart} {f : Hart → Hart} (hs : ContextsKeyed s) (hx : s.ctx h = some x)
    (hk : ∀ y : Hart, (f y).key = y.key) (he : (f x).slot = .ended → x.slot = .ended) : ContextBecomes s (s.modCtx h f) h (f x) := by
  obtain ⟨h1, -⟩ := hs
  refine ⟨?_, fun k hne => ?_, ?_, ?_⟩
  · unfold State.modCtx
    by_cases hh : s.hart.key = h
    · have ha : s.hart.slot ≠ .ended ∧ s.hart = x := by
        unfold State.ctx State.harts at hx
        by_cases q : s.hart.slot = .ended
        · simp only [q, if_true, List.nil_append] at hx
          have m := List.mem_of_find?_eq_some hx
          obtain ⟨e, me, rfl⟩ := List.mem_map.mp m
          have kk := List.find?_some hx
          exact absurd (by rw [hh, ← (h1 e me).1]; simpa using kk) (h1 e me).2
        · simp only [q, if_false, List.cons_append, List.find?_cons, hh, beq_self_eq_true, Option.some.injEq] at hx
          exact ⟨q, hx⟩
      obtain ⟨ha, rfl⟩ := ha
      rw [if_pos hh]
      have q : (f s.hart).slot ≠ .ended := fun q => ha (he q)
      simp only [State.ctx, State.harts, State.modHart, q, if_false, List.cons_append, List.find?_cons, hk, hh, beq_self_eq_true]
    · rw [if_neg hh]
      unfold State.ctx State.harts at hx ⊢
      simp only [List.find?_append] at hx ⊢
      rw [find_changed (fun e me => (h1 e me).1) (fun e me q => by rw [hk, (h1 e me).1, q])]
      have z : ((if s.hart.slot = SlotState.ended then [] else [s.hart]).find? fun x => x.key == h) = none := by
        split
        · rfl
        · simp [hh]
      rw [z] at hx ⊢
      simp only [Option.none_or] at hx ⊢
      rw [hx]; simp
  · unfold State.modCtx
    by_cases hh : s.hart.key = h
    · rw [if_pos hh]
      have hn : (s.hart.key == k) = false := by rw [hh]; simpa using Ne.symm hne
      have a (y : Hart) (e : y.key = s.hart.key) :
          (if y.slot = SlotState.ended then [] else [y]).find? (fun x => x.key == k) = none := by
        split
        · rfl
        · simp [e, hn]
      unfold State.ctx State.harts
      rw [List.find?_append, List.find?_append, a s.hart rfl]
      show Option.or ((if (f s.hart).slot = SlotState.ended then [] else [f s.hart]).find? _) _ = _
      rw [a _ (hk _)]; rfl
    · rw [if_neg hh]
      unfold State.ctx State.harts
      simp only [List.find?_append]
      rw [find_changed (fun e me => (h1 e me).1) (fun e me q => by rw [hk, (h1 e me).1, q])]
      simp only [hne, if_false, Option.map_id']
  · unfold State.modCtx; split <;> rfl
  · unfold State.modCtx; split <;> rfl

/-- Every context changed by a function that keeps keys and ends none is found changed. -/
theorem ctx_mapCtx {s : State} {f : Hart → Hart} (hk : ∀ y : Hart, (f y).key = y.key) (he : ∀ y : Hart, (f y).slot = .ended ↔ y.slot = .ended)
    (k : Nat) : (s.mapCtx f).ctx k = (s.ctx k).map f := by
  unfold State.ctx State.harts
  have a : ∀ l : Tbl Hart, ((l.map fun e => (e.1, f e.2)).map Prod.snd).find? (fun x => x.key == k) =
      ((l.map Prod.snd).find? fun x => x.key == k).map f := by
    intro l
    induction l with
    | nil => rfl
    | cons e r ih =>
      simp only [List.map_cons, List.find?_cons, hk]
      split
      · rfl
      · exact ih
  have b : (s.mapCtx f).hart = f s.hart := rfl
  have c : (s.mapCtx f).others = s.others.map fun e => (e.1, f e.2) := rfl
  rw [b, c, List.find?_append, List.find?_append, a]
  by_cases q : s.hart.slot = .ended
  · rw [if_pos q, if_pos ((he _).mpr q)]; rfl
  · rw [if_neg q, if_neg fun w => q ((he _).mp w)]
    simp only [List.find?_cons, hk, List.find?_nil]
    cases s.hart.key == k <;> rfl

end Sys2Proof.Machine
end

