-- ==== Sys2Proof/Laws/Exec.lean ====
section
/-! SUPPORT. What the dispatch gives each instruction: its meaning. -/

namespace Sys2Proof.Machine

variable (s : State)

@[simp] theorem exec_add sd sa sb : exec (.add sd sa sb) s = execAdd sd sa sb s := rfl
@[simp] theorem exec_sub sd sa sb : exec (.sub sd sa sb) s = execSub sd sa sb s := rfl
@[simp] theorem exec_and sd sa sb : exec (.and sd sa sb) s = execAnd sd sa sb s := rfl
@[simp] theorem exec_or sd sa sb : exec (.or sd sa sb) s = execOr sd sa sb s := rfl
@[simp] theorem exec_xor sd sa sb : exec (.xor sd sa sb) s = execXor sd sa sb s := rfl
@[simp] theorem exec_sll sd sa sb : exec (.sll sd sa sb) s = execSll sd sa sb s := rfl
@[simp] theorem exec_srl sd sa sb : exec (.srl sd sa sb) s = execSrl sd sa sb s := rfl
@[simp] theorem exec_sra sd sa sb : exec (.sra sd sa sb) s = execSra sd sa sb s := rfl
@[simp] theorem exec_slt sd sa sb : exec (.slt sd sa sb) s = execSlt sd sa sb s := rfl
@[simp] theorem exec_sltu sd sa sb : exec (.sltu sd sa sb) s = execSltu sd sa sb s := rfl
@[simp] theorem exec_min sd sa sb : exec (.min sd sa sb) s = execMin sd sa sb s := rfl
@[simp] theorem exec_max sd sa sb : exec (.max sd sa sb) s = execMax sd sa sb s := rfl
@[simp] theorem exec_mul sd sa sb : exec (.mul sd sa sb) s = execMul sd sa sb s := rfl
@[simp] theorem exec_mulh sd sa sb : exec (.mulh sd sa sb) s = execMulh sd sa sb s := rfl
@[simp] theorem exec_mulhu sd sa sb : exec (.mulhu sd sa sb) s = execMulhu sd sa sb s := rfl
@[simp] theorem exec_div sd sa sb : exec (.div sd sa sb) s = execDiv sd sa sb s := rfl
@[simp] theorem exec_divu sd sa sb : exec (.divu sd sa sb) s = execDivu sd sa sb s := rfl
@[simp] theorem exec_rem sd sa sb : exec (.rem sd sa sb) s = execRem sd sa sb s := rfl
@[simp] theorem exec_remu sd sa sb : exec (.remu sd sa sb) s = execRemu sd sa sb s := rfl
@[simp] theorem exec_clz sd sa : exec (.clz sd sa) s = execClz sd sa s := rfl
@[simp] theorem exec_ctz sd sa : exec (.ctz sd sa) s = execCtz sd sa s := rfl
@[simp] theorem exec_popc sd sa : exec (.popc sd sa) s = execPopc sd sa s := rfl
@[simp] theorem exec_sel sd sa sb sc : exec (.sel sd sa sb sc) s = execSel sd sa sb sc s := rfl
@[simp] theorem exec_addi sd sa imm : exec (.addi sd sa imm) s = execAddi sd sa imm s := rfl
@[simp] theorem exec_andi sd sa imm : exec (.andi sd sa imm) s = execAndi sd sa imm s := rfl
@[simp] theorem exec_ori sd sa imm : exec (.ori sd sa imm) s = execOri sd sa imm s := rfl
@[simp] theorem exec_xori sd sa imm : exec (.xori sd sa imm) s = execXori sd sa imm s := rfl
@[simp] theorem exec_slti sd sa imm : exec (.slti sd sa imm) s = execSlti sd sa imm s := rfl
@[simp] theorem exec_slli sd sa amt : exec (.slli sd sa amt) s = execSlli sd sa amt s := rfl
@[simp] theorem exec_srli sd sa amt : exec (.srli sd sa amt) s = execSrli sd sa amt s := rfl
@[simp] theorem exec_srai sd sa amt : exec (.srai sd sa amt) s = execSrai sd sa amt s := rfl
@[simp] theorem exec_lui sd imm : exec (.lui sd imm) s = execLui sd imm s := rfl
@[simp] theorem exec_auipc sd imm : exec (.auipc sd imm) s = execAuipc sd imm s := rfl
@[simp] theorem exec_ldB sd sa imm : exec (.ldB sd sa imm) s = execLdB sd sa imm s := rfl
@[simp] theorem exec_ldH sd sa imm : exec (.ldH sd sa imm) s = execLdH sd sa imm s := rfl
@[simp] theorem exec_ldW sd sa imm : exec (.ldW sd sa imm) s = execLdW sd sa imm s := rfl
@[simp] theorem exec_ldD sd sa imm : exec (.ldD sd sa imm) s = execLdD sd sa imm s := rfl
@[simp] theorem exec_ldBU sd sa imm : exec (.ldBU sd sa imm) s = execLdBU sd sa imm s := rfl
@[simp] theorem exec_ldHU sd sa imm : exec (.ldHU sd sa imm) s = execLdHU sd sa imm s := rfl
@[simp] theorem exec_ldWU sd sa imm : exec (.ldWU sd sa imm) s = execLdWU sd sa imm s := rfl
@[simp] theorem exec_ldh sd sa off acq : exec (.ldh sd sa off acq) s = execLdh sd sa off acq s := rfl
@[simp] theorem exec_stB sb sa imm : exec (.stB sb sa imm) s = execStB sb sa imm s := rfl
@[simp] theorem exec_stH sb sa imm : exec (.stH sb sa imm) s = execStH sb sa imm s := rfl
@[simp] theorem exec_stW sb sa imm : exec (.stW sb sa imm) s = execStW sb sa imm s := rfl
@[simp] theorem exec_stD sb sa imm : exec (.stD sb sa imm) s = execStD sb sa imm s := rfl
@[simp] theorem exec_ldsd sd sa imm : exec (.ldsd sd sa imm) s = execLdsd sd sa imm s := rfl
@[simp] theorem exec_stsd sb sa imm : exec (.stsd sb sa imm) s = execStsd sb sa imm s := rfl
@[simp] theorem exec_amo op dbl ord sd sa sb : exec (.amo op dbl ord sd sa sb) s = execAmo op dbl ord sd sa sb s := rfl
@[simp] theorem exec_amoCas dbl ord sd sa sb sc : exec (.amoCas dbl ord sd sa sb sc) s = execAmoCas dbl ord sd sa sb sc s := rfl
@[simp] theorem exec_beq sa sb imm : exec (.beq sa sb imm) s = execBeq sa sb imm s := rfl
@[simp] theorem exec_bne sa sb imm : exec (.bne sa sb imm) s = execBne sa sb imm s := rfl
@[simp] theorem exec_blt sa sb imm : exec (.blt sa sb imm) s = execBlt sa sb imm s := rfl
@[simp] theorem exec_bge sa sb imm : exec (.bge sa sb imm) s = execBge sa sb imm s := rfl
@[simp] theorem exec_bltu sa sb imm : exec (.bltu sa sb imm) s = execBltu sa sb imm s := rfl
@[simp] theorem exec_bgeu sa sb imm : exec (.bgeu sa sb imm) s = execBgeu sa sb imm s := rfl
@[simp] theorem exec_jal sd imm : exec (.jal sd imm) s = execJal sd imm s := rfl
@[simp] theorem exec_jalr sd sa imm : exec (.jalr sd sa imm) s = execJalr sd sa imm s := rfl
@[simp] theorem exec_vbany p imm : exec (.vbany p imm) s = execVbany p imm s := rfl
@[simp] theorem exec_vbnone p imm : exec (.vbnone p imm) s = execVbnone p imm s := rfl
@[simp] theorem exec_vbrf p imm : exec (.vbrf p imm) s = execVbrf p imm s := rfl
@[simp] theorem exec_frgpop : exec .frgpop s = execFrgpop s := rfl
@[simp] theorem exec_fadd dbl r sd sa sb : exec (.fadd dbl r sd sa sb) s = execFadd dbl r sd sa sb s := rfl
@[simp] theorem exec_fsub dbl r sd sa sb : exec (.fsub dbl r sd sa sb) s = execFsub dbl r sd sa sb s := rfl
@[simp] theorem exec_fmul dbl r sd sa sb : exec (.fmul dbl r sd sa sb) s = execFmul dbl r sd sa sb s := rfl
@[simp] theorem exec_fdiv dbl r sd sa sb : exec (.fdiv dbl r sd sa sb) s = execFdiv dbl r sd sa sb s := rfl
@[simp] theorem exec_fsqrt dbl r sd sa : exec (.fsqrt dbl r sd sa) s = execFsqrt dbl r sd sa s := rfl
@[simp] theorem exec_fmin dbl sd sa sb : exec (.fmin dbl sd sa sb) s = execFmin dbl sd sa sb s := rfl
@[simp] theorem exec_fmax dbl sd sa sb : exec (.fmax dbl sd sa sb) s = execFmax dbl sd sa sb s := rfl
@[simp] theorem exec_fcmp c dbl sd sa sb : exec (.fcmp c dbl sd sa sb) s = execFcmp c dbl sd sa sb s := rfl
@[simp] theorem exec_fcvt dst src r sd sa : exec (.fcvt dst src r sd sa) s = execFcvt dst src r sd sa s := rfl
@[simp] theorem exec_ffma dbl r sd sa sb sc : exec (.ffma dbl r sd sa sb sc) s = execFfma dbl r sd sa sb sc s := rfl
@[simp] theorem exec_pub sc : exec (.pub sc) s = execPub sc s := rfl
@[simp] theorem exec_acq k sa sb : exec (.acq k sa sb) s = execAcq k sa sb s := rfl
@[simp] theorem exec_pubacq sc k sa sb : exec (.pubacq sc k sa sb) s = execPubacq sc k sa sb s := rfl
@[simp] theorem exec_bar : exec .bar s = execBar s := rfl
@[simp] theorem exec_fence : exec .fence s = execFence s := rfl
@[simp] theorem exec_launch sa : exec (.launch sa) s = execLaunch sa s := rfl
@[simp] theorem exec_wnext sd : exec (.wnext sd) s = execWnext sd s := rfl
@[simp] theorem exec_wsplit sd : exec (.wsplit sd) s = execWsplit sd s := rfl
@[simp] theorem exec_wdone : exec .wdone s = execWdone s := rfl
@[simp] theorem exec_ctwait sd sa sb : exec (.ctwait sd sa sb) s = execCtwait sd sa sb s := rfl
@[simp] theorem exec_ctinc sd sa sb : exec (.ctinc sd sa sb) s = execCtinc sd sa sb s := rfl
@[simp] theorem exec_npbegin : exec .npbegin s = execNpbegin s := rfl
@[simp] theorem exec_npend : exec .npend s = execNpend s := rfl
@[simp] theorem exec_yield : exec .yield s = execYield s := rfl
@[simp] theorem exec_exit : exec .exit s = execExit s := rfl
@[simp] theorem exec_csrr sd csr : exec (.csrr sd csr) s = execCsrr sd csr s := rfl
@[simp] theorem exec_csrw sd csr sa : exec (.csrw sd csr sa) s = execCsrw sd csr sa s := rfl
@[simp] theorem exec_csrs sd csr sa : exec (.csrs sd csr sa) s = execCsrs sd csr sa s := rfl
@[simp] theorem exec_csrc sd csr sa : exec (.csrc sd csr sa) s = execCsrc sd csr sa s := rfl
@[simp] theorem exec_tret : exec .tret s = execTret s := rfl
@[simp] theorem exec_evwait sd sa : exec (.evwait sd sa) s = execEvwait sd sa s := rfl
@[simp] theorem exec_halt : exec .halt s = execHalt s := rfl
@[simp] theorem exec_ptinv sa : exec (.ptinv sa) s = execPtinv sa s := rfl
@[simp] theorem exec_capfence sd sa : exec (.capfence sd sa) s = execCapfence sd sa s := rfl
@[simp] theorem exec_captest sd sa : exec (.captest sd sa) s = execCaptest sd sa s := rfl
@[simp] theorem exec_bbox sa sb : exec (.bbox sa sb) s = execBbox sa sb s := rfl
@[simp] theorem exec_tstamp sd : exec (.tstamp sd) s = execTstamp sd s := rfl
@[simp] theorem exec_trap imm : exec (.trap imm) s = execTrap imm s := rfl
@[simp] theorem exec_vsetl sd sa tag c : exec (.vsetl sd sa tag c) s = execVsetl sd sa tag c s := rfl
@[simp] theorem exec_vsetlG sd sa tag c : exec (.vsetlG sd sa tag c) s = execVsetlG sd sa tag c s := rfl
@[simp] theorem exec_mxon : exec .mxon s = execMxon s := rfl
@[simp] theorem exec_mxoff : exec .mxoff s = execMxoff s := rfl
@[simp] theorem exec_illegalWord tval : exec (.illegalWord tval) s = execIllegalWord tval s := rfl
@[simp] theorem exec_vadd g vd va b sat r : exec (.vadd g vd va b sat r) s = execVadd g vd va b sat r s := rfl
@[simp] theorem exec_vsub g vd va b sat r : exec (.vsub g vd va b sat r) s = execVsub g vd va b sat r s := rfl
@[simp] theorem exec_vmul g vd va b sat r : exec (.vmul g vd va b sat r) s = execVmul g vd va b sat r s := rfl
@[simp] theorem exec_vmulh g vd va b : exec (.vmulh g vd va b) s = execVmulh g vd va b s := rfl
@[simp] theorem exec_vfma g vd va vb vc sat r : exec (.vfma g vd va vb vc sat r) s = execVfma g vd va vb vc sat r s := rfl
@[simp] theorem exec_vfms g vd va vb vc sat r : exec (.vfms g vd va vb vc sat r) s = execVfms g vd va vb vc sat r s := rfl
@[simp] theorem exec_vnfma g vd va vb vc sat r : exec (.vnfma g vd va vb vc sat r) s = execVnfma g vd va vb vc sat r s := rfl
@[simp] theorem exec_vdiv g vd va b sat r : exec (.vdiv g vd va b sat r) s = execVdiv g vd va b sat r s := rfl
@[simp] theorem exec_vsqrt g vd va r : exec (.vsqrt g vd va r) s = execVsqrt g vd va r s := rfl
@[simp] theorem exec_vrcp g vd va r : exec (.vrcp g vd va r) s = execVrcp g vd va r s := rfl
@[simp] theorem exec_vrsq g vd va r : exec (.vrsq g vd va r) s = execVrsq g vd va r s := rfl
@[simp] theorem exec_vexp2 g vd va r : exec (.vexp2 g vd va r) s = execVexp2 g vd va r s := rfl
@[simp] theorem exec_vlog2 g vd va r : exec (.vlog2 g vd va r) s = execVlog2 g vd va r s := rfl
@[simp] theorem exec_vtanh g vd va r : exec (.vtanh g vd va r) s = execVtanh g vd va r s := rfl
@[simp] theorem exec_vmin g vd va b : exec (.vmin g vd va b) s = execVmin g vd va b s := rfl
@[simp] theorem exec_vmax g vd va b : exec (.vmax g vd va b) s = execVmax g vd va b s := rfl
@[simp] theorem exec_vabs g vd va sat : exec (.vabs g vd va sat) s = execVabs g vd va sat s := rfl
@[simp] theorem exec_vneg g vd va sat : exec (.vneg g vd va sat) s = execVneg g vd va sat s := rfl
@[simp] theorem exec_vand g vd va b : exec (.vand g vd va b) s = execVand g vd va b s := rfl
@[simp] theorem exec_vor g vd va b : exec (.vor g vd va b) s = execVor g vd va b s := rfl
@[simp] theorem exec_vxor g vd va b : exec (.vxor g vd va b) s = execVxor g vd va b s := rfl
@[simp] theorem exec_vnot g vd va : exec (.vnot g vd va) s = execVnot g vd va s := rfl
@[simp] theorem exec_vshl g vd va b sat : exec (.vshl g vd va b sat) s = execVshl g vd va b sat s := rfl
@[simp] theorem exec_vshr g vd va b : exec (.vshr g vd va b) s = execVshr g vd va b s := rfl
@[simp] theorem exec_vrot g vd va b right : exec (.vrot g vd va b right) s = execVrot g vd va b right s := rfl
@[simp] theorem exec_vclz g vd va : exec (.vclz g vd va) s = execVclz g vd va s := rfl
@[simp] theorem exec_vpopc g vd va : exec (.vpopc g vd va) s = execVpopc g vd va s := rfl
@[simp] theorem exec_vclmul g vd va b hi : exec (.vclmul g vd va b hi) s = execVclmul g vd va b hi s := rfl
@[simp] theorem exec_vcmp g pd va b c : exec (.vcmp g pd va b c) s = execVcmp g pd va b c s := rfl
@[simp] theorem exec_vsel g vd va vb pc : exec (.vsel g vd va vb pc) s = execVsel g vd va vb pc s := rfl
@[simp] theorem exec_vcvt g vd va d sat r : exec (.vcvt g vd va d sat r) s = execVcvt g vd va d sat r s := rfl
@[simp] theorem exec_vscale g vd va b r : exec (.vscale g vd va b r) s = execVscale g vd va b r s := rfl
@[simp] theorem exec_vqnt g vd va d r : exec (.vqnt g vd va d r) s = execVqnt g vd va d r s := rfl
@[simp] theorem exec_vmov g vd va : exec (.vmov g vd va) s = execVmov g vd va s := rfl
@[simp] theorem exec_vsplat g vd ss d : exec (.vsplat g vd ss d) s = execVsplat g vd ss d s := rfl
@[simp] theorem exec_viota g vd ss d sat : exec (.viota g vd ss d sat) s = execViota g vd ss d sat s := rfl
@[simp] theorem exec_vtag vd t : exec (.vtag vd t) s = execVtag vd t s := rfl
@[simp] theorem exec_vtagq sd va : exec (.vtagq sd va) s = execVtagq sd va s := rfl
@[simp] theorem exec_psetc g pd ss : exec (.psetc g pd ss) s = execPsetc g pd ss s := rfl
@[simp] theorem exec_pand g pd pa pb : exec (.pand g pd pa pb) s = execPand g pd pa pb s := rfl
@[simp] theorem exec_por g pd pa pb : exec (.por g pd pa pb) s = execPor g pd pa pb s := rfl
@[simp] theorem exec_pxor g pd pa pb : exec (.pxor g pd pa pb) s = execPxor g pd pa pb s := rfl
@[simp] theorem exec_pnot g pd pa : exec (.pnot g pd pa) s = execPnot g pd pa s := rfl
@[simp] theorem exec_pandn g pd pa pb : exec (.pandn g pd pa pb) s = execPandn g pd pa pb s := rfl
@[simp] theorem exec_ppack vd pa h : exec (.ppack vd pa h) s = execPpack vd pa h s := rfl
@[simp] theorem exec_punpack pd va h : exec (.punpack pd va h) s = execPunpack pd va h s := rfl
@[simp] theorem exec_pmovs sd pa sk : exec (.pmovs sd pa sk) s = execPmovs sd pa sk s := rfl
@[simp] theorem exec_vperm g vd va vb keep : exec (.vperm g vd va vb keep) s = execVperm g vd va vb keep s := rfl
@[simp] theorem exec_vput g vd va vb px : exec (.vput g vd va vb px) s = execVput g vd va vb px s := rfl
@[simp] theorem exec_vslu g vd va sk keep : exec (.vslu g vd va sk keep) s = execVslu g vd va sk keep s := rfl
@[simp] theorem exec_vsld g vd va sk keep : exec (.vsld g vd va sk keep) s = execVsld g vd va sk keep s := rfl
@[simp] theorem exec_vcomp g vd va sd : exec (.vcomp g vd va sd) s = execVcomp g vd va sd s := rfl
@[simp] theorem exec_vexpd g vd va : exec (.vexpd g vd va) s = execVexpd g vd va s := rfl
@[simp] theorem exec_vred g op ord sat r vd va vb sd : exec (.vred g op ord sat r vd va vb sd) s = execVred g op ord sat r vd va vb sd s := rfl
@[simp] theorem exec_vscan g op ex sat r vd va : exec (.vscan g op ex sat r vd va) s = execVscan g op ex sat r vd va s := rfl
@[simp] theorem exec_vconf g pd va sd : exec (.vconf g pd va sd) s = execVconf g pd va sd s := rfl
@[simp] theorem exec_vzip g vd va vb hi keep : exec (.vzip g vd va vb hi keep) s = execVzip g vd va vb hi keep s := rfl
@[simp] theorem exec_vunzip g vd va vb odd keep : exec (.vunzip g vd va vb odd keep) s = execVunzip g vd va vb odd keep s := rfl
@[simp] theorem exec_vbcast g vd va sk keep : exec (.vbcast g vd va sk keep) s = execVbcast g vd va sk keep s := rfl
@[simp] theorem exec_vexts g sd va sk keep : exec (.vexts g sd va sk keep) s = execVexts g sd va sk keep s := rfl
@[simp] theorem exec_vinss g vd ss sk : exec (.vinss g vd ss sk) s = execVinss g vd ss sk s := rfl
@[simp] theorem exec_plead g sd pa : exec (.plead g sd pa) s = execPlead g sd pa s := rfl
@[simp] theorem exec_pnum g sd pa : exec (.pnum g sd pa) s = execPnum g sd pa s := rfl
@[simp] theorem exec_vld g vd off sb ssc ff ck : exec (.vld g vd off sb ssc ff ck) s = execVld g vd off sb ssc ff ck s := rfl
@[simp] theorem exec_vlds g vd off sb st ff ck : exec (.vlds g vd off sb st ff ck) s = execVlds g vd off sb st ff ck s := rfl
@[simp] theorem exec_vldx g vd off sb vi ff ck : exec (.vldx g vd off sb vi ff ck) s = execVldx g vd off sb vi ff ck s := rfl
@[simp] theorem exec_vst g va off sb ssc : exec (.vst g va off sb ssc) s = execVst g va off sb ssc s := rfl
@[simp] theorem exec_vsts g va off sb st : exec (.vsts g va off sb st) s = execVsts g va off sb st s := rfl
@[simp] theorem exec_vstx g va off sb vi : exec (.vstx g va off sb vi) s = execVstx g va off sb vi s := rfl
@[simp] theorem exec_vlsx g vd off sb vi : exec (.vlsx g vd off sb vi) s = execVlsx g vd off sb vi s := rfl
@[simp] theorem exec_vssx g va off sb vi : exec (.vssx g va off sb vi) s = execVssx g va off sb vi s := rfl
@[simp] theorem exec_vldh g vd off sb vi acq : exec (.vldh g vd off sb vi acq) s = execVldh g vd off sb vi acq s := rfl
@[simp] theorem exec_vpf off sb sn : exec (.vpf off sb sn) s = execVpf off sb sn s := rfl
@[simp] theorem exec_vamo g op ord va off sb vi : exec (.vamo g op ord va off sb vi) s = execVamo g op ord va off sb vi s := rfl
@[simp] theorem exec_tshape sd sm sn sk f : exec (.tshape sd sm sn sk f) s = execTshape sd sm sn sk f s := rfl
@[simp] theorem exec_mma g acc va vb : exec (.mma g acc va vb) s = execMma g acc va vb s := rfl
@[simp] theorem exec_mmas g acc va vb : exec (.mmas g acc va vb) s = execMmas g acc va vb s := rfl
@[simp] theorem exec_mxzero acc : exec (.mxzero acc) s = execMxzero acc s := rfl
@[simp] theorem exec_mxext g vd acc sr d int sat r : exec (.mxext g vd acc sr d int sat r) s = execMxext g vd acc sr d int sat r s := rfl
@[simp] theorem exec_mxins g acc va sr : exec (.mxins g acc va sr) s = execMxins g acc va sr s := rfl
@[simp] theorem exec_mxpert sa : exec (.mxpert sa) s = execMxpert sa s := rfl
@[simp] theorem exec_bsetl sd sa : exec (.bsetl sd sa) s = execBsetl sd sa s := rfl
@[simp] theorem exec_balloc sa sb : exec (.balloc sa sb) s = execBalloc sa sb s := rfl
@[simp] theorem exec_bplane bd sa : exec (.bplane bd sa) s = execBplane bd sa s := rfl
@[simp] theorem exec_brlk sa sb sc : exec (.brlk sa sb sc) s = execBrlk sa sb sc s := rfl
@[simp] theorem exec_brul sa sb : exec (.brul sa sb) s = execBrul sa sb s := rfl
@[simp] theorem exec_bldp bd sa sb sgn sat : exec (.bldp bd sa sb sgn sat) s = execBldp bd sa sb sgn sat s := rfl
@[simp] theorem exec_bstp ba sa sb sgn : exec (.bstp ba sa sb sgn) s = execBstp ba sa sb sgn s := rfl
@[simp] theorem exec_btov vd ba sk sgn : exec (.btov vd ba sk sgn) s = execBtov vd ba sk sgn s := rfl
@[simp] theorem exec_vtob bd va sk sgn sat : exec (.vtob bd va sk sgn sat) s = execVtob bd va sk sgn sat s := rfl
@[simp] theorem exec_bnot bd ba : exec (.bnot bd ba) s = execBnot bd ba s := rfl
@[simp] theorem exec_band bd ba bb : exec (.band bd ba bb) s = execBand bd ba bb s := rfl
@[simp] theorem exec_bor bd ba bb : exec (.bor bd ba bb) s = execBor bd ba bb s := rfl
@[simp] theorem exec_bxor bd ba bb : exec (.bxor bd ba bb) s = execBxor bd ba bb s := rfl
@[simp] theorem exec_bmaj bd ba bb bc : exec (.bmaj bd ba bb bc) s = execBmaj bd ba bb bc s := rfl
@[simp] theorem exec_badd bd ba bb sgn sat : exec (.badd bd ba bb sgn sat) s = execBadd bd ba bb sgn sat s := rfl
@[simp] theorem exec_bsub bd ba bb sgn sat : exec (.bsub bd ba bb sgn sat) s = execBsub bd ba bb sgn sat s := rfl
@[simp] theorem exec_bmulc bd ba sc sgn : exec (.bmulc bd ba sc sgn) s = execBmulc bd ba sc sgn s := rfl
@[simp] theorem exec_bmac bd ba bb sgn : exec (.bmac bd ba bb sgn) s = execBmac bd ba bb sgn s := rfl
@[simp] theorem exec_bmact bd bt sx sgn : exec (.bmact bd bt sx sgn) s = execBmact bd bt sx sgn s := rfl
@[simp] theorem exec_bcmp bd ba bb c sgn : exec (.bcmp bd ba bb c sgn) s = execBcmp bd ba bb c sgn s := rfl
@[simp] theorem exec_bsel bd ba bb bc : exec (.bsel bd ba bb bc) s = execBsel bd ba bb bc s := rfl
@[simp] theorem exec_bshl bd ba k col : exec (.bshl bd ba k col) s = execBshl bd ba k col s := rfl
@[simp] theorem exec_bshr bd ba k col sgn : exec (.bshr bd ba k col sgn) s = execBshr bd ba k col sgn s := rfl
@[simp] theorem exec_bred sd ba : exec (.bred sd ba) s = execBred sd ba s := rfl
@[simp] theorem exec_bseal ba : exec (.bseal ba) s = execBseal ba s := rfl
@[simp] theorem exec_bnext sa : exec (.bnext sa) s = execBnext sa s := rfl
@[simp] theorem exec_bwait sd : exec (.bwait sd) s = execBwait sd s := rfl
@[simp] theorem exec_cpy k sdst ssrc slen c pk : exec (.cpy k sdst ssrc slen c pk) s = execCpy k sdst ssrc slen c pk s := rfl
@[simp] theorem exec_cpy2d k sdst ssrc slen c srows sstr pk : exec (.cpy2d k sdst ssrc slen c srows sstr pk) s = execCpy2d k sdst ssrc slen c srows sstr pk s := rfl
@[simp] theorem exec_cpyd k sdst ssrc slen snonce sidx pk : exec (.cpyd k sdst ssrc slen snonce sidx pk) s = execCpyd k sdst ssrc slen snonce sidx pk s := rfl
@[simp] theorem exec_cpye k sdst ssrc slen c srem pk : exec (.cpye k sdst ssrc slen c srem pk) s = execCpye k sdst ssrc slen c srem pk s := rfl
@[simp] theorem exec_ckey k ssrc sslot : exec (.ckey k ssrc sslot) s = execCkey k ssrc sslot s := rfl
@[simp] theorem exec_cwait sd smask : exec (.cwait sd smask) s = execCwait sd smask s := rfl
@[simp] theorem exec_cstat sd k word : exec (.cstat sd k word) s = execCstat sd k word s := rfl
@[simp] theorem exec_convoyRetire : exec .convoyRetire s = execConvoyRetire s := rfl
@[simp] theorem exec_coreResetEnd core : exec (.coreResetEnd core) s = execCoreResetEnd core s := rfl
@[simp] theorem exec_asyncTrap : exec .asyncTrap s = execAsyncTrap s := rfl
@[simp] theorem exec_overrunFault h : exec (.overrunFault h) s = execOverrunFault h s := rfl
@[simp] theorem exec_vbranchResolve h : exec (.vbranchResolve h) s = execVbranchResolve h s := rfl
@[simp] theorem exec_preemptRequest h replace : exec (.preemptRequest h replace) s = execPreemptRequest h replace s := rfl
@[simp] theorem exec_preemptAccept h : exec (.preemptAccept h) s = execPreemptAccept h s := rfl
@[simp] theorem exec_drainComplete h : exec (.drainComplete h) s = execDrainComplete h s := rfl
@[simp] theorem exec_saveComplete h : exec (.saveComplete h) s = execSaveComplete h s := rfl
@[simp] theorem exec_resume h core slot : exec (.resume h core slot) s = execResume h core slot s := rfl
@[simp] theorem exec_thermalMigration h core : exec (.thermalMigration h core) s = execThermalMigration h core s := rfl
@[simp] theorem exec_placement stk w : exec (.placement stk w) s = execPlacement stk w s := rfl
@[simp] theorem exec_logSpaceFreed h : exec (.logSpaceFreed h) s = execLogSpaceFreed h s := rfl
@[simp] theorem exec_pinDrop core slot sector : exec (.pinDrop core slot sector) s = execPinDrop core slot sector s := rfl
@[simp] theorem exec_memoryReply core sector : exec (.memoryReply core sector) s = execMemoryReply core sector s := rfl
@[simp] theorem exec_homeOpResult h : exec (.homeOpResult h) s = execHomeOpResult h s := rfl
@[simp] theorem exec_mergeBeacon stk : exec (.mergeBeacon stk) s = execMergeBeacon stk s := rfl
@[simp] theorem exec_mergeBeaconReceive stk src f a : exec (.mergeBeaconReceive stk src f a) s = execMergeBeaconReceive stk src f a s := rfl
@[simp] theorem exec_mergeBeaconOverdue stk src : exec (.mergeBeaconOverdue stk src) s = execMergeBeaconOverdue stk src s := rfl
@[simp] theorem exec_mergeApply stk : exec (.mergeApply stk) s = execMergeApply stk s := rfl
@[simp] theorem exec_compaction log : exec (.compaction log) s = execCompaction log s := rfl
@[simp] theorem exec_mergeQueueResend stk : exec (.mergeQueueResend stk) s = execMergeQueueResend stk s := rfl
@[simp] theorem exec_copyChunkStart core : exec (.copyChunkStart core) s = execCopyChunkStart core s := rfl
@[simp] theorem exec_copyChunkComplete core : exec (.copyChunkComplete core) s = execCopyChunkComplete core s := rfl
@[simp] theorem exec_ckeyApply stk : exec (.ckeyApply stk) s = execCkeyApply stk s := rfl
@[simp] theorem exec_launchCut stk idx : exec (.launchCut stk idx) s = execLaunchCut stk idx s := rfl
@[simp] theorem exec_launchDone stk idx : exec (.launchDone stk idx) s = execLaunchDone stk idx s := rfl
@[simp] theorem exec_idleSplit core : exec (.idleSplit core) s = execIdleSplit core s := rfl
@[simp] theorem exec_splitRequest stk src w : exec (.splitRequest stk src w) s = execSplitRequest stk src w s := rfl
@[simp] theorem exec_splitReply stk : exec (.splitReply stk) s = execSplitReply stk s := rfl
@[simp] theorem exec_instanceRestore stk n : exec (.instanceRestore stk n) s = execInstanceRestore stk n s := rfl
@[simp] theorem exec_instanceSpent stk w : exec (.instanceSpent stk w) s = execInstanceSpent stk w s := rfl
@[simp] theorem exec_evwaitTimeout h : exec (.evwaitTimeout h) s = execEvwaitTimeout h s := rfl
@[simp] theorem exec_infieldTestDue core : exec (.infieldTestDue core) s = execInfieldTestDue core s := rfl
@[simp] theorem exec_infieldTestEnd core failed : exec (.infieldTestEnd core failed) s = execInfieldTestEnd core failed s := rfl
@[simp] theorem exec_infieldTestDeadline core : exec (.infieldTestDeadline core) s = execInfieldTestDeadline core s := rfl
@[simp] theorem exec_bankMicroprogramStart stk die : exec (.bankMicroprogramStart stk die) s = execBankMicroprogramStart stk die s := rfl
@[simp] theorem exec_bankCompletion stk die e : exec (.bankCompletion stk die e) s = execBankCompletion stk die e s := rfl
@[simp] theorem exec_refreshSlot stk die : exec (.refreshSlot stk die) s = execRefreshSlot stk die s := rfl
@[simp] theorem exec_dramSensorRead stk : exec (.dramSensorRead stk) s = execDramSensorRead stk s := rfl
@[simp] theorem exec_rowLockEffective stk n : exec (.rowLockEffective stk n) s = execRowLockEffective stk n s := rfl
@[simp] theorem exec_rowRelease stk n : exec (.rowRelease stk n) s = execRowRelease stk n s := rfl
@[simp] theorem exec_leaseExpiry stk n : exec (.leaseExpiry stk n) s = execLeaseExpiry stk n s := rfl
@[simp] theorem exec_bcpWatchdogReset stk die : exec (.bcpWatchdogReset stk die) s = execBcpWatchdogReset stk die s := rfl
@[simp] theorem exec_bcpResetEnd stk : exec (.bcpResetEnd stk) s = execBcpResetEnd stk s := rfl
@[simp] theorem exec_residencyCommand stk v : exec (.residencyCommand stk v) s = execResidencyCommand stk v s := rfl
@[simp] theorem exec_residencyDone stk : exec (.residencyDone stk) s = execResidencyDone stk s := rfl
@[simp] theorem exec_timeBeacon : exec .timeBeacon s = execTimeBeacon s := rfl
@[simp] theorem exec_timeBeaconReceive stk t : exec (.timeBeaconReceive stk t) s = execTimeBeaconReceive stk t s := rfl
@[simp] theorem exec_timeBeaconOverdue stk : exec (.timeBeaconOverdue stk) s = execTimeBeaconOverdue stk s := rfl
@[simp] theorem exec_pfbFreeze stk cause detail : exec (.pfbFreeze stk cause detail) s = execPfbFreeze stk cause detail s := rfl
@[simp] theorem exec_freezeMessage stk cause detail : exec (.freezeMessage stk cause detail) s = execFreezeMessage stk cause detail s := rfl
@[simp] theorem exec_serviceControlWrite stk off v : exec (.serviceControlWrite stk off v) s = execServiceControlWrite stk off v s := rfl
@[simp] theorem exec_capmaskWrite stk c v : exec (.capmaskWrite stk c v) s = execCapmaskWrite stk c v s := rfl
@[simp] theorem exec_firmwareCapmaskWrite stk c v : exec (.firmwareCapmaskWrite stk c v) s = execFirmwareCapmaskWrite stk c v s := rfl
@[simp] theorem exec_haltRelease stk c v : exec (.haltRelease stk c v) s = execHaltRelease stk c v s := rfl
@[simp] theorem exec_stackPtinv stk v : exec (.stackPtinv stk v) s = execStackPtinv stk v s := rfl
@[simp] theorem exec_pfbClearFrozen stk : exec (.pfbClearFrozen stk) s = execPfbClearFrozen stk s := rfl
@[simp] theorem exec_keyWrapKeyWrite stk v : exec (.keyWrapKeyWrite stk v) s = execKeyWrapKeyWrite stk v s := rfl
@[simp] theorem exec_channelBindingWrite stk n v : exec (.channelBindingWrite stk n v) s = execChannelBindingWrite stk n v s := rfl
@[simp] theorem exec_counterClear stk off : exec (.counterClear stk off) s = execCounterClear stk off s := rfl
@[simp] theorem exec_hostWrite port dom pa ide bytes : exec (.hostWrite port dom pa ide bytes) s = execHostWrite port dom pa ide bytes s := rfl
@[simp] theorem exec_hostRead port dom pa n ide : exec (.hostRead port dom pa n ide) s = execHostRead port dom pa n ide s := rfl
@[simp] theorem exec_ptmRequest port : exec (.ptmRequest port) s = execPtmRequest port s := rfl
@[simp] theorem exec_tdiLeaveRun d : exec (.tdiLeaveRun d) s = execTdiLeaveRun d s := rfl
@[simp] theorem exec_doorbell stk ch port v : exec (.doorbell stk ch port v) s = execDoorbell stk ch port v s := rfl
@[simp] theorem exec_downLaunchHead stk ch : exec (.downLaunchHead stk ch) s = execDownLaunchHead stk ch s := rfl
@[simp] theorem exec_downLaunchTail stk ch : exec (.downLaunchTail stk ch) s = execDownLaunchTail stk ch s := rfl
@[simp] theorem exec_downCounterAdvance stk ch : exec (.downCounterAdvance stk ch) s = execDownCounterAdvance stk ch s := rfl
@[simp] theorem exec_downNotify stk ch : exec (.downNotify stk ch) s = execDownNotify stk ch s := rfl
@[simp] theorem exec_downResync stk ch : exec (.downResync stk ch) s = execDownResync stk ch s := rfl
@[simp] theorem exec_upMessage stk ch : exec (.upMessage stk ch) s = execUpMessage stk ch s := rfl
@[simp] theorem exec_report stk : exec (.report stk) s = execReport stk s := rfl
@[simp] theorem exec_remoteWrite stk entry off add bytes : exec (.remoteWrite stk entry off add bytes) s = execRemoteWrite stk entry off add bytes s := rfl
@[simp] theorem exec_ethernetFrame peer seq ack bytes : exec (.ethernetFrame peer seq ack bytes) s = execEthernetFrame peer seq ack bytes s := rfl
@[simp] theorem exec_frameResend peer : exec (.frameResend peer) s = execFrameResend peer s := rfl
@[simp] theorem exec_connectionFail peer : exec (.connectionFail peer) s = execConnectionFail peer s := rfl
@[simp] theorem exec_flitReplay stk edge m crc : exec (.flitReplay stk edge m crc) s = execFlitReplay stk edge m crc s := rfl
@[simp] theorem exec_linkPause stk edge m : exec (.linkPause stk edge m) s = execLinkPause stk edge m s := rfl
@[simp] theorem exec_linkUnpause stk edge m : exec (.linkUnpause stk edge m) s = execLinkUnpause stk edge m s := rfl
@[simp] theorem exec_linkRetrain stk edge m : exec (.linkRetrain stk edge m) s = execLinkRetrain stk edge m s := rfl
@[simp] theorem exec_linkRetrainEnd stk edge m : exec (.linkRetrainEnd stk edge m) s = execLinkRetrainEnd stk edge m s := rfl
@[simp] theorem exec_linkClearRetry stk edge m : exec (.linkClearRetry stk edge m) s = execLinkClearRetry stk edge m s := rfl
@[simp] theorem exec_linkInjectArm stk edge m v : exec (.linkInjectArm stk edge m v) s = execLinkInjectArm stk edge m v s := rfl
@[simp] theorem exec_linkInjectFire stk edge m : exec (.linkInjectFire stk edge m) s = execLinkInjectFire stk edge m s := rfl
@[simp] theorem exec_linkWindowEnd stk edge m : exec (.linkWindowEnd stk edge m) s = execLinkWindowEnd stk edge m s := rfl
@[simp] theorem exec_powerSample stk mw : exec (.powerSample stk mw) s = execPowerSample stk mw s := rfl
@[simp] theorem exec_thermalAlert stk die t : exec (.thermalAlert stk die t) s = execThermalAlert stk die t s := rfl
@[simp] theorem exec_thermalShutdown : exec .thermalShutdown s = execThermalShutdown s := rfl
@[simp] theorem exec_coldReset : exec .coldReset s = execColdReset s := rfl
@[simp] theorem exec_warmReset : exec .warmReset s = execWarmReset s := rfl
@[simp] theorem exec_perst port low : exec (.perst port low) s = execPerst port low s := rfl
@[simp] theorem exec_firmwareUpdate image : exec (.firmwareUpdate image) s = execFirmwareUpdate image s := rfl
@[simp] theorem exec_raiseFusedMinimum v : exec (.raiseFusedMinimum v) s = execRaiseFusedMinimum v s := rfl
@[simp] theorem exec_pldmFreeze : exec .pldmFreeze s = execPldmFreeze s := rfl
@[simp] theorem exec_pldmColdReset : exec .pldmColdReset s = execPldmColdReset s := rfl
@[simp] theorem exec_pldmWarmReset : exec .pldmWarmReset s = execPldmWarmReset s := rfl
@[simp] theorem exec_readPhotoFinishEntries stk first count : exec (.readPhotoFinishEntries stk first count) s = execReadPhotoFinishEntries stk first count s := rfl
@[simp] theorem exec_readCounterBlock stk off count : exec (.readCounterBlock stk off count) s = execReadCounterBlock stk off count s := rfl
@[simp] theorem exec_clearFrozen stk : exec (.clearFrozen stk) s = execClearFrozen stk s := rfl
@[simp] theorem exec_spdmKeyWrap key : exec (.spdmKeyWrap key) s = execSpdmKeyWrap key s := rfl
@[simp] theorem exec_tick : exec .tick s = execTick s := rfl
@[simp] theorem exec_mergeQueueDelivery stk n : exec (.mergeQueueDelivery stk n) s = execMergeQueueDelivery stk n s := rfl
@[simp] theorem exec_spdmKeyExchange both : exec (.spdmKeyExchange both) s = execSpdmKeyExchange both s := rfl
@[simp] theorem exec_tdiEnterRun d run : exec (.tdiEnterRun d run) s = execTdiEnterRun d run s := rfl

end Sys2Proof.Machine
end

