-- ==== Sys2Proof/Laws/Ops.lean ====
section
/-! SUPPORT. What each shared operation does, said once: the frames of words and members when their checks pass and when
one fails, scalar results, the checks of a member's second stage, and the writing of its result. -/

namespace Sys2Proof.Machine

variable {s : State} {i : Instr}

/-! ## Words -/

/-- A legal word whose checks pass has no guard failure. -/
theorem guardWord_of_admitted (h : WordAdmitted s i) : guardWord s i true = none := by
  obtain ⟨hs, hp, hm, hc⟩ := h
  unfold guardWord
  cases hv : s.hart.service <;> cases hf : (Instr.wordInfo i).service <;> cases hq : (Instr.wordInfo i).priv <;>
    simp_all

/-- A word whose checks pass does what its own execution says. -/
theorem word_of_admitted (h : WordAdmitted s i) (body : State → Res State) :
    word s i body = .next (settleWord s (body s)) := by
  unfold word; rw [guardWord_of_admitted h]

/-- The same for a word with a further condition of legality that holds. -/
theorem word_of_legal (h : WordAdmitted s i) (body : State → Res State) {legal : Bool} (hl : legal = true) :
    word s i body legal = .next (settleWord s (body s)) := by
  subst hl; exact word_of_admitted h body

/-- A word that no form of it makes legal takes the illegal-instruction trap. -/
theorem word_illegal (body : State → Res State) {legal : Bool} (hl : legal = false) :
    word s i body legal = .next (s.takeTrap 0x10 (wordOf i) s.hart.pc) := by
  subst hl; unfold word guardWord; simp

/-- A privileged word at trap level 0 of a compute hart takes a privilege trap. -/
theorem word_privileged (body : State → Res State) (hv : s.hart.service = false) (hp : (Instr.wordInfo i).priv = true)
    (ht : s.hart.tlevel = 0) : word s i body = .next (s.takeTrap 0x11 (wordOf i) s.hart.pc) := by
  unfold word guardWord; simp only [hv, hp, ht]; rfl

/-- A word of the wrong mode takes a mode trap. -/
theorem word_wrongMode (body : State → Res State) (hv : s.hart.service = false) (hp : (Instr.wordInfo i).priv = false)
    (hm : (if s.hart.regs.mode then (Instr.wordInfo i).matrix else (Instr.wordInfo i).vector) = false) :
    word s i body = .next (s.takeTrap 0x12 (wordOf i) s.hart.pc) := by
  unfold word guardWord; simp only [hv, hp, hm]; rfl

/-- A word whose class the use mask lacks takes a use-mask trap. -/
theorem word_unused (body : State → Res State) (hv : s.hart.service = false) (hp : (Instr.wordInfo i).priv = false)
    (hm : (if s.hart.regs.mode then (Instr.wordInfo i).matrix else (Instr.wordInfo i).vector) = true)
    (hu : s.hart.usemask.getLsbD (Instr.wordInfo i).cls = false) :
    word s i body = .next (s.takeTrap 0x13 (BitVec.ofNat 64 (Instr.wordInfo i).cls) s.hart.pc) := by
  unfold word guardWord; simp only [hv, hp, hm, hu]; rfl

/-- A word, not yet under way, whose class CAPMASK lacks takes a capability trap. -/
theorem word_incapable (body : State → Res State) (hv : s.hart.service = false) (hp : (Instr.wordInfo i).priv = false)
    (hm : (if s.hart.regs.mode then (Instr.wordInfo i).matrix else (Instr.wordInfo i).vector) = true)
    (hu : s.hart.usemask.getLsbD (Instr.wordInfo i).cls = true)
    (hw : s.hart.underWay = false) (hc : (s.core s.hart.core).capmask.getLsbD (Instr.wordInfo i).cls = false) :
    word s i body = .next (s.takeTrap 0x14 (BitVec.ofNat 64 (Instr.wordInfo i).cls) s.hart.pc) := by
  unfold word guardWord; simp only [hv, hp, hm, hu, hw, hc]; rfl

/-! ## Scalar results -/

theorem settle_setS (s₀ : State) {sd : SReg} {x : Word} (h : s.belowLimit sd x = false) :
    settleWord s₀ (s.setS sd x) = (s.ws sd x).next := by
  unfold State.setS; simp [h, settleWord]

theorem settle_setS_below {sd : SReg} {x : Word} (h : s.belowLimit sd x = true) :
    settleWord s (s.setS sd x) = s.takeTrap 0x1B x s.hart.pc := by
  unfold State.setS; simp [h, settleWord]

theorem settle_setLate (s₀ : State) {sd : SReg} {x : Word} (h : s.belowLimit sd x = false) :
    settleWord s₀ (s.setLate sd x) = (s.ws sd x).next := by
  unfold State.setLate; simp [h, settleWord]

/-- A word that only writes a scalar register writes it when its checks pass. -/
theorem scalar_of_admitted (h : WordAdmitted s i) {sd : SReg} {f : State → Word} (hb : s.belowLimit sd (f s) = false) :
    scalar s i sd f = .next (s.ws sd (f s)).next := by
  unfold scalar; rw [word_of_admitted h, settle_setS s hb]

theorem scalar_below (h : WordAdmitted s i) {sd : SReg} {f : State → Word} (hb : s.belowLimit sd (f s) = true) :
    scalar s i sd f = .next (s.takeTrap 0x1B (f s) s.hart.pc) := by
  unfold scalar; rw [word_of_admitted h, settle_setS_below hb]

/-! ## Members -/

/-- A member whose checks of stage 1 pass has no failure there. -/
theorem stage1_of_admitted (h : MemberAdmitted s i) (k : Nat) : stage1 s k i = none := by
  obtain ⟨hr, hp, hm, hu, hc⟩ := h
  have hr' : ((Instr.memberInfo i).vregs.any fun r => decide (s.hart.cap ≤ r.toNat)) = false := by
    rw [List.any_eq_false]; intro r hm; have := hr r hm; simp; omega
  have hp' : ((Instr.memberInfo i).priv && decide (s.hart.tlevel = 0)) = false := by
    cases hq : (Instr.memberInfo i).priv <;> simp_all
  have hm' : (!(if s.hart.regs.mode then (Instr.memberInfo i).matrix else (Instr.memberInfo i).vector)) = false := by
    rw [hm]; rfl
  have hc' : (!s.hart.underWay && !(s.core s.hart.core).capmask.getLsbD (Instr.memberInfo i).cls) = false := by
    rcases hc with h | h <;> simp [h]
  unfold stage1
  simp only [hr', hp', hm', hu, hc']
  rfl

/-- A member whose checks of stage 1 pass does what its second stage and execution say. -/
theorem member_of_admitted (h : MemberAdmitted s i) (body : State → Res State) :
    member s i body = .next (settleMember s (body s)) := by
  unfold member; rw [stage1_of_admitted h]

/-- A member whose body succeeds gives its state, the convoy at its next member. -/
theorem member_done (h : MemberAdmitted s i) {body : State → Res State} {u : State} (hb : body s = .ok u) :
    member s i body = .next u.memberDone := by
  rw [member_of_admitted h, hb]; rfl

/-! ## The checks of the second stage -/

theorem formats_of_admitted {α : Type} {ts : List Tag} (h : FormatsAdmitted s ts) (k : Res α) : formats s ts k = k := by
  have h1 : (ts.find? fun t => !s.hart.usemask.getLsbD (tagCode t)) = none :=
    List.find?_eq_none.mpr fun t ht => by simp [(h t ht).1]
  have h2 : (ts.find? fun t => !s.hart.underWay && !(s.core s.hart.core).capmask.getLsbD (tagCode t)) = none :=
    List.find?_eq_none.mpr fun t ht => by rcases (h t ht).2 with e | e <;> simp [e]
  unfold formats; simp only [h1, h2]

theorem withMode_of_given {α : Type} {rounds : Bool} {r : Rnd} (h : RoundingGiven s rounds r) (k : Rnd → Res α) :
    withMode s rounds r k = k (roundingOf s rounds r) := by
  unfold withMode roundingOf
  cases rounds
  · rfl
  · have := h rfl
    cases hm : Rnd.mode r s.hart.regs.fpctl with
    | none => simp [hm] at this
    | some m => rfl

theorem lengths_of_fit {α : Type} {rs : List (VReg × Nat)} (h : LengthsFit s rs) (k : Res α) : lengths s rs k = k := by
  unfold lengths
  rcases h with h | h
  · simp [h]
  · have : (rs.find? fun r => decide (s.positions r.2 < s.hart.regs.vlen)) = none :=
      List.find?_eq_none.mpr fun r hr => by have := h r hr; simp; omega
    cases s.hart.regs.mode <;> simp [this]

theorem parity_of_sound {α : Type} {rs : List VReg} (h : RegistersSound s rs) (k : Res α) : parity s rs k = k := by
  have : (rs.find? fun r => s.src.bad.contains r) = none :=
    List.find?_eq_none.mpr fun r hr => by rw [h r hr]; decide
  unfold parity; rw [this]; cases s.hart.answered <;> rfl

theorem stage2_of_admitted {g : Gov} {reads : List (VReg × Tag)} {vd : VReg} {t : Tag} {rounds : Bool} {r : Rnd}
    (h : OperandsAdmitted s reads vd t rounds r) (k : Rnd → List Nat → Res State) :
    stage2 s g reads vd t rounds r k = k (roundingOf s rounds r) (s.actives g (tagWidth t :: reads.map fun x => tagWidth x.2)) := by
  obtain ⟨h1, h2, h3, h4⟩ := h
  unfold stage2
  rw [formats_of_admitted h1, withMode_of_given h2, lengths_of_fit h3, parity_of_sound h4]

/-! ## The checking lanes -/

theorem laneCheck_of_sound {cls : Nat} (h : LanesSound s cls) (act : List Nat) (always : Bool) :
    s.laneCheck cls act always = .fine s [] [] := by
  have : s.lanesSound cls = true := by
    unfold State.lanesSound
    simp only [Bool.and_eq_true, List.all_eq_true]
    exact ⟨fun d hd => by simp [h.1 d hd], fun x hx => by simp [h.2 x hx]⟩
  unfold State.laneCheck; simp [this]

@[simp] theorem flipped_nil (l w e x : Nat) : flipped l [] w e x = x := rfl

theorem checkedRes_of_sound {cls : Nat} (h : LanesSound s cls) (act : List Nat) (always : Bool)
    (k : State → (Nat → Nat → Nat → Nat) → Res State) : checkedRes s cls act always k = k s fun _ _ x => x := by
  unfold checkedRes; rw [laneCheck_of_sound h]; rfl

theorem checkedBy_of_sound {cls : Nat} (h : LanesSound s cls) (act : List Nat)
    (k : State → (Nat → Nat → Nat → Nat) → State) (always : Bool) :
    checkedBy s cls act k always = .ok (k s fun _ _ x => x) := by
  unfold checkedBy; rw [checkedRes_of_sound h]

theorem finishV_of_sound {cls : Nat} (h : LanesSound s cls) (g : Gov) (vd : VReg) (t : Tag) (act : List Nat) (draws : Bool)
    (f : Nat → Nat → Nat × FpFlags) (scale : VRegS → BitVec 4096) :
    s.finishV g vd t cls act draws f scale = .ok (elementsDone s g vd t act draws f scale) := by
  unfold State.finishV elementsDone; rw [checkedBy_of_sound h]; simp

theorem memberS_of_ok {sd : SReg} {x : Word} (h : s.belowLimit sd x = false) :
    s.memberS sd x = .ok (s.effect (.scalar sd x false)) := by unfold State.memberS; simp [h]

end Sys2Proof.Machine
end

