-- ==== Sys2Proof/Laws/Members.lean ====
section
/-! SUPPORT. What the shared forms of the vector members give when their checks pass: polymorphic and unary arithmetic, members
on bits, shifts, predicate logic and moves of elements. -/

namespace Sys2Proof.Machine

variable {s : State} {i : Instr}

theorem withTag_some {α : Type} {o : Option Tag} {t : Tag} (h : o = some t) (a b c : Nat) (k : Tag → Res α) :
    withTag s o a b c k = k t := by subst h; rfl

/-- The elements of a result depend on the function at the elements alone. -/
theorem runElems_congr {draws : Bool} {f g : Nat → Nat → Nat × FpFlags} :
    ∀ {l : List Nat}, (∀ e ∈ l, ∀ u, f e u = g e u) → ∀ x, runElems draws f l x = runElems draws g l x
  | [], _, _ => rfl
  | e :: r, h, x => by
    simp only [runElems, h e (List.mem_cons_self ..), runElems_congr fun e' he => h e' (List.mem_cons_of_mem _ he)]

theorem elementsDone_congr {g : Gov} {vd : VReg} {t : Tag} {act : List Nat} {draws : Bool} {f f' : Nat → Nat → Nat × FpFlags}
    (h : ∀ e ∈ act, ∀ u, f e u = f' e u) (scale : VRegS → BitVec 4096) :
    elementsDone s g vd t act draws f scale = elementsDone s g vd t act draws f' scale := by
  unfold elementsDone; rw [runElems_congr h]

/-- A polymorphic member of two sources. -/
theorem polyMember_two {p : Poly} {g : Gov} {vd va : VReg} {b : VB} {r : Rnd} {t : Tag} (h : MemberAdmitted s i)
    (ht : promote (s.src.rv va).tag (s.opbTag (s.src.rv va).tag b) = some t) (hp : p.accepts t = true)
    (ho : OperandsAdmitted s (s.readsOf va b none) vd t (tagFloat t && p.rounds) r) (hl : LanesSound s p.cls) :
    polyMember s i p g vd va b none r = .next (elementsDone s g vd t
      (s.actives g (tagWidth t :: (s.readsOf va b none).map fun x => tagWidth x.2))
      (tagFloat t && p.rounds && roundingOf s (tagFloat t && p.rounds) r == .sr) fun e u =>
        p.elem s.ctl t (roundingOf s (tagFloat t && p.rounds) r)
          ((s.src.rv va).tag, (s.src.rv va).elem s.hart.lanes (tagWidth (s.src.rv va).tag) e)
          (s.opbTag (s.src.rv va).tag b, s.opbBits (s.src.rv va).tag b e) (.uint4, 0) u).memberDone := by
  have e : (promote (s.src.rv va).tag (s.opbTag (s.src.rv va).tag b)).filter p.accepts = some t := by simp [ht, Option.filter, hp]
  unfold polyMember
  refine member_done h ?_
  simp only []
  rw [withTag_some e, stage2_of_admitted ho, finishV_of_sound hl]

/-- A polymorphic member of three sources. -/
theorem polyMember_three {p : Poly} {g : Gov} {vd va vb vc : VReg} {r : Rnd} {t : Tag} (h : MemberAdmitted s i)
    (ht : promote3 (s.src.rv va).tag (s.src.rv vb).tag (s.src.rv vc).tag = some t) (hp : p.accepts t = true)
    (ho : OperandsAdmitted s (s.readsOf va (.v vb) (some vc)) vd t (tagFloat t && p.rounds) r) (hl : LanesSound s p.cls) :
    polyMember s i p g vd va (.v vb) (some vc) r = .next (elementsDone s g vd t
      (s.actives g (tagWidth t :: (s.readsOf va (.v vb) (some vc)).map fun x => tagWidth x.2))
      (tagFloat t && p.rounds && roundingOf s (tagFloat t && p.rounds) r == .sr) fun e u =>
        p.elem s.ctl t (roundingOf s (tagFloat t && p.rounds) r)
          ((s.src.rv va).tag, (s.src.rv va).elem s.hart.lanes (tagWidth (s.src.rv va).tag) e)
          ((s.src.rv vb).tag, (s.src.rv vb).elem s.hart.lanes (tagWidth (s.src.rv vb).tag) e)
          ((s.src.rv vc).tag, (s.src.rv vc).elem s.hart.lanes (tagWidth (s.src.rv vc).tag) e) u).memberDone := by
  have e : (promote3 (s.src.rv va).tag (s.opbTag (s.src.rv va).tag (.v vb)) (s.src.rv vc).tag).filter p.accepts = some t := by
    simp [ht, Option.filter, hp, State.opbTag]
  unfold polyMember
  refine member_done h ?_
  simp only []
  rw [withTag_some e, stage2_of_admitted ho, finishV_of_sound hl]
  rfl

/-- A member of one source. -/
theorem unaryMember_done {p : Poly} {g : Gov} {vd va : VReg} {r : Rnd} {t : Tag} (h : MemberAdmitted s i)
    (ht : (s.src.rv va).tag = t) (hp : p.accepts t = true)
    (ho : OperandsAdmitted s [(va, t)] vd t (tagFloat t && p.rounds) r) (hl : LanesSound s p.cls) :
    unaryMember s i p g vd va r = .next (elementsDone s g vd t (s.actives g [tagWidth t, tagWidth t])
      (tagFloat t && p.rounds && roundingOf s (tagFloat t && p.rounds) r == .sr) fun e u =>
        p.elem s.ctl t (roundingOf s (tagFloat t && p.rounds) r)
          (t, (s.src.rv va).elem s.hart.lanes (tagWidth t) e) (.uint4, 0) (.uint4, 0) u).memberDone := by
  unfold unaryMember
  refine member_done h ?_
  simp only []
  rw [ht, withTag_some (if_pos hp), stage2_of_admitted ho, finishV_of_sound hl]
  rfl

/-- A member on the bits of two operands. -/
theorem bitMember_two {cls : Nat} {g : Gov} {vd va : VReg} {b : VB} {ok : Tag → Tag → Bool}
    {f : Tag → Nat → Nat → Nat × FpFlags} {t : Tag} (h : MemberAdmitted s i) (ht : (s.src.rv va).tag = t)
    (hk : ok t (s.opbTag t b) = true) (ho : OperandsAdmitted s (s.readsOf va b none) vd t false .dyn) (hl : LanesSound s cls) :
    bitMember s i cls g vd va (some b) ok f = .next (elementsDone s g vd t
      (s.actives g (tagWidth t :: (s.readsOf va b none).map fun x => tagWidth x.2)) false fun e _ =>
        f t ((s.src.rv va).elem s.hart.lanes (tagWidth t) e) (s.opbBits t b e)).memberDone := by
  unfold bitMember
  refine member_done h ?_
  simp only []
  rw [ht, withTag_some (if_pos hk), stage2_of_admitted ho, finishV_of_sound hl]
  try rfl

/-- A member on the bits of one operand. -/
theorem bitMember_one {cls : Nat} {g : Gov} {vd va : VReg} {ok : Tag → Tag → Bool}
    {f : Tag → Nat → Nat → Nat × FpFlags} {t : Tag} (h : MemberAdmitted s i) (ht : (s.src.rv va).tag = t)
    (hk : ok t t = true) (ho : OperandsAdmitted s [(va, t)] vd t false .dyn) (hl : LanesSound s cls) :
    bitMember s i cls g vd va none ok f = .next (elementsDone s g vd t (s.actives g [tagWidth t, tagWidth t]) false fun e _ =>
        f t ((s.src.rv va).elem s.hart.lanes (tagWidth t) e) 0).memberDone := by
  unfold bitMember
  refine member_done h ?_
  simp only []
  rw [ht, withTag_some (if_pos hk), stage2_of_admitted ho, finishV_of_sound hl]
  try rfl

/-- A shift. -/
theorem shiftMember_done {g : Gov} {vd va : VReg} {b : VB} {f : Tag → Nat → Nat → Nat × FpFlags} {t : Tag}
    (h : MemberAdmitted s i) (ht : (s.src.rv va).tag = t) (hk : intTags t (s.opbTag t b) = true)
    (ho : OperandsAdmitted s (s.readsOf va b none) vd t false .dyn) (hl : LanesSound s 35) :
    shiftMember s i g vd va b f = .next (elementsDone s g vd t
      (s.actives g (tagWidth t :: (s.readsOf va b none).map fun x => tagWidth x.2)) false fun e _ =>
        f t ((s.src.rv va).elem s.hart.lanes (tagWidth t) e) (s.shiftAmount b e)).memberDone := by
  unfold shiftMember
  refine member_done h ?_
  simp only []
  rw [ht, withTag_some (if_pos hk), stage2_of_admitted ho, finishV_of_sound hl]
  try rfl

end Sys2Proof.Machine
end

