-- ==== Sys2Proof/Laws/PerInstr.lean ====
section
/-! SUPPORT. What holds of every instruction as syntax, constructor by constructor: no instruction has both a 32-bit and a
64-bit encoding. -/

namespace Sys2Proof.Laws

/-- An instruction is a 32-bit word, or a 64-bit member, or neither, and never both. -/
def OneEncoding.Statement (i : Instr) : Prop := encodeF32 i = none ∨ encodeF64 i = none

theorem OneEncoding.add (sd sa sb : SReg) : OneEncoding.Statement (.add sd sa sb) := .inr rfl
theorem OneEncoding.sub (sd sa sb : SReg) : OneEncoding.Statement (.sub sd sa sb) := .inr rfl
theorem OneEncoding.and (sd sa sb : SReg) : OneEncoding.Statement (.and sd sa sb) := .inr rfl
theorem OneEncoding.or (sd sa sb : SReg) : OneEncoding.Statement (.or sd sa sb) := .inr rfl
theorem OneEncoding.xor (sd sa sb : SReg) : OneEncoding.Statement (.xor sd sa sb) := .inr rfl
theorem OneEncoding.sll (sd sa sb : SReg) : OneEncoding.Statement (.sll sd sa sb) := .inr rfl
theorem OneEncoding.srl (sd sa sb : SReg) : OneEncoding.Statement (.srl sd sa sb) := .inr rfl
theorem OneEncoding.sra (sd sa sb : SReg) : OneEncoding.Statement (.sra sd sa sb) := .inr rfl
theorem OneEncoding.slt (sd sa sb : SReg) : OneEncoding.Statement (.slt sd sa sb) := .inr rfl
theorem OneEncoding.sltu (sd sa sb : SReg) : OneEncoding.Statement (.sltu sd sa sb) := .inr rfl
theorem OneEncoding.min (sd sa sb : SReg) : OneEncoding.Statement (.min sd sa sb) := .inr rfl
theorem OneEncoding.max (sd sa sb : SReg) : OneEncoding.Statement (.max sd sa sb) := .inr rfl
theorem OneEncoding.mul (sd sa sb : SReg) : OneEncoding.Statement (.mul sd sa sb) := .inr rfl
theorem OneEncoding.mulh (sd sa sb : SReg) : OneEncoding.Statement (.mulh sd sa sb) := .inr rfl
theorem OneEncoding.mulhu (sd sa sb : SReg) : OneEncoding.Statement (.mulhu sd sa sb) := .inr rfl
theorem OneEncoding.div (sd sa sb : SReg) : OneEncoding.Statement (.div sd sa sb) := .inr rfl
theorem OneEncoding.divu (sd sa sb : SReg) : OneEncoding.Statement (.divu sd sa sb) := .inr rfl
theorem OneEncoding.rem (sd sa sb : SReg) : OneEncoding.Statement (.rem sd sa sb) := .inr rfl
theorem OneEncoding.remu (sd sa sb : SReg) : OneEncoding.Statement (.remu sd sa sb) := .inr rfl
theorem OneEncoding.clz (sd sa : SReg) : OneEncoding.Statement (.clz sd sa) := .inr rfl
theorem OneEncoding.ctz (sd sa : SReg) : OneEncoding.Statement (.ctz sd sa) := .inr rfl
theorem OneEncoding.popc (sd sa : SReg) : OneEncoding.Statement (.popc sd sa) := .inr rfl
theorem OneEncoding.sel (sd sa sb sc : SReg) : OneEncoding.Statement (.sel sd sa sb sc) := .inr rfl
theorem OneEncoding.addi (sd sa : SReg) (imm : BitVec 15) : OneEncoding.Statement (.addi sd sa imm) := .inr rfl
theorem OneEncoding.andi (sd sa : SReg) (imm : BitVec 15) : OneEncoding.Statement (.andi sd sa imm) := .inr rfl
theorem OneEncoding.ori (sd sa : SReg) (imm : BitVec 15) : OneEncoding.Statement (.ori sd sa imm) := .inr rfl
theorem OneEncoding.xori (sd sa : SReg) (imm : BitVec 15) : OneEncoding.Statement (.xori sd sa imm) := .inr rfl
theorem OneEncoding.slti (sd sa : SReg) (imm : BitVec 15) : OneEncoding.Statement (.slti sd sa imm) := .inr rfl
theorem OneEncoding.slli (sd sa : SReg) (amt : BitVec 6) : OneEncoding.Statement (.slli sd sa amt) := .inr rfl
theorem OneEncoding.srli (sd sa : SReg) (amt : BitVec 6) : OneEncoding.Statement (.srli sd sa amt) := .inr rfl
theorem OneEncoding.srai (sd sa : SReg) (amt : BitVec 6) : OneEncoding.Statement (.srai sd sa amt) := .inr rfl
theorem OneEncoding.lui (sd : SReg) (imm : BitVec 20) : OneEncoding.Statement (.lui sd imm) := .inr rfl
theorem OneEncoding.auipc (sd : SReg) (imm : BitVec 20) : OneEncoding.Statement (.auipc sd imm) := .inr rfl
theorem OneEncoding.ldB (sd sa : SReg) (imm : BitVec 15) : OneEncoding.Statement (.ldB sd sa imm) := .inr rfl
theorem OneEncoding.ldH (sd sa : SReg) (imm : BitVec 15) : OneEncoding.Statement (.ldH sd sa imm) := .inr rfl
theorem OneEncoding.ldW (sd sa : SReg) (imm : BitVec 15) : OneEncoding.Statement (.ldW sd sa imm) := .inr rfl
theorem OneEncoding.ldD (sd sa : SReg) (imm : BitVec 15) : OneEncoding.Statement (.ldD sd sa imm) := .inr rfl
theorem OneEncoding.ldBU (sd sa : SReg) (imm : BitVec 15) : OneEncoding.Statement (.ldBU sd sa imm) := .inr rfl
theorem OneEncoding.ldHU (sd sa : SReg) (imm : BitVec 15) : OneEncoding.Statement (.ldHU sd sa imm) := .inr rfl
theorem OneEncoding.ldWU (sd sa : SReg) (imm : BitVec 15) : OneEncoding.Statement (.ldWU sd sa imm) := .inr rfl
theorem OneEncoding.ldh (sd sa : SReg) (off : BitVec 12) (acq : Bool) : OneEncoding.Statement (.ldh sd sa off acq) := .inr rfl
theorem OneEncoding.stB (sb sa : SReg) (imm : BitVec 15) : OneEncoding.Statement (.stB sb sa imm) := .inr rfl
theorem OneEncoding.stH (sb sa : SReg) (imm : BitVec 15) : OneEncoding.Statement (.stH sb sa imm) := .inr rfl
theorem OneEncoding.stW (sb sa : SReg) (imm : BitVec 15) : OneEncoding.Statement (.stW sb sa imm) := .inr rfl
theorem OneEncoding.stD (sb sa : SReg) (imm : BitVec 15) : OneEncoding.Statement (.stD sb sa imm) := .inr rfl
theorem OneEncoding.ldsd (sd sa : SReg) (imm : BitVec 15) : OneEncoding.Statement (.ldsd sd sa imm) := .inr rfl
theorem OneEncoding.stsd (sb sa : SReg) (imm : BitVec 15) : OneEncoding.Statement (.stsd sb sa imm) := .inr rfl
theorem OneEncoding.amo (op : AmoOp) (dbl : Bool) (ord : Order) (sd sa sb : SReg) : OneEncoding.Statement (.amo op dbl ord sd sa sb) := .inr rfl
theorem OneEncoding.amoCas (dbl : Bool) (ord : Order) (sd sa sb sc : SReg) : OneEncoding.Statement (.amoCas dbl ord sd sa sb sc) := .inr rfl
theorem OneEncoding.beq (sa sb : SReg) (imm : BitVec 15) : OneEncoding.Statement (.beq sa sb imm) := .inr rfl
theorem OneEncoding.bne (sa sb : SReg) (imm : BitVec 15) : OneEncoding.Statement (.bne sa sb imm) := .inr rfl
theorem OneEncoding.blt (sa sb : SReg) (imm : BitVec 15) : OneEncoding.Statement (.blt sa sb imm) := .inr rfl
theorem OneEncoding.bge (sa sb : SReg) (imm : BitVec 15) : OneEncoding.Statement (.bge sa sb imm) := .inr rfl
theorem OneEncoding.bltu (sa sb : SReg) (imm : BitVec 15) : OneEncoding.Statement (.bltu sa sb imm) := .inr rfl
theorem OneEncoding.bgeu (sa sb : SReg) (imm : BitVec 15) : OneEncoding.Statement (.bgeu sa sb imm) := .inr rfl
theorem OneEncoding.jal (sd : SReg) (imm : BitVec 20) : OneEncoding.Statement (.jal sd imm) := .inr rfl
theorem OneEncoding.jalr (sd sa : SReg) (imm : BitVec 15) : OneEncoding.Statement (.jalr sd sa imm) := .inr rfl
theorem OneEncoding.vbany (p : PReg) (imm : BitVec 15) : OneEncoding.Statement (.vbany p imm) := .inr rfl
theorem OneEncoding.vbnone (p : PReg) (imm : BitVec 15) : OneEncoding.Statement (.vbnone p imm) := .inr rfl
theorem OneEncoding.vbrf (p : PReg) (imm : BitVec 15) : OneEncoding.Statement (.vbrf p imm) := .inr rfl
theorem OneEncoding.frgpop : OneEncoding.Statement .frgpop := .inr rfl
theorem OneEncoding.fadd (dbl : Bool) (r : Rnd) (sd sa sb : SReg) : OneEncoding.Statement (.fadd dbl r sd sa sb) := .inr rfl
theorem OneEncoding.fsub (dbl : Bool) (r : Rnd) (sd sa sb : SReg) : OneEncoding.Statement (.fsub dbl r sd sa sb) := .inr rfl
theorem OneEncoding.fmul (dbl : Bool) (r : Rnd) (sd sa sb : SReg) : OneEncoding.Statement (.fmul dbl r sd sa sb) := .inr rfl
theorem OneEncoding.fdiv (dbl : Bool) (r : Rnd) (sd sa sb : SReg) : OneEncoding.Statement (.fdiv dbl r sd sa sb) := .inr rfl
theorem OneEncoding.fsqrt (dbl : Bool) (r : Rnd) (sd sa : SReg) : OneEncoding.Statement (.fsqrt dbl r sd sa) := .inr rfl
theorem OneEncoding.fmin (dbl : Bool) (sd sa sb : SReg) : OneEncoding.Statement (.fmin dbl sd sa sb) := .inr rfl
theorem OneEncoding.fmax (dbl : Bool) (sd sa sb : SReg) : OneEncoding.Statement (.fmax dbl sd sa sb) := .inr rfl
theorem OneEncoding.fcmp (c : FCond) (dbl : Bool) (sd sa sb : SReg) : OneEncoding.Statement (.fcmp c dbl sd sa sb) := .inr rfl
theorem OneEncoding.fcvt (dst src : CvtKind) (r : Rnd) (sd sa : SReg) : OneEncoding.Statement (.fcvt dst src r sd sa) := .inr rfl
theorem OneEncoding.ffma (dbl : Bool) (r : Rnd) (sd sa sb sc : SReg) : OneEncoding.Statement (.ffma dbl r sd sa sb sc) := .inr rfl
theorem OneEncoding.pub (sc : Scope) : OneEncoding.Statement (.pub sc) := .inr rfl
theorem OneEncoding.acq (k : LogSet) (sa sb : SReg) : OneEncoding.Statement (.acq k sa sb) := .inr rfl
theorem OneEncoding.pubacq (sc : Scope) (k : LogSet) (sa sb : SReg) : OneEncoding.Statement (.pubacq sc k sa sb) := .inr rfl
theorem OneEncoding.bar : OneEncoding.Statement .bar := .inr rfl
theorem OneEncoding.fence : OneEncoding.Statement .fence := .inr rfl
theorem OneEncoding.launch (sa : SReg) : OneEncoding.Statement (.launch sa) := .inr rfl
theorem OneEncoding.wnext (sd : SReg) : OneEncoding.Statement (.wnext sd) := .inr rfl
theorem OneEncoding.wsplit (sd : SReg) : OneEncoding.Statement (.wsplit sd) := .inr rfl
theorem OneEncoding.wdone : OneEncoding.Statement .wdone := .inr rfl
theorem OneEncoding.ctwait (sd sa sb : SReg) : OneEncoding.Statement (.ctwait sd sa sb) := .inr rfl
theorem OneEncoding.ctinc (sd sa sb : SReg) : OneEncoding.Statement (.ctinc sd sa sb) := .inr rfl
theorem OneEncoding.npbegin : OneEncoding.Statement .npbegin := .inr rfl
theorem OneEncoding.npend : OneEncoding.Statement .npend := .inr rfl
theorem OneEncoding.yield : OneEncoding.Statement .yield := .inr rfl
theorem OneEncoding.exit : OneEncoding.Statement .exit := .inr rfl
theorem OneEncoding.csrr (sd : SReg) (csr : BitVec 15) : OneEncoding.Statement (.csrr sd csr) := .inr rfl
theorem OneEncoding.csrw (sd : SReg) (csr : BitVec 15) (sa : SReg) : OneEncoding.Statement (.csrw sd csr sa) := .inr rfl
theorem OneEncoding.csrs (sd : SReg) (csr : BitVec 15) (sa : SReg) : OneEncoding.Statement (.csrs sd csr sa) := .inr rfl
theorem OneEncoding.csrc (sd : SReg) (csr : BitVec 15) (sa : SReg) : OneEncoding.Statement (.csrc sd csr sa) := .inr rfl
theorem OneEncoding.tret : OneEncoding.Statement .tret := .inr rfl
theorem OneEncoding.evwait (sd sa : SReg) : OneEncoding.Statement (.evwait sd sa) := .inr rfl
theorem OneEncoding.halt : OneEncoding.Statement .halt := .inr rfl
theorem OneEncoding.ptinv (sa : SReg) : OneEncoding.Statement (.ptinv sa) := .inr rfl
theorem OneEncoding.capfence (sd sa : SReg) : OneEncoding.Statement (.capfence sd sa) := .inr rfl
theorem OneEncoding.captest (sd sa : SReg) : OneEncoding.Statement (.captest sd sa) := .inr rfl
theorem OneEncoding.bbox (sa sb : SReg) : OneEncoding.Statement (.bbox sa sb) := .inr rfl
theorem OneEncoding.tstamp (sd : SReg) : OneEncoding.Statement (.tstamp sd) := .inr rfl
theorem OneEncoding.trap (imm : BitVec 8) : OneEncoding.Statement (.trap imm) := .inr rfl
theorem OneEncoding.vsetl (sd sa : SReg) (tag : Tag) (c : Clus) : OneEncoding.Statement (.vsetl sd sa tag c) := .inr rfl
theorem OneEncoding.vsetlG (sd sa : SReg) (tag : Tag) (c : Clus) : OneEncoding.Statement (.vsetlG sd sa tag c) := .inr rfl
theorem OneEncoding.mxon : OneEncoding.Statement .mxon := .inr rfl
theorem OneEncoding.mxoff : OneEncoding.Statement .mxoff := .inr rfl
theorem OneEncoding.illegalWord (tval : Word) : OneEncoding.Statement (.illegalWord tval) := .inl rfl
theorem OneEncoding.vadd (g : Gov) (vd va : VReg) (b : VB) (sat : Bool) (r : Rnd) : OneEncoding.Statement (.vadd g vd va b sat r) := .inl rfl
theorem OneEncoding.vsub (g : Gov) (vd va : VReg) (b : VB) (sat : Bool) (r : Rnd) : OneEncoding.Statement (.vsub g vd va b sat r) := .inl rfl
theorem OneEncoding.vmul (g : Gov) (vd va : VReg) (b : VB) (sat : Bool) (r : Rnd) : OneEncoding.Statement (.vmul g vd va b sat r) := .inl rfl
theorem OneEncoding.vmulh (g : Gov) (vd va : VReg) (b : VB) : OneEncoding.Statement (.vmulh g vd va b) := .inl rfl
theorem OneEncoding.vfma (g : Gov) (vd va vb vc : VReg) (sat : Bool) (r : Rnd) : OneEncoding.Statement (.vfma g vd va vb vc sat r) := .inl rfl
theorem OneEncoding.vfms (g : Gov) (vd va vb vc : VReg) (sat : Bool) (r : Rnd) : OneEncoding.Statement (.vfms g vd va vb vc sat r) := .inl rfl
theorem OneEncoding.vnfma (g : Gov) (vd va vb vc : VReg) (sat : Bool) (r : Rnd) : OneEncoding.Statement (.vnfma g vd va vb vc sat r) := .inl rfl
theorem OneEncoding.vdiv (g : Gov) (vd va : VReg) (b : VB) (sat : Bool) (r : Rnd) : OneEncoding.Statement (.vdiv g vd va b sat r) := .inl rfl
theorem OneEncoding.vsqrt (g : Gov) (vd va : VReg) (r : Rnd) : OneEncoding.Statement (.vsqrt g vd va r) := .inl rfl
theorem OneEncoding.vrcp (g : Gov) (vd va : VReg) (r : Rnd) : OneEncoding.Statement (.vrcp g vd va r) := .inl rfl
theorem OneEncoding.vrsq (g : Gov) (vd va : VReg) (r : Rnd) : OneEncoding.Statement (.vrsq g vd va r) := .inl rfl
theorem OneEncoding.vexp2 (g : Gov) (vd va : VReg) (r : Rnd) : OneEncoding.Statement (.vexp2 g vd va r) := .inl rfl
theorem OneEncoding.vlog2 (g : Gov) (vd va : VReg) (r : Rnd) : OneEncoding.Statement (.vlog2 g vd va r) := .inl rfl
theorem OneEncoding.vtanh (g : Gov) (vd va : VReg) (r : Rnd) : OneEncoding.Statement (.vtanh g vd va r) := .inl rfl
theorem OneEncoding.vmin (g : Gov) (vd va : VReg) (b : VB) : OneEncoding.Statement (.vmin g vd va b) := .inl rfl
theorem OneEncoding.vmax (g : Gov) (vd va : VReg) (b : VB) : OneEncoding.Statement (.vmax g vd va b) := .inl rfl
theorem OneEncoding.vabs (g : Gov) (vd va : VReg) (sat : Bool) : OneEncoding.Statement (.vabs g vd va sat) := .inl rfl
theorem OneEncoding.vneg (g : Gov) (vd va : VReg) (sat : Bool) : OneEncoding.Statement (.vneg g vd va sat) := .inl rfl
theorem OneEncoding.vand (g : Gov) (vd va : VReg) (b : VB) : OneEncoding.Statement (.vand g vd va b) := .inl rfl
theorem OneEncoding.vor (g : Gov) (vd va : VReg) (b : VB) : OneEncoding.Statement (.vor g vd va b) := .inl rfl
theorem OneEncoding.vxor (g : Gov) (vd va : VReg) (b : VB) : OneEncoding.Statement (.vxor g vd va b) := .inl rfl
theorem OneEncoding.vnot (g : Gov) (vd va : VReg) : OneEncoding.Statement (.vnot g vd va) := .inl rfl
theorem OneEncoding.vshl (g : Gov) (vd va : VReg) (b : VB) (sat : Bool) : OneEncoding.Statement (.vshl g vd va b sat) := .inl rfl
theorem OneEncoding.vshr (g : Gov) (vd va : VReg) (b : VB) : OneEncoding.Statement (.vshr g vd va b) := .inl rfl
theorem OneEncoding.vrot (g : Gov) (vd va : VReg) (b : VB) (right : Bool) : OneEncoding.Statement (.vrot g vd va b right) := .inl rfl
theorem OneEncoding.vclz (g : Gov) (vd va : VReg) : OneEncoding.Statement (.vclz g vd va) := .inl rfl
theorem OneEncoding.vpopc (g : Gov) (vd va : VReg) : OneEncoding.Statement (.vpopc g vd va) := .inl rfl
theorem OneEncoding.vclmul (g : Gov) (vd va : VReg) (b : VB) (hi : Bool) : OneEncoding.Statement (.vclmul g vd va b hi) := .inl rfl
theorem OneEncoding.vcmp (g : Gov) (pd : PReg) (va : VReg) (b : VB) (c : VCond) : OneEncoding.Statement (.vcmp g pd va b c) := .inl rfl
theorem OneEncoding.vsel (g : Gov) (vd va vb : VReg) (pc : PReg) : OneEncoding.Statement (.vsel g vd va vb pc) := .inl rfl
theorem OneEncoding.vcvt (g : Gov) (vd va : VReg) (d : Tag) (sat : Bool) (r : Rnd) : OneEncoding.Statement (.vcvt g vd va d sat r) := .inl rfl
theorem OneEncoding.vscale (g : Gov) (vd va : VReg) (b : VB) (r : Rnd) : OneEncoding.Statement (.vscale g vd va b r) := .inl rfl
theorem OneEncoding.vqnt (g : Gov) (vd va : VReg) (d : Tag) (r : Rnd) : OneEncoding.Statement (.vqnt g vd va d r) := .inl rfl
theorem OneEncoding.vmov (g : Gov) (vd va : VReg) : OneEncoding.Statement (.vmov g vd va) := .inl rfl
theorem OneEncoding.vsplat (g : Gov) (vd : VReg) (ss : SReg) (d : Tag) : OneEncoding.Statement (.vsplat g vd ss d) := .inl rfl
theorem OneEncoding.viota (g : Gov) (vd : VReg) (ss : SReg) (d : Tag) (sat : Bool) : OneEncoding.Statement (.viota g vd ss d sat) := .inl rfl
theorem OneEncoding.vtag (vd : VReg) (t : Tag) : OneEncoding.Statement (.vtag vd t) := .inl rfl
theorem OneEncoding.vtagq (sd : SReg) (va : VReg) : OneEncoding.Statement (.vtagq sd va) := .inl rfl
theorem OneEncoding.psetc (g : Gov) (pd : PReg) (ss : SReg) : OneEncoding.Statement (.psetc g pd ss) := .inl rfl
theorem OneEncoding.pand (g : Gov) (pd pa pb : PReg) : OneEncoding.Statement (.pand g pd pa pb) := .inl rfl
theorem OneEncoding.por (g : Gov) (pd pa pb : PReg) : OneEncoding.Statement (.por g pd pa pb) := .inl rfl
theorem OneEncoding.pxor (g : Gov) (pd pa pb : PReg) : OneEncoding.Statement (.pxor g pd pa pb) := .inl rfl
theorem OneEncoding.pnot (g : Gov) (pd pa : PReg) : OneEncoding.Statement (.pnot g pd pa) := .inl rfl
theorem OneEncoding.pandn (g : Gov) (pd pa pb : PReg) : OneEncoding.Statement (.pandn g pd pa pb) := .inl rfl
theorem OneEncoding.ppack (vd : VReg) (pa : BitVec 2) (h : Bool) : OneEncoding.Statement (.ppack vd pa h) := .inl rfl
theorem OneEncoding.punpack (pd : BitVec 2) (va : VReg) (h : Bool) : OneEncoding.Statement (.punpack pd va h) := .inl rfl
theorem OneEncoding.pmovs (sd : SReg) (pa : PReg) (sk : SReg) : OneEncoding.Statement (.pmovs sd pa sk) := .inl rfl
theorem OneEncoding.vperm (g : Gov) (vd va vb : VReg) (keep : Bool) : OneEncoding.Statement (.vperm g vd va vb keep) := .inl rfl
theorem OneEncoding.vput (g : Gov) (vd va vb : VReg) (px : PReg) : OneEncoding.Statement (.vput g vd va vb px) := .inl rfl
theorem OneEncoding.vslu (g : Gov) (vd va : VReg) (sk : SReg) (keep : Bool) : OneEncoding.Statement (.vslu g vd va sk keep) := .inl rfl
theorem OneEncoding.vsld (g : Gov) (vd va : VReg) (sk : SReg) (keep : Bool) : OneEncoding.Statement (.vsld g vd va sk keep) := .inl rfl
theorem OneEncoding.vcomp (g : Gov) (vd va : VReg) (sd : SReg) : OneEncoding.Statement (.vcomp g vd va sd) := .inl rfl
theorem OneEncoding.vexpd (g : Gov) (vd va : VReg) : OneEncoding.Statement (.vexpd g vd va) := .inl rfl
theorem OneEncoding.vred (g : Gov) (op : RedOp) (ord sat : Bool) (r : Rnd) (vd va vb : VReg) (sd : SReg) : OneEncoding.Statement (.vred g op ord sat r vd va vb sd) := .inl rfl
theorem OneEncoding.vscan (g : Gov) (op : RedOp) (ex sat : Bool) (r : Rnd) (vd va : VReg) : OneEncoding.Statement (.vscan g op ex sat r vd va) := .inl rfl
theorem OneEncoding.vconf (g : Gov) (pd : PReg) (va : VReg) (sd : SReg) : OneEncoding.Statement (.vconf g pd va sd) := .inl rfl
theorem OneEncoding.vzip (g : Gov) (vd va vb : VReg) (hi keep : Bool) : OneEncoding.Statement (.vzip g vd va vb hi keep) := .inl rfl
theorem OneEncoding.vunzip (g : Gov) (vd va vb : VReg) (odd keep : Bool) : OneEncoding.Statement (.vunzip g vd va vb odd keep) := .inl rfl
theorem OneEncoding.vbcast (g : Gov) (vd va : VReg) (sk : SReg) (keep : Bool) : OneEncoding.Statement (.vbcast g vd va sk keep) := .inl rfl
theorem OneEncoding.vexts (g : Gov) (sd : SReg) (va : VReg) (sk : SReg) (keep : Bool) : OneEncoding.Statement (.vexts g sd va sk keep) := .inl rfl
theorem OneEncoding.vinss (g : Gov) (vd : VReg) (ss sk : SReg) : OneEncoding.Statement (.vinss g vd ss sk) := .inl rfl
theorem OneEncoding.plead (g : Gov) (sd : SReg) (pa : PReg) : OneEncoding.Statement (.plead g sd pa) := .inl rfl
theorem OneEncoding.pnum (g : Gov) (sd : SReg) (pa : PReg) : OneEncoding.Statement (.pnum g sd pa) := .inl rfl
theorem OneEncoding.vld (g : Gov) (vd : VReg) (off : BitVec 8) (sb ssc : SReg) (ff ck : Bool) : OneEncoding.Statement (.vld g vd off sb ssc ff ck) := .inl rfl
theorem OneEncoding.vlds (g : Gov) (vd : VReg) (off : BitVec 8) (sb st : SReg) (ff ck : Bool) : OneEncoding.Statement (.vlds g vd off sb st ff ck) := .inl rfl
theorem OneEncoding.vldx (g : Gov) (vd : VReg) (off : BitVec 8) (sb : SReg) (vi : VReg) (ff ck : Bool) : OneEncoding.Statement (.vldx g vd off sb vi ff ck) := .inl rfl
theorem OneEncoding.vst (g : Gov) (va : VReg) (off : BitVec 8) (sb ssc : SReg) : OneEncoding.Statement (.vst g va off sb ssc) := .inl rfl
theorem OneEncoding.vsts (g : Gov) (va : VReg) (off : BitVec 8) (sb st : SReg) : OneEncoding.Statement (.vsts g va off sb st) := .inl rfl
theorem OneEncoding.vstx (g : Gov) (va : VReg) (off : BitVec 8) (sb : SReg) (vi : VReg) : OneEncoding.Statement (.vstx g va off sb vi) := .inl rfl
theorem OneEncoding.vlsx (g : Gov) (vd : VReg) (off : BitVec 8) (sb : SReg) (vi : VReg) : OneEncoding.Statement (.vlsx g vd off sb vi) := .inl rfl
theorem OneEncoding.vssx (g : Gov) (va : VReg) (off : BitVec 8) (sb : SReg) (vi : VReg) : OneEncoding.Statement (.vssx g va off sb vi) := .inl rfl
theorem OneEncoding.vldh (g : Gov) (vd : VReg) (off : BitVec 8) (sb : SReg) (vi : VReg) (acq : Bool) : OneEncoding.Statement (.vldh g vd off sb vi acq) := .inl rfl
theorem OneEncoding.vpf (off : BitVec 8) (sb sn : SReg) : OneEncoding.Statement (.vpf off sb sn) := .inl rfl
theorem OneEncoding.vamo (g : Gov) (op : VAmoOp) (ord : Order) (va : VReg) (off : BitVec 8) (sb : SReg) (vi : VReg) : OneEncoding.Statement (.vamo g op ord va off sb vi) := .inl rfl
theorem OneEncoding.tshape (sd sm sn sk : SReg) (f : Tag) : OneEncoding.Statement (.tshape sd sm sn sk f) := .inl rfl
theorem OneEncoding.mma (g : Gov) (acc : BitVec 2) (va vb : VReg) : OneEncoding.Statement (.mma g acc va vb) := .inl rfl
theorem OneEncoding.mmas (g : Gov) (acc : BitVec 2) (va vb : VReg) : OneEncoding.Statement (.mmas g acc va vb) := .inl rfl
theorem OneEncoding.mxzero (acc : BitVec 2) : OneEncoding.Statement (.mxzero acc) := .inl rfl
theorem OneEncoding.mxext (g : Gov) (vd : VReg) (acc : BitVec 2) (sr : SReg) (d : Tag) (int sat : Bool) (r : Rnd) : OneEncoding.Statement (.mxext g vd acc sr d int sat r) := .inl rfl
theorem OneEncoding.mxins (g : Gov) (acc : BitVec 2) (va : VReg) (sr : SReg) : OneEncoding.Statement (.mxins g acc va sr) := .inl rfl
theorem OneEncoding.mxpert (sa : SReg) : OneEncoding.Statement (.mxpert sa) := .inl rfl
theorem OneEncoding.bsetl (sd sa : SReg) : OneEncoding.Statement (.bsetl sd sa) := .inl rfl
theorem OneEncoding.balloc (sa sb : SReg) : OneEncoding.Statement (.balloc sa sb) := .inl rfl
theorem OneEncoding.bplane (bd : BReg) (sa : SReg) : OneEncoding.Statement (.bplane bd sa) := .inl rfl
theorem OneEncoding.brlk (sa sb sc : SReg) : OneEncoding.Statement (.brlk sa sb sc) := .inl rfl
theorem OneEncoding.brul (sa sb : SReg) : OneEncoding.Statement (.brul sa sb) := .inl rfl
theorem OneEncoding.bldp (bd : BReg) (sa sb : SReg) (sgn sat : Bool) : OneEncoding.Statement (.bldp bd sa sb sgn sat) := .inl rfl
theorem OneEncoding.bstp (ba : BReg) (sa sb : SReg) (sgn : Bool) : OneEncoding.Statement (.bstp ba sa sb sgn) := .inl rfl
theorem OneEncoding.btov (vd : BitVec 5) (ba : BReg) (sk : SReg) (sgn : Bool) : OneEncoding.Statement (.btov vd ba sk sgn) := .inl rfl
theorem OneEncoding.vtob (bd : BReg) (va : BitVec 5) (sk : SReg) (sgn sat : Bool) : OneEncoding.Statement (.vtob bd va sk sgn sat) := .inl rfl
theorem OneEncoding.bnot (bd ba : BReg) : OneEncoding.Statement (.bnot bd ba) := .inl rfl
theorem OneEncoding.band (bd ba bb : BReg) : OneEncoding.Statement (.band bd ba bb) := .inl rfl
theorem OneEncoding.bor (bd ba bb : BReg) : OneEncoding.Statement (.bor bd ba bb) := .inl rfl
theorem OneEncoding.bxor (bd ba bb : BReg) : OneEncoding.Statement (.bxor bd ba bb) := .inl rfl
theorem OneEncoding.bmaj (bd ba bb bc : BReg) : OneEncoding.Statement (.bmaj bd ba bb bc) := .inl rfl
theorem OneEncoding.badd (bd ba bb : BReg) (sgn sat : Bool) : OneEncoding.Statement (.badd bd ba bb sgn sat) := .inl rfl
theorem OneEncoding.bsub (bd ba bb : BReg) (sgn sat : Bool) : OneEncoding.Statement (.bsub bd ba bb sgn sat) := .inl rfl
theorem OneEncoding.bmulc (bd ba : BReg) (sc : SReg) (sgn : Bool) : OneEncoding.Statement (.bmulc bd ba sc sgn) := .inl rfl
theorem OneEncoding.bmac (bd ba bb : BReg) (sgn : Bool) : OneEncoding.Statement (.bmac bd ba bb sgn) := .inl rfl
theorem OneEncoding.bmact (bd bt : BReg) (sx : SReg) (sgn : Bool) : OneEncoding.Statement (.bmact bd bt sx sgn) := .inl rfl
theorem OneEncoding.bcmp (bd ba bb : BReg) (c : BCond) (sgn : Bool) : OneEncoding.Statement (.bcmp bd ba bb c sgn) := .inl rfl
theorem OneEncoding.bsel (bd ba bb bc : BReg) : OneEncoding.Statement (.bsel bd ba bb bc) := .inl rfl
theorem OneEncoding.bshl (bd ba : BReg) (k : BitVec 5) (col : Bool) : OneEncoding.Statement (.bshl bd ba k col) := .inl rfl
theorem OneEncoding.bshr (bd ba : BReg) (k : BitVec 5) (col sgn : Bool) : OneEncoding.Statement (.bshr bd ba k col sgn) := .inl rfl
theorem OneEncoding.bred (sd : SReg) (ba : BReg) : OneEncoding.Statement (.bred sd ba) := .inl rfl
theorem OneEncoding.bseal (ba : BReg) : OneEncoding.Statement (.bseal ba) := .inl rfl
theorem OneEncoding.bnext (sa : SReg) : OneEncoding.Statement (.bnext sa) := .inl rfl
theorem OneEncoding.bwait (sd : SReg) : OneEncoding.Statement (.bwait sd) := .inl rfl
theorem OneEncoding.cpy (k : BitVec 5) (sdst ssrc slen : SReg) (c : BitVec 3) (pk : PReg) : OneEncoding.Statement (.cpy k sdst ssrc slen c pk) := .inl rfl
theorem OneEncoding.cpy2d (k : BitVec 5) (sdst ssrc slen : SReg) (c : BitVec 3) (srows sstr : SReg) (pk : PReg) : OneEncoding.Statement (.cpy2d k sdst ssrc slen c srows sstr pk) := .inl rfl
theorem OneEncoding.cpyd (k : BitVec 5) (sdst ssrc slen snonce sidx : SReg) (pk : PReg) : OneEncoding.Statement (.cpyd k sdst ssrc slen snonce sidx pk) := .inl rfl
theorem OneEncoding.cpye (k : BitVec 5) (sdst ssrc slen : SReg) (c : BitVec 3) (srem : SReg) (pk : PReg) : OneEncoding.Statement (.cpye k sdst ssrc slen c srem pk) := .inl rfl
theorem OneEncoding.ckey (k : BitVec 5) (ssrc sslot : SReg) : OneEncoding.Statement (.ckey k ssrc sslot) := .inl rfl
theorem OneEncoding.cwait (sd smask : SReg) : OneEncoding.Statement (.cwait sd smask) := .inl rfl
theorem OneEncoding.cstat (sd : SReg) (k : BitVec 5) (word : BitVec 2) : OneEncoding.Statement (.cstat sd k word) := .inl rfl
theorem OneEncoding.convoyRetire : OneEncoding.Statement .convoyRetire := .inl rfl
theorem OneEncoding.coreResetEnd (core : Nat) : OneEncoding.Statement (.coreResetEnd core) := .inl rfl
theorem OneEncoding.asyncTrap : OneEncoding.Statement .asyncTrap := .inl rfl
theorem OneEncoding.overrunFault (h : Nat) : OneEncoding.Statement (.overrunFault h) := .inl rfl
theorem OneEncoding.vbranchResolve (h : Nat) : OneEncoding.Statement (.vbranchResolve h) := .inl rfl
theorem OneEncoding.preemptRequest (h : Nat) (replace : Bool) : OneEncoding.Statement (.preemptRequest h replace) := .inl rfl
theorem OneEncoding.preemptAccept (h : Nat) : OneEncoding.Statement (.preemptAccept h) := .inl rfl
theorem OneEncoding.drainComplete (h : Nat) : OneEncoding.Statement (.drainComplete h) := .inl rfl
theorem OneEncoding.saveComplete (h : Nat) : OneEncoding.Statement (.saveComplete h) := .inl rfl
theorem OneEncoding.resume (h core slot : Nat) : OneEncoding.Statement (.resume h core slot) := .inl rfl
theorem OneEncoding.thermalMigration (h core : Nat) : OneEncoding.Statement (.thermalMigration h core) := .inl rfl
theorem OneEncoding.placement (stk w : Nat) : OneEncoding.Statement (.placement stk w) := .inl rfl
theorem OneEncoding.logSpaceFreed (h : Nat) : OneEncoding.Statement (.logSpaceFreed h) := .inl rfl
theorem OneEncoding.pinDrop (core slot sector : Nat) : OneEncoding.Statement (.pinDrop core slot sector) := .inl rfl
theorem OneEncoding.memoryReply (core sector : Nat) : OneEncoding.Statement (.memoryReply core sector) := .inl rfl
theorem OneEncoding.homeOpResult (h : Nat) : OneEncoding.Statement (.homeOpResult h) := .inl rfl
theorem OneEncoding.mergeBeacon (stk : Nat) : OneEncoding.Statement (.mergeBeacon stk) := .inl rfl
theorem OneEncoding.mergeBeaconReceive (stk src f a : Nat) : OneEncoding.Statement (.mergeBeaconReceive stk src f a) := .inl rfl
theorem OneEncoding.mergeBeaconOverdue (stk src : Nat) : OneEncoding.Statement (.mergeBeaconOverdue stk src) := .inl rfl
theorem OneEncoding.mergeApply (stk : Nat) : OneEncoding.Statement (.mergeApply stk) := .inl rfl
theorem OneEncoding.compaction (log : Nat) : OneEncoding.Statement (.compaction log) := .inl rfl
theorem OneEncoding.mergeQueueResend (stk : Nat) : OneEncoding.Statement (.mergeQueueResend stk) := .inl rfl
theorem OneEncoding.copyChunkStart (core : Nat) : OneEncoding.Statement (.copyChunkStart core) := .inl rfl
theorem OneEncoding.copyChunkComplete (core : Nat) : OneEncoding.Statement (.copyChunkComplete core) := .inl rfl
theorem OneEncoding.ckeyApply (stk : Nat) : OneEncoding.Statement (.ckeyApply stk) := .inl rfl
theorem OneEncoding.launchCut (stk idx : Nat) : OneEncoding.Statement (.launchCut stk idx) := .inl rfl
theorem OneEncoding.launchDone (stk idx : Nat) : OneEncoding.Statement (.launchDone stk idx) := .inl rfl
theorem OneEncoding.idleSplit (core : Nat) : OneEncoding.Statement (.idleSplit core) := .inl rfl
theorem OneEncoding.splitRequest (stk src w : Nat) : OneEncoding.Statement (.splitRequest stk src w) := .inl rfl
theorem OneEncoding.splitReply (stk : Nat) : OneEncoding.Statement (.splitReply stk) := .inl rfl
theorem OneEncoding.instanceRestore (stk n : Nat) : OneEncoding.Statement (.instanceRestore stk n) := .inl rfl
theorem OneEncoding.instanceSpent (stk w : Nat) : OneEncoding.Statement (.instanceSpent stk w) := .inl rfl
theorem OneEncoding.evwaitTimeout (h : Nat) : OneEncoding.Statement (.evwaitTimeout h) := .inl rfl
theorem OneEncoding.infieldTestDue (core : Nat) : OneEncoding.Statement (.infieldTestDue core) := .inl rfl
theorem OneEncoding.infieldTestEnd (core : Nat) (failed : Word) : OneEncoding.Statement (.infieldTestEnd core failed) := .inl rfl
theorem OneEncoding.infieldTestDeadline (core : Nat) : OneEncoding.Statement (.infieldTestDeadline core) := .inl rfl
theorem OneEncoding.bankMicroprogramStart (stk die : Nat) : OneEncoding.Statement (.bankMicroprogramStart stk die) := .inl rfl
theorem OneEncoding.bankCompletion (stk die : Nat) (e : BankEnd) : OneEncoding.Statement (.bankCompletion stk die e) := .inl rfl
theorem OneEncoding.refreshSlot (stk die : Nat) : OneEncoding.Statement (.refreshSlot stk die) := .inl rfl
theorem OneEncoding.dramSensorRead (stk : Nat) : OneEncoding.Statement (.dramSensorRead stk) := .inl rfl
theorem OneEncoding.rowLockEffective (stk n : Nat) : OneEncoding.Statement (.rowLockEffective stk n) := .inl rfl
theorem OneEncoding.rowRelease (stk n : Nat) : OneEncoding.Statement (.rowRelease stk n) := .inl rfl
theorem OneEncoding.leaseExpiry (stk n : Nat) : OneEncoding.Statement (.leaseExpiry stk n) := .inl rfl
theorem OneEncoding.bcpWatchdogReset (stk die : Nat) : OneEncoding.Statement (.bcpWatchdogReset stk die) := .inl rfl
theorem OneEncoding.bcpResetEnd (stk : Nat) : OneEncoding.Statement (.bcpResetEnd stk) := .inl rfl
theorem OneEncoding.residencyCommand (stk : Nat) (v : Word) : OneEncoding.Statement (.residencyCommand stk v) := .inl rfl
theorem OneEncoding.residencyDone (stk : Nat) : OneEncoding.Statement (.residencyDone stk) := .inl rfl
theorem OneEncoding.timeBeacon : OneEncoding.Statement .timeBeacon := .inl rfl
theorem OneEncoding.timeBeaconReceive (stk : Nat) (t : Word) : OneEncoding.Statement (.timeBeaconReceive stk t) := .inl rfl
theorem OneEncoding.timeBeaconOverdue (stk : Nat) : OneEncoding.Statement (.timeBeaconOverdue stk) := .inl rfl
theorem OneEncoding.pfbFreeze (stk cause detail : Nat) : OneEncoding.Statement (.pfbFreeze stk cause detail) := .inl rfl
theorem OneEncoding.freezeMessage (stk cause detail : Nat) : OneEncoding.Statement (.freezeMessage stk cause detail) := .inl rfl
theorem OneEncoding.serviceControlWrite (stk off : Nat) (v : Word) : OneEncoding.Statement (.serviceControlWrite stk off v) := .inl rfl
theorem OneEncoding.capmaskWrite (stk c : Nat) (v : Word) : OneEncoding.Statement (.capmaskWrite stk c v) := .inl rfl
theorem OneEncoding.firmwareCapmaskWrite (stk c : Nat) (v : Word) : OneEncoding.Statement (.firmwareCapmaskWrite stk c v) := .inl rfl
theorem OneEncoding.haltRelease (stk c : Nat) (v : Word) : OneEncoding.Statement (.haltRelease stk c v) := .inl rfl
theorem OneEncoding.stackPtinv (stk : Nat) (v : Word) : OneEncoding.Statement (.stackPtinv stk v) := .inl rfl
theorem OneEncoding.pfbClearFrozen (stk : Nat) : OneEncoding.Statement (.pfbClearFrozen stk) := .inl rfl
theorem OneEncoding.keyWrapKeyWrite (stk : Nat) (v : Word) : OneEncoding.Statement (.keyWrapKeyWrite stk v) := .inl rfl
theorem OneEncoding.channelBindingWrite (stk n : Nat) (v : Word) : OneEncoding.Statement (.channelBindingWrite stk n v) := .inl rfl
theorem OneEncoding.counterClear (stk off : Nat) : OneEncoding.Statement (.counterClear stk off) := .inl rfl
theorem OneEncoding.hostWrite (port dom pa : Nat) (ide : Bool) (bytes : List Byte) : OneEncoding.Statement (.hostWrite port dom pa ide bytes) := .inl rfl
theorem OneEncoding.hostRead (port dom pa n : Nat) (ide : Bool) : OneEncoding.Statement (.hostRead port dom pa n ide) := .inl rfl
theorem OneEncoding.ptmRequest (port : Nat) : OneEncoding.Statement (.ptmRequest port) := .inl rfl
theorem OneEncoding.tdiLeaveRun (d : Nat) : OneEncoding.Statement (.tdiLeaveRun d) := .inl rfl
theorem OneEncoding.doorbell (stk ch port : Nat) (v : BitVec 32) : OneEncoding.Statement (.doorbell stk ch port v) := .inl rfl
theorem OneEncoding.downLaunchHead (stk ch : Nat) : OneEncoding.Statement (.downLaunchHead stk ch) := .inl rfl
theorem OneEncoding.downLaunchTail (stk ch : Nat) : OneEncoding.Statement (.downLaunchTail stk ch) := .inl rfl
theorem OneEncoding.downCounterAdvance (stk ch : Nat) : OneEncoding.Statement (.downCounterAdvance stk ch) := .inl rfl
theorem OneEncoding.downNotify (stk ch : Nat) : OneEncoding.Statement (.downNotify stk ch) := .inl rfl
theorem OneEncoding.downResync (stk ch : Nat) : OneEncoding.Statement (.downResync stk ch) := .inl rfl
theorem OneEncoding.upMessage (stk ch : Nat) : OneEncoding.Statement (.upMessage stk ch) := .inl rfl
theorem OneEncoding.report (stk : Nat) : OneEncoding.Statement (.report stk) := .inl rfl
theorem OneEncoding.remoteWrite (stk entry off : Nat) (add : Bool) (bytes : List Byte) : OneEncoding.Statement (.remoteWrite stk entry off add bytes) := .inl rfl
theorem OneEncoding.ethernetFrame (peer seq : Nat) (ack : Nat) (bytes : List Byte) : OneEncoding.Statement (.ethernetFrame peer seq ack bytes) := .inl rfl
theorem OneEncoding.frameResend (peer : Nat) : OneEncoding.Statement (.frameResend peer) := .inl rfl
theorem OneEncoding.connectionFail (peer : Nat) : OneEncoding.Statement (.connectionFail peer) := .inl rfl
theorem OneEncoding.flitReplay (stk edge m : Nat) (crc : Bool) : OneEncoding.Statement (.flitReplay stk edge m crc) := .inl rfl
theorem OneEncoding.linkPause (stk edge m : Nat) : OneEncoding.Statement (.linkPause stk edge m) := .inl rfl
theorem OneEncoding.linkUnpause (stk edge m : Nat) : OneEncoding.Statement (.linkUnpause stk edge m) := .inl rfl
theorem OneEncoding.linkRetrain (stk edge m : Nat) : OneEncoding.Statement (.linkRetrain stk edge m) := .inl rfl
theorem OneEncoding.linkRetrainEnd (stk edge m : Nat) : OneEncoding.Statement (.linkRetrainEnd stk edge m) := .inl rfl
theorem OneEncoding.linkClearRetry (stk edge m : Nat) : OneEncoding.Statement (.linkClearRetry stk edge m) := .inl rfl
theorem OneEncoding.linkInjectArm (stk edge m : Nat) (v : Word) : OneEncoding.Statement (.linkInjectArm stk edge m v) := .inl rfl
theorem OneEncoding.linkInjectFire (stk edge m : Nat) : OneEncoding.Statement (.linkInjectFire stk edge m) := .inl rfl
theorem OneEncoding.linkWindowEnd (stk edge m : Nat) : OneEncoding.Statement (.linkWindowEnd stk edge m) := .inl rfl
theorem OneEncoding.powerSample (stk mw : Nat) : OneEncoding.Statement (.powerSample stk mw) := .inl rfl
theorem OneEncoding.thermalAlert (stk die t : Nat) : OneEncoding.Statement (.thermalAlert stk die t) := .inl rfl
theorem OneEncoding.thermalShutdown : OneEncoding.Statement .thermalShutdown := .inl rfl
theorem OneEncoding.coldReset : OneEncoding.Statement .coldReset := .inl rfl
theorem OneEncoding.warmReset : OneEncoding.Statement .warmReset := .inl rfl
theorem OneEncoding.perst (port : Nat) (low : Bool) : OneEncoding.Statement (.perst port low) := .inl rfl
theorem OneEncoding.firmwareUpdate (image : List Byte) : OneEncoding.Statement (.firmwareUpdate image) := .inl rfl
theorem OneEncoding.raiseFusedMinimum (v : BitVec 64) : OneEncoding.Statement (.raiseFusedMinimum v) := .inl rfl
theorem OneEncoding.pldmFreeze : OneEncoding.Statement .pldmFreeze := .inl rfl
theorem OneEncoding.pldmColdReset : OneEncoding.Statement .pldmColdReset := .inl rfl
theorem OneEncoding.pldmWarmReset : OneEncoding.Statement .pldmWarmReset := .inl rfl
theorem OneEncoding.readPhotoFinishEntries (stk first count : Nat) : OneEncoding.Statement (.readPhotoFinishEntries stk first count) := .inl rfl
theorem OneEncoding.readCounterBlock (stk off count : Nat) : OneEncoding.Statement (.readCounterBlock stk off count) := .inl rfl
theorem OneEncoding.clearFrozen (stk : Nat) : OneEncoding.Statement (.clearFrozen stk) := .inl rfl
theorem OneEncoding.spdmKeyWrap (key : BitVec 256) : OneEncoding.Statement (.spdmKeyWrap key) := .inl rfl
theorem OneEncoding.tick : OneEncoding.Statement .tick := .inl rfl
theorem OneEncoding.mergeQueueDelivery (stk n : Nat) : OneEncoding.Statement (.mergeQueueDelivery stk n) := .inl rfl
theorem OneEncoding.spdmKeyExchange (both : Bool) : OneEncoding.Statement (.spdmKeyExchange both) := .inl rfl
theorem OneEncoding.tdiEnterRun (d : Nat) (run : Bool) : OneEncoding.Statement (.tdiEnterRun d run) := .inl rfl

end Sys2Proof.Laws
end

