-- ==== Sys2Proof/Laws/Units.lean ====
section
/-! SUPPORT. What the shared operations of the units leave alone: what is kept at a stack, what a fetch latches, what a cache
and a status block note, and how a copy begins a chunk. -/

namespace Sys2Proof.Machine

variable (s : State)

@[simp] theorem keepArrival_mem (k : Nat) (a : Arrival) : (s.keepArrival k a).mem = s.mem := rfl
@[simp] theorem keepArrival_hart (k : Nat) (a : Arrival) : (s.keepArrival k a).hart = s.hart := rfl
@[simp] theorem keepArrival_logs (k : Nat) (a : Arrival) : (s.keepArrival k a).logs = s.logs := rfl
@[simp] theorem keepArrival_stack (k : Nat) (a : Arrival) :
    (s.keepArrival k a).stack k = { s.stack k with arrivals := (s.stack k).arrivals ++ [a] } := State.modStack_stack_same ..

@[simp] theorem latch_mem (ws : List Word) : (s.latch ws).mem = s.mem := rfl
@[simp] theorem latch_regs (ws : List Word) : (s.latch ws).hart.regs = s.hart.regs := rfl
@[simp] theorem latch_pc (ws : List Word) : (s.latch ws).hart.pc = s.hart.pc := rfl
@[simp] theorem latch_inst (ws : List Word) : (s.latch ws).hart.inst = ws := rfl

/-- A cache note changes no byte of memory, no context and no core: the cache is not seen by what it caches (R241). -/
theorem cacheRead_frame (sec : Nat) : (s.cacheRead sec).mem = s.mem ∧ (s.cacheRead sec).hart = s.hart ∧
    (s.cacheRead sec).others = s.others ∧ (s.cacheRead sec).cores = s.cores ∧ (s.cacheRead sec).logs = s.logs := ⟨rfl, rfl, rfl, rfl, rfl⟩
theorem cacheWrite_frame (sec : Nat) : (s.cacheWrite sec).mem = s.mem ∧ (s.cacheWrite sec).hart = s.hart ∧
    (s.cacheWrite sec).others = s.others ∧ (s.cacheWrite sec).cores = s.cores ∧ (s.cacheWrite sec).logs = s.logs := ⟨rfl, rfl, rfl, rfl, rfl⟩

/-- A status block changed leaves memory, the contexts, the cores and the stacks (R333). -/
theorem modBlock_frame (c : CopyCmd) (f : CopyStatus → CopyStatus) : (s.modBlock c f).mem = s.mem ∧ (s.modBlock c f).hart = s.hart ∧
    (s.modBlock c f).others = s.others ∧ (s.modBlock c f).cores = s.cores ∧ (s.modBlock c f).stackTab = s.stackTab := by
  unfold State.modBlock
  dsimp only
  split <;> exact ⟨rfl, rfl, rfl, rfl, rfl⟩

/-- A status block changed is that of its slot while the copy still owns it. -/
theorem modBlock_block {c : CopyCmd} (f : CopyStatus → CopyStatus) (h : ((s.log c.log).copies.look c.slot {}).owner = c.serial) :
    ((s.modBlock c f).log c.log).copies.look c.slot {} = f ((s.log c.log).copies.look c.slot {}) := by
  unfold State.modBlock
  rw [if_pos h, State.modLog_log_same]
  exact Tbl.look_put_same ..

end Sys2Proof.Machine
end

