-- ==== Sys2Proof/Tests/Slice0.lean ====
section
/-! SUPPORT. The author's own tests: refused operand fields, words written out from the encoding tables, small steps whose
results stand in the spec, and for each statement a state and operands that meet its hypotheses. -/

set_option Elab.async false
set_option maxRecDepth 20000
set_option synthInstance.maxSize 4096
set_option synthInstance.maxHeartbeats 200000
set_option exponentiation.threshold 2000000

namespace Sys2Proof.Tests

open Sys2Proof.Machine

/-! ## Ill-formed operands -/

theorem illformed_fcvt : Instr.wellFormed (.fcvt .w .l .rne 1 2) = false ∧ Instr.wellFormed (.fcvt .s .s .rne 1 2) = false := by decide
theorem illformed_acq : Instr.wellFormed (.acq .host 1 0) = false ∧ Instr.wellFormed (.pubacq .stack .gang 0 1) = false := by decide
theorem illformed_vsetlG : Instr.wellFormed (.vsetlG 2 1 .int32 .keep) = false := by decide
theorem illformed_z : ∀ i ∈ [Instr.psetc ⟨0, false, true⟩ 1 2, .vexpd ⟨0, false, true⟩ 1 2,
    .vred ⟨0, false, true⟩ .sum false false .dyn 1 2 0 3, .vinss ⟨0, false, true⟩ 1 2 3, .vst ⟨0, false, true⟩ 1 0 2 0,
    .vsts ⟨0, false, true⟩ 1 0 2 3, .vstx ⟨0, false, true⟩ 1 0 2 3, .vssx ⟨0, false, true⟩ 1 0 2 3,
    .vamo ⟨0, false, true⟩ .add .rlx 1 0 2 3, .mma ⟨0, false, true⟩ 0 1 8, .mmas ⟨0, false, true⟩ 0 1 8,
    .mxins ⟨0, false, true⟩ 0 1 2], Instr.wellFormed i = false := by decide
theorem illformed_vred : Instr.wellFormed (.vred ⟨0, false, false⟩ .min true false .dyn 1 2 3 4) = false ∧
    Instr.wellFormed (.vred ⟨0, false, false⟩ .max false false .rne 1 2 0 4) = false ∧
    Instr.wellFormed (.vred ⟨0, false, false⟩ .sum false false .dyn 1 2 3 4) = false := by decide
theorem illformed_ck : ∀ g ∈ [(⟨0, false, false⟩ : Gov), ⟨1, true, false⟩], Instr.wellFormed (.vld g 1 0 2 0 false true) = false ∧
    Instr.wellFormed (.vlds g 1 0 2 3 false true) = false ∧ Instr.wellFormed (.vldx g 1 0 2 3 false true) = false := by decide
theorem illformed_matrix : Instr.wellFormed (.tshape 1 2 3 4 .fp64) = false ∧
    Instr.wellFormed (.mma ⟨0, false, false⟩ 0 1 9) = false ∧ Instr.wellFormed (.mmas ⟨0, false, false⟩ 0 1 12) = false ∧
    Instr.wellFormed (.mxext ⟨0, false, false⟩ 1 0 2 .int32 false true .dyn) = false := by decide
theorem illformed_bshr : Instr.wellFormed (.bshr 1 2 3 true true) = false := by decide
theorem wellformed_some : ∀ i ∈ [Instr.add 1 2 3, .fcvt .d .w .rne 1 2, .acq .group 1 2, .vsetlG 1 2 .int32 .keep,
    .vld ⟨1, false, false⟩ 1 0 2 0 false true, .bshr 1 2 3 false true], Instr.wellFormed i = true := by decide

/-! ## Words of the encoding tables -/

/-- R106: the word of `add s5, s6, s7`. -/
theorem word_add : fetched 0x000E6281 = .word (.add 5 6 7) := by decide
/-- R115: the word of `fadd.d.rtz s5, s6, s7`. -/
theorem word_fadd : fetched 0x028E62C0 = .word (.fadd true .rtz 5 6 7) := by decide
/-- R128: the word of `vsetl s5, s4, int32, 16`. -/
theorem word_vsetl : fetched 0x530042D8 = .word (.vsetl 5 4 .int32 .c16) := by decide
/-- R215: the word of `trap 9`. -/
theorem word_trap : fetched 0x00120057 = .word (.trap 9) := by decide
/-- R212: the word of `csrr s5, gbar`. -/
theorem word_csrr : fetched 0x003602D2 = .word (.csrr 5 0x01B) := by decide
/-- R216: the words of `bbox s5, s6` and `halt`. -/
theorem word_system : fetched 0x300C5056 = .word (.bbox 5 6) ∧ fetched 0x10000056 = .word .halt := by decide
/-- R109, format SB (R69): `beq s1, s2, +4` is imm15 = 1 in [31:22] and [11:7], sb in [21:17], sa in [16:12]. -/
theorem word_beq : fetched (0#10 ++ 2#5 ++ 1#5 ++ 1#5 ++ 0x30#7) = .word (.beq 1 2 1) := by decide
/-- R110, format SJ: `jal s1, -4` is imm20 = -1 in [31:12]. -/
theorem word_jal : fetched (0xFFFFF#20 ++ 1#5 ++ 0x36#7) = .word (.jal 1 0xFFFFF) := by decide
/-- R112: `ld.w s3, 8(s4)` in format SI, and `st.d s3, 8(s4)` in format SB. -/
theorem word_memory : fetched (8#15 ++ 4#5 ++ 3#5 ++ 0x22#7) = .word (.ldW 3 4 8) ∧
    fetched (0#10 ++ 3#5 ++ 4#5 ++ 8#5 ++ 0x2B#7) = .word (.stD 3 4 8) := by decide
/-- R290: `amo.add.d s1, s2, (s3)` has funct10 = 0000 1 1 00 00. -/
theorem word_amo : fetched (0b0000110000#10 ++ 2#5 ++ 3#5 ++ 1#5 ++ 0x2E#7) = .word (.amo .add true .rlx 1 3 2) := by decide
/-- R295, R377: `fence` is [31:27] = 4 of opcode 0x50, `exit` is [31:27] = 9 of opcode 0x51. -/
theorem word_order : fetched (4#5 ++ 0#20 ++ 0x50#7) = .word .fence ∧ fetched (9#5 ++ 0#20 ++ 0x51#7) = .word .exit := by decide
/-- R138: `vbrf p1, +4` is opcode 0x3A of format SB with sa the predicate. -/
theorem word_vbrf : fetched (0#10 ++ 0#5 ++ 1#5 ++ 1#5 ++ 0x3A#7) = .word (.vbrf 1 1) := by decide
/-- R132: the word of `psetc p3, s6`. -/
theorem word_psetc : decodeTableWord 64 0x00C0000000001938 = some (.psetc ⟨0, false, false⟩ 3 6) := by decide
/-- R197: the word of `mxpert s7`; R190: of `tshape`; R192: of `mma`; R195: of `mxext.z`. -/
theorem word_matrix : decodeTableWord 64 0x007000000000003B = some (.mxpert 7) ∧
    (decodeTableWord 64 0x1E900000C288000B).isSome = true ∧
    (decodeTableWord 64 0x0000000004040013).isSome = true ∧ (decodeTableWord 64 0x1E0002000000A02B).isSome = true := by decide
/-- R328: the word of `bmact.s bp2, bp1, s6`. -/
theorem word_bmact : decodeTableWord 64 0x340000000002109C = some (.bmact 2 1 6 true) := by decide
/-- R26: headers of the examples: one BK member, one MX member. -/
theorem word_headers : fetched 0x87F = .convoy ⟨0, false, 0, 4, 0⟩ ∧ fetched 0x0100067F = .convoy ⟨0, true, 0, 3, 0⟩ := by decide
/-- R72: neither all zeros nor all ones is an instruction. -/
theorem word_none : fetched 0 = .bad .opcode ∧ fetched 0xFFFFFFFF = .bad .opcode := by decide

/-! ## States -/

/-- A compute hart in vector mode, placed at address 0. -/
def vec : State := State.reset.placeWord 32 0
/-- The same in matrix mode. -/
def mat : State := State.reset.placeWord 64 3

/-- What an instruction's next state gives. -/
def after {α : Type} (i : Instr) (s : State) (f : State → α) : Option α :=
  match exec i s with
  | .next t => some (f t)
  | _ => none

/-- A hart with its registers changed. -/
def withRegs (f : Regs → Regs) : State := vec.modRegs f
/-- A hart changed. -/
def withHart (f : Hart → Hart) : State := vec.modHart f

/-- Success of a part of an instruction. -/
def good {α : Type} : Res α → Bool
  | .ok _ => true
  | _ => false
theorem good_ok {α : Type} {r : Res α} (h : good r = true) : ∃ x, r = .ok x := by
  cases r <;> first | exact ⟨_, rfl⟩ | cases h

/-- Pages of address 0 in every TLB bank, and one sector in the view. -/
def data : State := vec.modCore 0 fun c => { c with
  tlb := (List.range 20).map fun b => { bank := b, dom := 0, page := 0, level := 3, entry := 0x1F }
  view := [{ addr := 0x1000, data := 0x8899AABBCCDDEEFF }] }

/-! ## Small steps -/

/-- R106: with x = -7 and y = 2, DIV gives -3 and REM gives -1; DIVU reads x as 2^64 - 7, and REMU gives 1. -/
theorem test_div : let s := (vec.ws 6 (BitVec.ofInt 64 (-7))).ws 7 2
    after (.div 5 6 7) s (·.rs 5) = some (BitVec.ofInt 64 (-3)) ∧ after (.rem 5 6 7) s (·.rs 5) = some (BitVec.ofInt 64 (-1)) ∧
    after (.divu 5 6 7) s (·.rs 5) = some 0x7FFFFFFFFFFFFFFC ∧ after (.remu 5 6 7) s (·.rs 5) = some 1 := by decide
/-- R106: division by zero, and the one overflow. -/
theorem test_div_edges : let s := (vec.ws 6 (BitVec.intMin 64)).ws 7 (BitVec.allOnes 64)
    after (.div 5 6 0) s (·.rs 5) = some (BitVec.allOnes 64) ∧ after (.rem 5 6 0) s (·.rs 5) = some (BitVec.intMin 64) ∧
    after (.div 5 6 7) s (·.rs 5) = some (BitVec.intMin 64) ∧ after (.rem 5 6 7) s (·.rs 5) = some 0 := by decide
/-- R101: s0 discards what is written to it, and the hart goes on. -/
theorem test_s0 : after (.addi 0 0 7) vec (fun t => (t.rs 0, t.hart.pc)) = some (0, 4) := by decide
/-- R105: SUB wraps; a shift takes the amount modulo 64. -/
theorem test_wraps : let s := vec.ws 6 1
    after (.sub 5 0 6) s (·.rs 5) = some (BitVec.allOnes 64) ∧ after (.slli 5 6 63) s (·.rs 5) = some (BitVec.intMin 64) ∧
    after (.sll 5 6 7) (s.ws 7 65) (·.rs 5) = some 2 := by decide
/-- R104: a write of s2 below SPLIM traps with the value, and s2 stays. -/
theorem test_stack_limit : let s := (withRegs fun r => { r with splim := 64 }).ws 2 100
    after (.addi 2 2 0x7FD8) s (fun t => (t.rs 2, t.hart.tlevel, t.hart.trap1.cause.toNat, t.hart.trap1.val)) =
      some (100, 1, 0x1B, 60) := by decide
/-- R110: JALR goes to its register's value and links; to an address that is no multiple of 4 it traps. -/
theorem test_jalr : let s := vec.ws 6 0x100
    after (.jalr 1 6 4) s (fun t => (t.hart.pc, t.rs 1)) = some (0x104, 4) ∧
    after (.jalr 1 6 2) s (fun t => (t.hart.trap1.cause.toNat, t.hart.trap1.val, t.rs 1)) = some (4, 0x102, 0) := by decide
/-- R112: LD sign-extends, LDU zero-extends; a misaligned address traps. -/
theorem test_loads : let s := data.ws 6 0x1000
    after (.ldB 5 6 0) s (·.rs 5) = some (BitVec.allOnes 64) ∧ after (.ldHU 5 6 0) s (·.rs 5) = some 0xEEFF ∧
    after (.ldW 5 6 4) s (·.rs 5) = some 0xFFFFFFFF8899AABB ∧
    after (.ldD 5 6 1) s (fun t => (t.hart.trap1.cause.toNat, t.hart.trap1.val)) = some (0x0B, 0x1001) := by decide
/-- R114: a load reads back the byte that its hart stored, before it is published. -/
theorem test_store_load : let s := (data.ws 6 0x1000).ws 7 0x5A
    (match exec (.stB 7 6 3) s with
     | .next t => after (.ldBU 5 6 3) t (fun u => (u.rs 5, u.mem.read 0x1003))
     | _ => none) = some (0x5A, data.mem.read 0x1003) := by decide
/-- R113: a doubleword in scalar data memory at its last offset; past it the access traps. -/
theorem test_sdm : let s := (vec.ws 6 65528).ws 7 9
    after (.stsd 7 6 0) s (fun t => (privRead t.hart.regs.sdm 65528 8, t.hart.regs.sdmDirty)) = some (9, 0x80000000) ∧
    after (.ldsd 5 6 8) s (fun t => t.hart.trap1.cause.toNat) = some 0x0D := by decide
/-- R115: 1.0 + 1.0 is 2.0 in both widths. -/
theorem test_fadd : let s := (vec.ws 6 0x3FF0000000000000).ws 7 0x3F800000
    after (.fadd true .rne 5 6 6) s (·.rs 5) = some 0x4000000000000000 ∧
    after (.fadd false .rne 5 7 7) s (·.rs 5) = some 0x40000000 := by decide
/-- R115: 1 / 0 is infinity with DZ (FPSTAT's bits are those of R57); 0 / 0 is a NaN with NV. -/
theorem test_fdiv : let s := vec.ws 6 0x3FF0000000000000
    after (.fdiv true .rne 5 6 0) s (fun t => (t.rs 5, t.hart.regs.fpstat)) = some (0x7FF0000000000000, flagDZ) ∧
    after (.fdiv true .rne 5 0 0) s (fun t => t.hart.regs.fpstat) = some flagNV := by decide
/-- R128: 16 clusters would be 64 lanes; a hart that keeps one cluster holds 128 elements of 32 bits. -/
theorem test_vsetl : after (.vsetl 5 6 .int32 .keep) (vec.ws 6 1000) (fun t => (t.rs 5, t.hart.regs.vlen)) = some (128, 128) := by decide
/-- R207, R215: TRAP saves the next address, its cause and its immediate, and raises the level. -/
theorem test_trap : after (.trap 9) vec (fun t => (t.hart.tlevel, t.hart.trap1.epc, t.hart.trap1.cause.toNat, t.hart.trap1.val)) =
    some (1, 4, 0x1C, 9) := by decide
/-- R210: TRET goes back and lowers the level. -/
theorem test_tret : let s := withHart fun h => { h with tlevel := 1, trap1 := { epc := 0x40 } }
    after .tret s (fun t => (t.hart.tlevel, t.hart.pc)) = some (0, 0x40) := by decide
/-- R202: at level 0 HALT is privileged. -/
theorem test_halt : after .halt vec (fun t => (t.hart.trap1.cause.toNat, t.hart.trap1.val)) = some (0x11, 0x10000056) := by decide
/-- R212: CSRRS of FPCTL gives the old value and sets bits. -/
theorem test_csrs : after (.csrs 5 0 6) (vec.ws 6 3) (fun t => (t.rs 5, t.hart.regs.fpctl)) = some (0, 3) := by decide
/-- R184: MXON counts all positions of one cluster and gives its shape. -/
theorem test_mxon : after .mxon vec (fun t => (t.hart.regs.mode, t.hart.regs.vlen, t.hart.regs.tshn)) = some (true, 1024, 64) := by decide
/-- R404: a host write of a port whose link does not run has no effect. -/
theorem test_port : after (.hostWrite 0 0 0 false [1]) State.reset (fun t => decide (t = State.reset)) = some true := by decide
/-- R443: a shutdown stops the clocks, and then a tick moves nothing. -/
theorem test_shutdown : after .thermalShutdown State.reset (fun t => (t.stopped, t.thermtrip, t.mem)) = some (true, true, []) := by decide
/-- R20: a step with nothing in its agenda is a tick of TIME. -/
theorem test_step : (match step State.reset with | .next t => some t.ticks | _ => none) = some 1 := by decide

/-- FIPS 197, C.3: the block of the example and its ciphertext. -/
theorem test_aes : let rk := roundKeys (keyBytes 0x000102030405060708090a0b0c0d0e0f101112131415161718191a1b1c1d1e1f)
    ofBytesBE (aesEncrypt rk (bytesBE 16 0x00112233445566778899aabbccddeeff)) = 0x8ea2b7ca516745bfeafc49904b496089 ∧
    ofBytesBE (aesDecrypt rk (bytesBE 16 0x8ea2b7ca516745bfeafc49904b496089)) = 0x00112233445566778899aabbccddeeff := by decide +kernel

/-! ## States and operands that meet the hypotheses of the statements: words -/

/-- A hart in a handler. -/
def lev1 : State := withHart fun h => { h with tlevel := 1, trap1 := { epc := 0x40, stat := 0x10 } }
/-- A hart in a gang of two. -/
def ganged : State := withHart fun h => { h with gangSize := 2, gangIdx := 3 }
/-- A hart whose operation has returned. -/
def back : State := withHart fun h => { h with phase := .returned 0 [] }

theorem ok_and {α : Type} {r : Res α} {p : α → Bool} (h : (match r with | .ok x => p x | _ => false) = true) :
    ∃ x, r = .ok x ∧ p x = true := by
  cases r <;> first | exact ⟨_, rfl, h⟩ | cases h

/-- The checks of R98 pass on a word of every kind. -/
theorem witness_words : (∀ i ∈ [Instr.add 5 6 7, .sub 5 6 7, .and 5 6 7, .or 5 6 7, .xor 5 6 7, .sll 5 6 7, .srl 5 6 7, .sra 5 6 7,
      .slt 5 6 7, .sltu 5 6 7, .min 5 6 7, .max 5 6 7, .mul 5 6 7, .mulh 5 6 7, .mulhu 5 6 7, .div 5 6 7, .divu 5 6 7, .rem 5 6 7,
      .remu 5 6 7, .clz 5 6, .ctz 5 6, .popc 5 6, .sel 5 6 7 8, .addi 5 6 1, .andi 5 6 1, .ori 5 6 1, .xori 5 6 1, .slti 5 6 1,
      .slli 5 6 1, .srli 5 6 1, .srai 5 6 1, .lui 5 1, .auipc 5 1, .ldB 5 6 0, .ldH 5 6 0, .ldW 5 6 0, .ldD 5 6 0, .ldBU 5 6 0,
      .ldHU 5 6 0, .ldWU 5 6 0, .ldh 5 6 0 false, .stB 5 6 0, .stH 5 6 0, .stW 5 6 0, .stD 5 6 0, .ldsd 5 6 0, .stsd 5 6 0,
      .amo .add true .rlx 5 6 7, .amoCas true .rlx 5 6 7 8, .beq 5 6 1, .bne 5 6 1, .blt 5 6 1, .bge 5 6 1, .bltu 5 6 1,
      .bgeu 5 6 1, .jal 1 1, .jalr 1 5 0, .vbany 1 1, .vbnone 1 1, .vbrf 1 1, .frgpop, .fadd true .dyn 5 6 7, .fsub true .dyn 5 6 7,
      .fmul true .dyn 5 6 7, .fdiv true .dyn 5 6 7, .fsqrt true .dyn 5 6, .fmin true 5 6 7, .fmax true 5 6 7, .fcmp .lt true 5 6 7,
      .fcvt .d .w .dyn 5 6, .ffma true .dyn 5 6 7 8, .pub .stack, .acq .group 5 6, .pubacq .stack .group 5 6, .bar, .fence, .launch 5,
      .wnext 5, .wsplit 5, .wdone, .ctwait 5 6 7, .ctinc 5 6 7, .npbegin, .npend, .yield, .exit, .csrr 5 0, .csrw 5 0 6, .csrs 5 0 6,
      .csrc 5 0 6, .evwait 5 6, .bbox 5 6, .tstamp 5, .trap 9, .vsetl 5 6 .int32 .keep, .vsetlG 5 6 .int32 .keep, .mxon],
      WordAdmitted vec i) ∧
    (∀ i ∈ [Instr.tret, .halt, .ptinv 5, .capfence 5 6, .captest 5 6], WordAdmitted lev1 i) ∧ WordAdmitted mat .mxoff ∧
    (∀ x, vec.belowLimit 5 x = false) ∧ vec.belowLimit 2 0 = false := by
  refine ⟨?_, ?_, ?_, fun x => rfl, by decide⟩ <;> unfold WordAdmitted <;> decide

/-- Stack limits: a quotient, a sum, an immediate and a link below SPLIM. -/
theorem witness_limit : let s := withRegs fun r => { r with splim := 8 }
    (∀ i ∈ [Instr.div 2 6 7, .divu 2 6 7, .rem 2 6 7, .remu 2 6 7, .add 2 6 7, .addi 2 6 7, .lui 2 0, .jal 2 0, .csrr 2 0],
      WordAdmitted s i) ∧ s.belowLimit 2 7 = true ∧ s.belowLimit 2 8 = false ∧ (s.rs 6 + 7).toNat < s.hart.regs.splim.toNat ∧
    (s.hart.pc + 4).toNat < s.hart.regs.splim.toNat ∧ s.hasCsr 0 = true ∧ (s.csrRead 0).toNat < s.hart.regs.splim.toNat := by
  refine ⟨?_, by decide, by decide, by decide, by decide, by decide, by decide⟩; unfold WordAdmitted; decide

/-- Jumps to an aligned and to a misaligned address. -/
theorem witness_jumps : vec.belowLimit 1 (vec.hart.pc + 4) = false ∧ (vec.rs 6 + (4 : BitVec 15).signExtend 64).toNat % 4 = 0 ∧
    (vec.rs 6 + (0x7FFE : BitVec 15).signExtend 64).toNat % 4 ≠ 0 := by decide

/-- Every scalar load at the last place of a sector that its view holds, and a misaligned one. -/
theorem witness_loads : (∀ n ∈ [1, 2, 4, 8], good (data.load (BitVec.ofNat 64 (0x1040 - n)) n) = true) ∧
    (∀ n ∈ [2, 4, 8], (0x1001 : Word).toNat % n ≠ 0) ∧ data.hart.service = false := by decide
theorem witness_load_state : ∃ u x, data.load 0x1000 8 = .ok (u, x) ∧ WordAdmitted data (.ldD 5 6 0) ∧ u.belowLimit 5 (extend true 8 x) = false := by
  obtain ⟨⟨u, x⟩, h⟩ := good_ok (r := data.load 0x1000 8) (by decide)
  exact ⟨u, x, h, by unfold WordAdmitted; decide, rfl⟩
/-- Every scalar store at the last place of a page. -/
theorem witness_stores : ∀ n ∈ [1, 2, 4, 8], (match translateAll data .write [(1, BitVec.ofNat 64 (0x10000 - n))] data.walks with
    | .ok ([(p, _)], t) => good ((data.setTlb t).storeBytes ((List.range n).map fun j => (p + j, (0 : Byte))))
    | _ => false) = true ∧ inWindow (0x10000 - n) = false := by decide
/-- The first and last offsets of scalar data memory, the one past them, and a misaligned one. -/
theorem witness_sdm : (0 : Word).toNat < 65536 ∧ (65528 : Word).toNat < 65536 ∧ (65528 : Word).toNat % 8 = 0 ∧
    65536 ≤ (65536 : Word).toNat ∧ (4 : Word).toNat % 8 ≠ 0 := by decide
/-- A load that finds its page and its sector. -/
theorem witness_view : ∃ e p x, data.hart.service = false ∧ (0x1038 : Word).toNat % 8 = 0 ∧ (0x1038 : Word).toNat < Config.window ∧
    (data.core data.hart.core).tlb.find? (fun e => e.hits 1 data.hart.domain.toNat (0x1038 : Word).toNat) = some e ∧
    canonical (pteAddr e.entry + (0x1038 : Word).toNat % 2 ^ offsetBits e.level) = some p ∧
    pteDom e.entry = data.hart.domain.toNat ∧ e.entry.getLsbD 2 = true ∧ data.owner p = data.hart.domain.toNat ∧
    viewFind (data.core data.hart.core).view data.hart.slotNo (sectorOf p) = some x ∧ data.served (sectorOf p) ≠ .inPlace :=
  ⟨{ bank := 1, dom := 0, page := 0, level := 3, entry := 0x1F }, 0x1038, { addr := 0x1000, data := 0x8899AABBCCDDEEFF }, by decide⟩
/-- Staging with no record, and full but for the record of the sector stored to. -/
theorem witness_staging : vec.hart.service = false ∧ (vec.stack (homeOf 0x1000)).lockOn (frameOf 0x1000) = none ∧
    (vec.hart.staging.map Prod.fst).Nodup ∧ vec.hart.staging.length < 512 ∧
    (let s := withHart fun h => { h with staging := [(0x1000, 1, 0)] }
     (s.hart.staging.map Prod.fst).Nodup ∧ s.hart.staging.any (fun r => r.1 == sectorOf 0x103F) = true) := by decide
/-- A home operation that leaves, and one whose result has returned. -/
theorem witness_home : (∀ k ∈ [Access.read, .rw], ∃ u : State × Nat × Bool, data.access k 0x1008 = .ok u ∧
      (u.1.canKey && decide (u.1.hart = data.hart)) = true) ∧
    data.hart.phase = .run ∧ (0x1008 : Word).toNat % 8 = 0 ∧ inWindow (0x1008 : Word).toNat = false ∧
    back.hart.phase = .returned 0 [] ∧ WordAdmitted back (.ldh 5 6 0 false) ∧ WordAdmitted back (.amo .add true .rlx 5 6 7) ∧
    data.badSector (sectorOf 0x1008) = false := by
  refine ⟨?_, by decide, by decide, by decide, by decide, ?_, ?_, by decide⟩
  · intro k hk
    simp only [List.mem_cons, List.not_mem_nil, or_false] at hk
    rcases hk with rfl | rfl <;> exact ok_and (by decide)
  all_goals unfold WordAdmitted; decide
/-- Rounding modes by code and by FPCTL. -/
theorem witness_rounding : Rnd.mode .dyn vec.hart.regs.fpctl = some .rne ∧ Rnd.mode .sr vec.hart.regs.fpctl = some .sr := by decide
/-- A publication that reaches its scope, one that has not, and acquires. -/
theorem witness_ordering : (∃ u, vec.publish (scopeCode .hart) false = .ok u ∧ u.scopeReached .hart (u.log u.hart.key).ptKey = true) ∧
    (∃ u, vec.acquire (vec.logSet .group 0 0) = .ok u ∧ setLegal vec .group = true) ∧
    (let s := (withHart fun h => { h with phase := .published 3 }).modLog 0 fun l =>
       { l with recs := [{ seq := 0, key := some 3, body := .store 0x1000 1 0 }] }
     s.hart.phase = .published 3 ∧ s.scopeReached .hart 3 = true ∧ s.scopeReached .module 3 = false) ∧
    (∃ u, ganged.acquire (ganged.logSet .gang 0 0) = .ok u ∧ ganged.hart.inGang = true ∧ setLegal ganged .gang = true) := by
  refine ⟨?_, ?_, by decide, ?_⟩
  · exact ok_and (r := vec.publish (scopeCode .hart) false) (by decide)
  · obtain ⟨u, h⟩ := good_ok (r := vec.acquire (vec.logSet .group 0 0)) (by decide)
    exact ⟨u, h, by decide⟩
  · obtain ⟨u, h⟩ := good_ok (r := ganged.acquire (ganged.logSet .gang 0 0)) (by decide)
    exact ⟨u, h, by decide, by decide⟩

/-- A launch record: one dimension of ten tiles, in stack 0, on one cluster. -/
def recd : List Word := [0x1000, 0, 0x100000000, 10, 0, 1, 0, 0x1000001, 0, 0, 0, 0, 0, 0, 0, 0]
/-- A running launch with one instance in stack 0. -/
def tiled : State := (data.modStack 0 fun t => { t with
  launches := [(0, { state := .running, words := recd, live := 1, nextSerial := 1 })]
  walkers := [(0, { state := .active, home := 0, launch := 0, next := 0, stop := 10 })] }).modHart fun h =>
    { h with home := 0, launch := 0, instStack := 0 }
/-- The same with a tile held. -/
def holding : State := tiled.modHart fun h => { h with tile := some 4 }
/-- The record stands in memory. -/
def written : State := { data with mem := (recd.zipIdx.foldl (fun m x => m.writeN (0x2000 + 8 * x.2) 8 x.1.toNat) data.mem) }

theorem witness_launch : (0x2000 : Word).toNat % 128 = 0 ∧
    (∃ u, written.loadWords 0x2000 16 = .ok u ∧ (decide (u.2 = recd) && (u.1.recFault u.2 false).isNone &&
      (freeIndex (u.1.stack u.1.hart.stk).launches 256 == some 0) && good (u.1.publish 0 false)) = true) := by
  exact ⟨by decide, ok_and (by decide)⟩
theorem witness_tiles : tiled.hart.tile = none ∧ tiled.takeTile.2 = some 0 ∧ tiled.takeTile.1.belowLimit 5 0 = false ∧
    vec.takeTile.2 = none ∧ vec.takeTile.1.splitFor = none ∧ vec.takeTile.1.belowLimit 5 (BitVec.allOnes 64) = false ∧
    holding.hart.tile ≠ none ∧ good (holding.dropTile.publish 0 false) = true ∧
    freeIndex ((vec.modStack 0 fun t => { t with walkers := (List.range 32).map fun i => (i, {}) }).stack 0).walkers 32 = none := by decide
theorem witness_walkers : let y := (tiled.stack 0).walkers.look 0 {}
    let l := tiled.launchAt 0 0
    tiled.hart.tile = none ∧ tiled.walkerOf tiled.hart = some (0, y) ∧ y.state = .active ∧ y.next < y.stop ∧ tileOf l.words y.next = some [0] ∧
    tiled.belowLimit 5 (tileWord [0]) = false ∧ freeIndex (tiled.stack 0).walkers 32 = some 1 ∧ 2 ≤ y.rest ∧ l.state = .running ∧
    admits l.words 0 0 = true ∧ tiled.covers tiled.hart.core l.words = true ∧ tiled.belowLimit 5 5 = false := by decide +kernel
theorem witness_counters : (4095 : Word).toNat ≤ 4095 ∧ ((vec.ws 7 0).rs 7).toNat ≤ (vec.counter 4095).value.toNat ∧
    (vec.counter 4095).key.le vec.settled = true ∧ vec.belowLimit 5 (vec.counter 4095).value = false ∧
    (let s := withHart fun h => { h with phase := .published 0 }
     s.hart.phase = .published 0 ∧ s.rs 7 = 0 ∧ (s.ws 7 1).rs 7 ≠ 0 ∧ (s.ws 7 1).canKey = true) := by decide

theorem witness_csrs : (∀ n ∈ [0x000, 0x001, 0x002, 0x003, 0x005, 0x00D, 0x100, 0x104, 0x108, 0x10C], vec.hasCsr n = true ∧ csrWritable n = true) ∧
    vec.hasCsr 0x7FFF = false ∧ vec.hasCsr 0x004 = true ∧ csrWritable 0x004 = false ∧ vec.belowLimit 5 (vec.csrRead 0) = false ∧
    csrPriv 0x100 = true := by decide

theorem witness_trap_entry : vec.hart.tlevel < 2 ∧ vec.hart.cv.active = false ∧ lev1.hart.tlevel < 2 ∧ lev1.hart.cv.active = false ∧
    (let s := withHart fun h => { h with cv := { active := true } }
     s.hart.tlevel < 2 ∧ s.hart.cv.active = true) := by decide
theorem witness_async : (let s := withHart fun h => { h with async30 := some 1, async31 := some 2 }
     s.hart.tlevel = 0 ∧ s.hart.async30 = some 1) ∧
    (let s := withHart fun h => { h with async31 := some 2 }
     s.hart.tlevel = 0 ∧ s.hart.async30 = none ∧ s.hart.async31 = some 2) := by decide
theorem witness_tret : lev1.hart.tlevel ≠ 0 ∧ lev1.hart.regs.mode = lev1.hart.trap1.stat.getLsbD 0 ∧ lev1.hart.tlevel = 1 ∧
    lev1.hart.trap1.stat.getLsbD 4 = true ∧
    (let s := withHart fun h => { h with tlevel := 2 }
     s.hart.tlevel = 2 ∧ s.hart.regs.mode = s.hart.trap2.stat.getLsbD 0) ∧
    (let s := withHart fun h => { h with tlevel := 1, trap1 := { stat := 1 } }
     s.hart.regs.mode ≠ s.hart.trap1.stat.getLsbD 0) := by decide
theorem witness_privilege : vec.hart.service = false ∧ vec.hart.tlevel = 0 ∧ vec.hasCsr 0x100 = true ∧ csrPriv 0x100 = true := by decide
theorem witness_classes : ∀ c ∈ [32, 33, 34, 46], (withHart fun h => { h with usemask := 0 }).hart.usemask.getLsbD c = false ∧
    vec.hart.usemask.getLsbD c = true ∧ ((vec.modCore 0 fun k => { k with capmask := 0 }).core 0).capmask.getLsbD c = false := by decide
theorem witness_system : (withHart fun h => { h with event := true }).hart.event = true ∧ vec.belowLimit 5 1 = false ∧
    back.hart.event = false ∧ back.hart.phase = .returned 0 [] ∧ vec.hart.event = false ∧ vec.hart.phase = .run ∧
    (withHart fun h => { h with phase := .released 0 }).hart.phase = .released 0 ∧ vec.testing vec.hart.core = false ∧
    (vec.fenceOwn 1 3).belowLimit 5 0 = false ∧ vec.hart.service = false ∧ vec.hart.core < 1152 := by decide
theorem witness_vsetl : vec.hart.inGang = false ∧ Clus.want .keep (popc vec.hart.regs.grant) = popc vec.hart.regs.grant ∧
    Clus.want .c4 (popc vec.hart.regs.grant) ≠ popc vec.hart.regs.grant ∧ vec.hart.frags = [] ∧ vec.belowLimit 5 128 = false ∧
    ganged.hart.inGang = true ∧ (5 : SReg) ≠ 2 ∧
    (ganged.modHart fun h => { h with phase := .released 1 }).hart.phase = .released 1 ∧
    (ganged.modHart fun h => { h with phase := .arrived true }).hart.phase = .arrived true ∧
    grantCount vec.hart.regs.grant (vec.core vec.hart.core).freeClusters 1 = popc vec.hart.regs.grant := by decide

/-- A predicate with the bit of the last element of VLEN, with all bits below it, and with none. -/
theorem witness_predicates :
    (let r := (withRegs fun r => { r with p := [(1, { bits := 1 <<< 127 })] }).hart.regs
     (∃ e, e < r.vlen ∧ e < r.ftrim.toNat ∧ (r.rp 1).bits.getLsbD e = true) ∧
     ¬ (∀ e, e < r.vlen → e < r.ftrim.toNat → (r.rp 1).bits.getLsbD e = true)) ∧
    (let r := (withRegs fun r => { r with vlen := 2, p := [(1, { bits := 3 })] }).hart.regs
     (∃ e, e < r.vlen ∧ e < r.ftrim.toNat ∧ (r.rp 1).bits.getLsbD e = true) ∧
     (∀ e, e < r.vlen → e < r.ftrim.toNat → (r.rp 1).bits.getLsbD e = true)) ∧
    (let r := (withRegs fun r => { r with vlen := 0 }).hart.regs
     ¬ (∃ e, e < r.vlen ∧ e < r.ftrim.toNat ∧ (r.rp 1).bits.getLsbD e = true)) ∧
    vec.hart.frags.length < 8 ∧ 8 ≤ (withHart fun h => { h with frags := List.replicate 8 ⟨0, 1, 0⟩ }).hart.frags.length := by
  refine ⟨⟨⟨127, by decide +kernel⟩, fun h => absurd (h 0 (by decide +kernel) (by decide +kernel)) (by decide +kernel)⟩,
    ⟨⟨1, by decide +kernel⟩, fun e h _ => ?_⟩, fun ⟨e, h, _⟩ => absurd h (Nat.not_lt_zero _), by decide +kernel, by decide +kernel⟩
  have h : e < 2 := h
  match e, h with
  | 0, _ => decide +kernel
  | 1, _ => decide +kernel
theorem witness_fragments : vec.hart.frags = [] ∧ (withHart fun h => { h with frags := [⟨8, 1, 3⟩] }).hart.frags = ⟨8, 1, 3⟩ :: [] ∧
    (withHart fun h => { h with phase := .branch 0 8, slot := .waiting }).hart.phase = .branch 0 8 ∧ 0 ≤ vec.now.toNat := by decide +kernel

/-! ## Members -/

/-- The ungoverned and a governed member's fields. -/
def g0 : Gov := ⟨0, false, false⟩
def g1 : Gov := ⟨1, false, false⟩
/-- A hart whose registers carry a tag, with as many elements as 64 bits allow. -/
def typed (t : Tag) : State := withRegs fun r => { r with vlen := 64, v := (List.range 16).map fun i => (i, { tag := t }) }
/-- The same with v2 of another tag. -/
def typed2 (t u : Tag) : State := (typed t).modRegs fun r => r.wv 2 { tag := u }

/-- The checks of R99 pass on a member of every kind. -/
theorem witness_members : (∀ i ∈ [Instr.vadd g0 1 2 (.v 3) false .dyn, .vsub g0 1 2 (.s 3) false .dyn, .vmul g0 1 2 (.v 3) true .dyn,
      .vmulh g0 1 2 (.v 3), .vfma g0 1 2 3 4 false .dyn, .vfms g0 1 2 3 4 false .dyn, .vnfma g0 1 2 3 4 false .dyn,
      .vdiv g0 1 2 (.v 3) false .dyn, .vsqrt g0 1 2 .dyn, .vrcp g0 1 2 .dyn, .vrsq g0 1 2 .dyn, .vexp2 g0 1 2 .dyn, .vlog2 g0 1 2 .dyn,
      .vtanh g0 1 2 .dyn, .vmin g0 1 2 (.v 3), .vmax g0 1 2 (.v 3), .vabs g0 1 2 false, .vneg g0 1 2 false, .vand g0 1 2 (.v 3),
      .vor g0 1 2 (.v 3), .vxor g0 1 2 (.v 3), .vnot g0 1 2, .vshl g0 1 2 (.v 3) false, .vshr g0 1 2 (.v 3), .vrot g0 1 2 (.v 3) false,
      .vclz g0 1 2, .vpopc g0 1 2, .vclmul g0 1 2 (.v 3) false, .vcmp g0 1 2 (.v 3) .lt, .vsel g0 1 2 3 4, .vcvt g0 1 2 .fp16 false .dyn,
      .vscale g0 1 2 (.v 3) .dyn, .vqnt g0 1 2 .mxe4m3 .dyn, .vmov g0 1 2, .vsplat g0 1 2 .int32, .viota g0 1 2 .int32 false,
      .vtag 1 .int32, .vtagq 5 1, .psetc g0 1 2, .pand g0 1 2 3, .por g0 1 2 3, .pxor g0 1 2 3, .pnot g0 1 2, .pandn g0 1 2 3,
      .ppack 1 2 false, .punpack 1 2 true, .pmovs 5 1 6, .vperm g0 1 2 3 false, .vput g0 1 2 3 4, .vslu g0 1 2 3 false,
      .vsld g0 1 2 3 true, .vcomp g0 1 2 3, .vexpd g0 1 2, .vred g0 .sum false false .dyn 1 2 0 3, .vscan g0 .sum false false .dyn 1 2,
      .vconf g0 1 2 3, .vzip g0 1 2 3 false false, .vunzip g0 1 2 3 true false, .vbcast g0 1 2 3 false, .vexts g0 1 2 3 false,
      .vinss g0 1 2 3, .plead g0 1 2, .pnum g0 1 2, .vld g0 1 0 2 0 false false, .vlds g0 1 0 2 3 true false,
      .vldx g0 1 0 2 3 false false, .vst g0 1 0 2 0, .vsts g0 1 0 2 3, .vstx g0 1 0 2 3, .vlsx g0 1 0 2 3, .vssx g0 1 0 2 3,
      .vldh g0 1 0 2 3 false, .vpf 0 2 3, .vamo g0 .add .rlx 1 0 2 3, .bsetl 1 2, .balloc 1 2, .bplane 1 2, .brlk 1 2 3, .brul 1 2,
      .bldp 1 2 3 false false, .bstp 1 2 3 false, .btov 1 2 3 false, .vtob 1 2 3 false false, .bnot 1 2, .band 1 2 3, .bor 1 2 3,
      .bxor 1 2 3, .bmaj 1 2 3 4, .badd 1 2 3 false false, .bsub 1 2 3 false true, .bmulc 1 2 3 false, .bmac 1 2 3 false,
      .bmact 1 2 3 true, .bcmp 1 2 3 .lt false, .bsel 1 2 3 4, .bshl 1 2 3 false, .bshr 1 2 3 false true, .bred 1 2, .bseal 1,
      .bnext 1, .bwait 1, .cpy 0 1 2 3 0 4, .cpy2d 0 1 2 3 0 4 5 6, .cpyd 0 1 2 3 4 5 6, .cpye 0 1 2 3 0 4 5, .cwait 1 2, .cstat 1 2 3], MemberAdmitted vec i) ∧ MemberAdmitted lev1 (.ckey 0 1 2) ∧
    (∀ i ∈ [Instr.tshape 1 2 3 4 .fp16, .mma g0 0 1 8, .mmas g0 0 1 8, .mxzero 1, .mxext g0 1 0 2 .fp32 false false .dyn,
      .mxins g0 0 1 2, .mxpert 1], MemberAdmitted mat i) := by
  refine ⟨?_, ?_, ?_⟩ <;> unfold MemberAdmitted <;> decide

theorem witness_polymorphic : (∀ t ∈ [Tag.int8, .int32, .uint64, .fp16, .fp32, .fp64], let s := typed t
      promote t (s.opbTag t (.v 2)) = some t ∧ promote3 t t t = some t ∧
      OperandsAdmitted s (s.readsOf 1 (.v 2) none) 3 t (tagFloat t) .dyn ∧
      OperandsAdmitted s (s.readsOf 1 (.v 2) (some 4)) 3 t (tagFloat t) .sr ∧
      OperandsAdmitted s (s.readsOf 1 (.s 2) none) 3 t (tagFloat t) .rtz ∧ LanesSound s 35 ∧ LanesSound s 36 ∧ LanesSound s 37) ∧
    (let s := typed2 .int8 .fp32
     promote .int8 (s.opbTag .int8 (.v 2)) = some .fp32 ∧ OperandsAdmitted s (s.readsOf 1 (.v 2) none) 3 .fp32 true .dyn) ∧
    tagInt .int8 = true ∧ (tagInt .fp64 || tagFn .fp64 || Tag.fp64 == .fp64) = true := by
  unfold OperandsAdmitted FormatsAdmitted RoundingGiven LengthsFit RegistersSound LanesSound; dsimp only; decide +kernel
theorem witness_unary : (∀ t ∈ [Tag.fp16, .fp32], let s := typed t
      tagFn t = true ∧ (!tagMx t) = true ∧ OperandsAdmitted s [(1, (s.src.rv 1).tag)] 3 (s.src.rv 1).tag true .dyn ∧
      LanesSound s 37 ∧ LanesSound s 38) ∧
    (∀ t ∈ [Tag.int8, .uint32], let s := typed t
      bitTags t t = true ∧ intTags t t = true ∧ OperandsAdmitted s (s.readsOf 1 (.v 2) none) 3 t false .dyn ∧ LanesSound s 35 ∧
      LanesSound s 39) ∧ ((Tag.uint32 == .uint32 && tagInt .uint32 && !tagSigned .uint32 && Tag.uint32 != .uint4) = true) := by
  unfold OperandsAdmitted FormatsAdmitted RoundingGiven LengthsFit RegistersSound LanesSound; dsimp only; decide +kernel
theorem witness_conversions : (let s := typed .fp32
     promote .fp32 .fp32 = some .fp32 ∧ LanesSound s 35 ∧ LanesSound s 40 ∧ tagMx .fp16 = false ∧ (tagWidth .fp32 ≤ 4 * tagWidth .e4m3) ∧
      (tagWidth .e4m3 ≤ 4 * tagWidth .fp32) ∧ OperandsAdmitted s [(1, .fp32)] 3 .e4m3 true .dyn ∧ qntSource Tag.fp32 = true ∧
      tagMx .mxe4m3 = true ∧ OperandsAdmitted s [(1, .fp32)] 3 .mxe4m3 true .dyn ∧ OperandsAdmitted s [] 3 .int32 false .dyn ∧
      OperandsAdmitted s (s.readsOf 1 (.s 2) none) 3 .fp32 true .dyn) ∧
    (let s := (typed2 .mxe4m3 .int8).modRegs fun r => { r with vlen := 64 }
     tagMx .mxe4m3 = true ∧ tagInt (s.src.rv 2).tag = true ∧ OperandsAdmitted s (s.readsOf 1 (.v 2) none) 3 .mxe4m3 false .dyn) := by
  unfold OperandsAdmitted FormatsAdmitted RoundingGiven LengthsFit RegistersSound LanesSound; dsimp only; decide +kernel
/-- Merging: results at the first and the last position of a grant, with elements active and with none. -/
theorem witness_merge : let s := typed .fp32
    0 < s.hart.lanes ∧ s.hart.lanes ≤ 64 ∧ ([(0, 5), (127, 6)].map (Prod.fst : Nat × Nat → Nat)).Nodup ∧
    (∀ x ∈ [(0, 5), (127, 2 ^ 32 - 1)], x.1 < s.hart.lanes * (1024 / tagWidth .fp32) ∧ x.2 < 2 ^ tagWidth .fp32) ∧
    s.anyActive g0 = true ∧ s.anyActive g1 = false ∧ ([(0, true), (16383, false)].map (Prod.fst : Nat × Bool → Nat)).Nodup := by
  decide +kernel
theorem witness_tags : let s := typed .fp32
    FormatsAdmitted s [.uint64] ∧ FormatsAdmitted s [.mxe4m3] ∧ tagMx .mxe4m3 = true ∧ tagMx (s.src.rv 1).tag = false ∧
    s.belowLimit 5 7 = false ∧ LanesSound s 35 ∧ s.actives g1 [] = [] ∧ s.actives g0 [] ≠ [] ∧ s.anyActive g0 = true ∧
    s.anyActive g1 = false ∧ RegistersSound s [1] ∧ 0 < s.hart.lanes ∧ s.hart.lanes ≤ 64 := by
  unfold FormatsAdmitted RegistersSound LanesSound; dsimp only; decide +kernel
/-- Moves: v2 holds positions; an element live at the last position of VLEN, and none past it. -/
theorem witness_moves : let s := typed2 .fp32 .int32
    tagMx .fp32 = false ∧ tagInt (s.src.rv 2).tag = true ∧ OperandsAdmitted s [(1, .fp32), (2, .int32)] 3 .fp32 false .dyn ∧
    OperandsAdmitted s [(1, .fp32)] 3 .fp32 false .dyn ∧ LanesSound s 41 ∧ LanesSound s 42 ∧ s.actives g0 [32, 32] ≠ [] ∧
    s.actives g1 [32, 32] = [] ∧ (63 < s.vlenOf 32 ∧ s.isActive g0 63 = true) ∧ ¬ (64 < s.vlenOf 32 ∧ s.isActive g0 64 = true) ∧
    FormatsAdmitted s [.fp32] ∧ LengthsFit s [(1, 32)] ∧ RegistersSound s [1] ∧ s.belowLimit 5 64 = false ∧
    (63 < s.hart.lanes * (1024 / tagWidth .fp32)) ∧ (s.src.rv 4).tag = (s.src.rv 1).tag := by
  unfold OperandsAdmitted FormatsAdmitted RoundingGiven LengthsFit RegistersSound LanesSound; dsimp only; decide +kernel
theorem witness_reductions : let s := (typed .int32).modRegs fun r => (r.wv 4 { tag := .int64 })
    accTag .sum .int32 = some .int64 ∧ FormatsAdmitted s [.int32, .int64, .int64] ∧ RoundingGiven s (redRounds .sum .int64) .dyn ∧
    LengthsFit s [(1, 32)] ∧ RegistersSound s [1, 4] ∧ LanesSound s 42 ∧ (s.src.rv 4).tag = .int64 ∧ s.actives g0 [32] ≠ [] ∧
    s.actives g1 [32] = [] ∧ s.belowLimit 5 0 = false ∧ OperandsAdmitted s [(1, .int32)] 3 .int64 (redRounds .sum .int64) .dyn ∧
    tagMx .int32 = false := by
  unfold OperandsAdmitted FormatsAdmitted RoundingGiven LengthsFit RegistersSound LanesSound; dsimp only; decide +kernel

/-! ## Members of memory, matrix, banks and copies -/

/-- A hart whose base register s6 names an address, and v2 holds offsets. -/
def based (a : Word) : State := (data.ws 6 a).modRegs fun r => { r with vlen := 64, v := [(2, { tag := .int32 })] }
/-- The probe of a unit-stride access of 32-bit elements. -/
def unitProbe (k : Access) (s : State) : Probed :=
  probe s k (s.items .unit 32 none ((s.vmActives g0 32 .unit).map fun e => (e, s.elemAddr .unit (s.vbase 6 0) 32 e))) s.walks

theorem witness_vector_loads : RegistersSound (based 0x1000) [2] ∧ LanesSound (based 0x1000) 43 ∧ LanesSound (based 0x1000) 44 ∧
    LengthsFit (based 0x1000) [(1, 32), (2, 32)] ∧ tagInt ((based 0x1000).src.rv 2).tag = true ∧
    ((unitProbe .read (based 0x1000)).bad.isNone &&
      (let u := (based 0x1000).probed (unitProbe .read (based 0x1000))
       good (u.ensureAll (u.itemSectors (unitProbe .read (based 0x1000)).good)))) = true ∧
    (unitProbe .read (based 0x20000)).bad.map (fun x => (x.1, x.2.1)) = some (0, 0x08) ∧
    (unitProbe .read (based 0xFFFC)).bad.map (fun x => (x.1, x.2.1)) = some (1, 0x08) ∧
    (unitProbe .read (based 0x1001)).bad.map (fun x => (x.1, x.2.1)) = some (0, 0x0B) ∧
    (let s := based 0xFFFC
     let pr := unitProbe .read s
     let u := (s.probed pr).modRegs fun r => { r with ftrim := BitVec.ofNat 16 1 }
     good (u.ensureAll (u.itemSectors (pr.good.filter fun x => decide (x.1.e < 1)))) = true) ∧
    (unitProbe .write (based 0x1000)).bad.isNone = true ∧
    (unitProbe .write (based 0x20000)).bad.map (fun x => (x.1, x.2.1)) = some (0, 0x08) := by
  refine ⟨?_, ?_, ?_, ?_, ?_, ?_, ?_, ?_, ?_, ?_, ?_, ?_⟩
  all_goals first | decide +kernel | (unfold RegistersSound; decide +kernel) | (unfold LanesSound; decide +kernel) |
    (unfold LengthsFit; decide +kernel)

/-- A predicate bound to a copy whose first chunk is there. -/
def chunked : State := (based 0x1000).modRegs fun r => { r with
  p := [(1, { bits := 1, bind := some { base := 0x1000, code := 0, copy := 1, keys := [(0, 0)] } })] }
theorem witness_chunks : let s := chunked
    let cs := s.chunkActives g1 32 .unit (s.vbase 6 0)
    let pr := probe s .read (s.items .unit 32 none ((cs.map Prod.fst).map fun e => (e, s.elemAddr .unit (s.vbase 6 0) 32 e))) s.walks
    cs ≠ [] ∧ pr.bad.isNone = true ∧
    good (((s.probed pr).chunkRefresh g1 pr.good).finishLoad (!(cs.map Prod.fst).isEmpty) g1 1 .fp32 pr.good) = true := by
  decide +kernel

theorem witness_scratchpad : (let s := based 0
     (s.vmActives g0 32 (scratchForm 0)).all (fun e => let a := s.elemAddr (scratchForm 0) (s.vbase 6 0) 32 e
       decide (a.toNat % elemBytes 32 = 0) && decide (a.toNat + elemBytes 32 ≤ 16384)) = true) ∧
    (let s := based 1
     (s.elemAddr (scratchForm 0) (s.vbase 6 0) 32 0).toNat % elemBytes 32 ≠ 0) ∧
    (let s := based 16384
     (s.elemAddr (scratchForm 0) (s.vbase 6 0) 32 0).toNat % elemBytes 32 = 0 ∧
     16384 < (s.elemAddr (scratchForm 0) (s.vbase 6 0) 32 0).toNat + elemBytes 32) ∧
    LanesSound (based 0) 45 ∧ LanesSound (based 0) 46 ∧ RegistersSound (based 0) [1, 2] ∧ LengthsFit (based 0) [(1, 32), (2, 32)] ∧
    (let s := based 0x1000
     (probe s .rw (s.items (.indexed 2) 32 none ((s.vmActives g0 32 (.indexed 2)).map fun e =>
       (e, s.elemAddr (.indexed 2) (s.vbase 6 0) 32 e))) s.walks).bad.isNone = true) ∧
    back.hart.phase = .returned 0 [] ∧ (VAmoOp.fn .add .uint32).isSome = true := by
  refine ⟨?_, ?_, ?_, ?_, ?_, ?_, ?_, ?_, ?_, ?_⟩
  all_goals first | decide +kernel | (unfold LanesSound; decide +kernel) | (unfold RegistersSound; decide +kernel) |
    (unfold LengthsFit; decide +kernel)

/-- A hart in matrix mode whose registers carry a tag. -/
def tiles (t u : Tag) : State := mat.modRegs fun r => { r with
  tshm := 4, tshn := 4, tshk := 8, v := (1, { tag := t }) :: (List.range 8).map fun i => (8 + i, { tag := u }) }
theorem witness_matrix : (∀ x ∈ [(Tag.fp16, Tag.fp16, false), (.int4, .tern, true)],
      (∀ b ∈ (eight 8).map (tiles x.1 x.2.1).src.rv, b.tag = x.2.1) ∧
      FormatsAdmitted (tiles x.1 x.2.1) [x.1, x.2.1, if x.2.2 then .int32 else .fp32] ∧ mmaPair x.1 x.2.1 = some x.2.2 ∧
      (tiles x.1 x.2.1).hart.regs.tshk ≤ kmax x.1) ∧
    mmasPair .mxint8 .mxint8 = some false ∧ (tiles .mxint8 .mxint8).hart.regs.tshk ≤ kmax .mxint8 ∧
    FormatsAdmitted (tiles .mxint8 .mxint8) [.mxint8, .mxint8, .fp32] ∧
    RegistersSound mat (1 :: eight 8) ∧ mat.hart.regs.badAcc = [] ∧ LanesSound mat 47 ∧ LanesSound mat 48 ∧
    (tiles .fp16 .fp16).anyActive g0 = true ∧ (tiles .fp16 .fp16).anyActive g1 = false ∧ mat.hart.regs.mxpcmd.getLsbD 0 = false ∧
    mmaPair .fp32 .fp16 = none ∧ mmasPair .fp32 .fp32 = none ∧ extTag false .fp16 = true ∧ extTag true .int8 = true ∧
    RoundingGiven mat true .dyn ∧ (mat.src.rv 2).tag = .fp32 ∧ 16 * mat.hart.lanes ≤ 1024 ∧
    (let s := (tiles .fp16 .fp16).modRegs fun r => { r with badAcc := [(0, 0, 0)] }
     0 < s.hart.regs.tshm ∧ 0 ∈ (List.range s.hart.regs.tshn).filter (fun j => s.isActive g0 j) ∧
     (0, 0, 0 % s.hart.regs.lanes) ∈ s.hart.regs.badAcc ∧ 0 ∈ s.actives g0 [16] ∧ (s.src.rs 0).toNat + 0 / (16 * s.hart.lanes) < s.hart.regs.tshm) ∧
    (1 : Word) &&& ~~~mxpMask = 0 ∧ (0xFFFFFFFFFFFFFFFF : Word) &&& ~~~mxpMask ≠ 0 ∧ mat.belowLimit 5 0 = false := by
  unfold FormatsAdmitted RegistersSound LanesSound RoundingGiven; decide +kernel

/-- A grant of one group with rows 0 to 11 locked, four planes of four bits and one of one. -/
def banked : State := ((({ data with mem := (List.range 12).foldl (fun m f => m.write (Config.ownerTableOff + f) 0) data.mem } : State).modGang
    data.hart.gangKey fun g => { g with an := 1, grant := 1 }).modStack 0 fun t => { t with
      locks := [(0, { gang := data.hart.gangKey, log := 0, die := 0, kl := 0, a0 := 0, an := 1, row := 0, rows := 12, effective := true, lease := 100 })] }).modRegs fun r => { r with
        vlen := 16
        v := [(1, { tag := .int4 })]
        bp := [(1, 0x004000000 + 0x0 * 2 ^ 32), (2, 0x04000000 + 4 * 2 ^ 32), (3, 0x04000000 + 4 * 2 ^ 32), (4, 0x01000000 + 8 * 2 ^ 32)] }
theorem witness_planes : let s := banked
    let r := s.src.rb
    lowest (s.planeFaults (some (r 2)) [r 3] [r 2] false true [] false false false) = none ∧
    lowest (s.planeFaults (some (r 2)) [r 3, r 2] [r 2] false (planeWidth (r 3) == planeWidth (r 2)) [] false false false) = none ∧
    lowest (s.planeFaults (some (r 1)) [r 2] [r 1] true true [] false false false) = none ∧
    lowest (s.planeFaults (some (r 4)) [r 2, r 3] [r 4] false (planeWidth (r 4) == 1) [] false false false) = none ∧
    lowest (s.planeFaults (some (r 2)) [r 9] [r 2] false true [] false false false) = some 1 ∧
    lowest (s.planeFaults (some (r 2)) [r 4] [r 2] false (planeWidth (r 4) == planeWidth (r 2)) [] false false false) = some 3 := by
  decide +kernel
theorem witness_bank_control : (banked.gang banked.hart.gangKey).torn = false ∧
    (vec.stack 0).gangLocks vec.hart.gangKey = [] ∧ (banked.stack 0).gangLocks banked.hart.gangKey ≠ [] ∧
    (128 : Nat) ≤ 128 ∧ 2944 + 128 ≤ 3072 ∧ 2944 / 256 = (2944 + 128 - 1) / 256 ∧ (vec.stack 0).freeLock ≠ none ∧
    980 + 12 ≤ 992 ∧ banked.lockAt banked.hart.gangKey 0 12 = some 0 ∧ banked.lockAt banked.hart.gangKey 0 11 = none ∧
    planeValid (0x04000000 + 988 * 2 ^ 32) = true ∧ planeValid (0x04000000 + 989 * 2 ^ 32) = false ∧
    (banked.log 0).bankOut = 0 ∧ ((banked.modLog 0 fun l => { l with bankOut := 1 }).log 0).bankOut ≠ 0 ∧
    (∀ n ∈ [1, 4], planeWidth (banked.src.rb (BitVec.ofNat 5 n)) ≠ 0 ∧
      (0 : Int) ≤ planeBase (banked.src.rb (BitVec.ofNat 5 n)) + planeWidth (banked.src.rb (BitVec.ofNat 5 n)) * banked.src.bstride.toInt) ∧
    planeWidth (banked.src.rb 9) = 0 := by decide +kernel
/-- The parts of a member's operands in banks: what a translation gives. -/
def given {α : Type} : Res α → Option α
  | .ok a => some a
  | _ => none
theorem witness_bank_transfers : (let s := banked
     let p := s.src.rb 2
     let as := (granuleStarts 0 (planeBytes p 100)).map fun x => (1, BitVec.ofNat 64 x)
     let pages (ps : List (Nat × Bool)) := ps.map fun y => y.1 / 4096 * 4096
     (∀ k ∈ [Access.read, .write], ((given (translateAll s k as s.walks)).map fun x => pages x.1) = some [0]) ∧
     homeOf 0 = s.stk ∧ lowest (s.planeFaults (some p) [] [p] false true [frameOf 0] false false false) = none ∧
     lowest (s.planeFaults none [p] [] false true [frameOf 0] true false false) = none ∧
     lowest (s.planeFaults none [p] [] false true [] true false true) = some 13 ∧
     (100 : Word).toNat ≤ 524288 * (s.gang s.hart.gangKey).grant ∧ 524288 * (s.gang s.hart.gangKey).grant < (524289 : Word).toNat ∧
     tagWidth (planeTag p) = 4 ∧ (0 : Word).toNat % 1 = 0 ∧ tagWidth (planeTag (BitVec.ofNat 128 (256 * tagCode .int16))) = 16 ∧
     LengthsFit s [(1, 4)] ∧ RegistersSound s [1] ∧ (s.src.rv 1).tag = planeTag p ∧ (s.src.rv 2).tag ≠ planeTag p ∧
     lowest (s.planeFaults none [p] [] false true [] false (decide (524288 < 524272 + s.hart.regs.vlen)) false) = none ∧
     lowest (s.planeFaults none [p] [] false true [] false false false) = none ∧ s.hart.phase = .run ∧ 0 < s.hart.regs.vlen) ∧
    (let s := back.modHart fun h => { h with results := [(bankResults, 3)] }
     s.hart.phase = .returned 0 [] ∧ s.hart.bankWord = some 3) ∧
    back.hart.phase = .returned 0 [] ∧ back.hart.bankWord = none ∧ 0 < back.hart.regs.vlen ∧ (lowest [(true, 8)] = some 8) ∧
    (1 : Word).toNat % (16 / 8) ≠ 0 := by
  unfold LengthsFit RegistersSound; decide +kernel

/-- A hart with the operands of copies: source, destination, length, and a valid key slot and remote entry. -/
def copying : State := ((data.ws 1 0x2000).ws 2 0x1000).ws 3 4096 |>.modStack 0 fun t => { t with
  keySlots := [(0, { valid := true, domain := 0 })], remote := [(0, 0x30001)] }
theorem witness_copies : (copying.core 0).queued < 128 ∧ copying.slotBusy 0 = false ∧
    ([(4096 == 0 || decide (2 ^ 32 < 4096), 2), (badRange 0x1000 4096 || badRange 0x2000 4096, 3)].find? fun r => r.1) = none ∧
    ([(0 == 0 || decide (2 ^ 32 < 0), 2), (badRange 0x1000 0 || badRange 0x2000 0, 3)].find? fun r => r.1) = some (true, 2) ∧
    badRange 0x1000 (4112 * ceilDiv 4096 4096) = false ∧ ((copying.stack 0).keySlots.look 0 {}).valid = true ∧
    remoteValid ((copying.stack 0).remoteWord 0 0) = true ∧ remoteDomain ((copying.stack 0).remoteWord 0 0) = 0 ∧
    remoteRight ((copying.stack 0).remoteWord 0 0) 0 = true ∧ remoteRight ((copying.stack 0).remoteWord 0 0) 1 = true ∧
    128 ≤ ((copying.modCore 0 fun c => { c with copies := List.replicate 128 { instr := .fence, serial := 0, log := 0, slot := 0, domain := 0, stk := 0 } }).core 0).queued ∧
    (∀ k ∈ (List.range 32).filter fun k => (0xFFFFFFFF : Word).getLsbD k,
      ¬ (((copying.log 0).copies.look k {}).state = 1 ∨ ((copying.log 0).copies.look k {}).state = 2)) ∧
    (let s := copying.modLog 0 fun l => { l with copies := [(31, { state := 1 })] }
     (s.log 0).copies.look 31 {} = { state := 1 } ∧ s.slotBusy 31 = true) := by decide +kernel

/-- Convoys at their commit point: with scalar results, one of them below SPLIM, and with none. -/
def ending (es : List Effect) : State := withHart fun h => { h with regs := { h.regs with splim := 64 }, cv := { active := true, count := 1, effects := es } }
theorem witness_convoys : (∀ es ∈ [[], [Effect.scalar 5 7 false], [Effect.scalar 2 7 true]], let s := ending es
      s.hart.cv.active = true ∧ (∀ e ∈ s.hart.cv.effects, e.waits = false) ∧ s.fits s.hart.cv.effects.reverse = true ∧
      (commitAll s s.hart.cv.sent [] s.hart.cv.effects.reverse).2.2.2.2 = none ∧
      (commitAll s s.hart.cv.sent [] s.hart.cv.effects.reverse).2.1 = []) ∧
    (writeScalars (ending []) none [.scalar 5 7 false]).2 = none ∧ (writeScalars (ending []) none [.scalar 2 7 true]).2 = some 7 ∧
    (ending []).hart.cv.effects = [] := by decide +kernel


/-! ## Events -/

/-- The module after a time. -/
def later (n : Nat) (s : State) : State := { s with ticks := BitVec.ofNat 64 n }
/-- Stack 0 changed. -/
def stk0 (f : Stack → Stack) (s : State) : State := s.modStack 0 f

/-- Contexts with an overrun region, a request, a timed wait, a home operation and a full log. -/
theorem witness_contexts : ContextsKeyed vec ∧ vec.ctx 0 = some vec.hart ∧
    (let s := later Config.npBound (withHart fun h => { h with npSince := some 0 })
     s.hart.npSince = some 0 ∧ 0 + Config.npBound ≤ (s.time 0).toNat) ∧
    (let s := later (Config.npBound - 1) (withHart fun h => { h with npSince := some 0 })
     (s.time 0).toNat < 0 + Config.npBound) ∧
    vec.hart.service = false ∧ vec.hart.resident = true ∧ vec.hart.inGang = false ∧ ganged.hart.inGang = true ∧
    (let h := (withHart fun h => { h with preempt := true }).hart
     h.preempt = true ∧ h.npSince = none ∧ h.atBoundary = true ∧ h.slot = .ready) ∧
    vec.hart.preempt = false ∧
    (let h := (withHart fun h => { h with phase := .event (some 0) }).hart
     h.phase = .event (some 0) ∧ 0 ≤ (vec.time h.stk).toNat) ∧
    (let h := (withHart fun h => { h with phase := .requested 3 }).hart
     h.phase = .requested 3 ∧ h.awaiting = 0) ∧
    (let h := (withHart fun h => { h with phase := .requested 3, awaiting := 1 }).hart
     h.phase = .requested 3 ∧ h.awaiting ≠ 0) ∧
    (let s := withHart fun h => { h with phase := .retry }
     (s.log 0).room false 1 = true ∧ s.hart.phase = .retry) := by unfold ContextsKeyed; decide +kernel
theorem witness_saves : (let s := withHart fun h => { h with slot := .draining }
     (s.select 0).hart.key = 0 ∧ (s.select 0).hart.slot = .draining ∧ (s.log 0).room false (s.select 0).hart.staging.length = true) ∧
    (let s := withHart fun h => { h with slot := .saving }
     s.ctx 0 = some s.hart ∧ s.hart.slot = .saving ∧ (s.core s.hart.core).resetWait = none) ∧
    (let s := withHart fun h => { h with slot := .saved }
     s.ctx 0 = some s.hart ∧ s.mayResume s.hart 0 3 = true ∧ (s.resumeGrant s.hart 0).isSome = true ∧ s.hart.inGang = false ∧
     s.hart.held = 0 ∧ 47 / 48 = s.hart.stk ∧ (s.core s.hart.core).images.look s.hart.slotNo 1 ≠ 0 ∧
     ((s.modCore s.hart.core fun c => { c with images := [(s.hart.slotNo, 0)] }).core s.hart.core).images.look s.hart.slotNo 1 = 0 ∧ s.resumeAll s.hart 1151 3 = none) ∧
    vec.hart.slot ≠ .saved ∧ vec.hart.service = false ∧
    ((vec.modCore 1151 fun c => { c with resetEnd := some 0 }).core 1151).resetEnd = some 0 := by decide +kernel

/-- An entry of the merge queue, and a stack whose horizon lies above it. -/
def entry (k : Key) (l : Nat) : MEntry := { key := k, body := .record 0x1000 1 5, origin := .publication l 0 }
def merging (l : Nat) : State := stk0 (fun t => { t with
  mq := [entry 1 l], beacons := (List.range 24).map fun j => (j, 1000, 1000) }) vec
theorem witness_beacons : (let s := vec
     (s.time 23).toNat % 64 = 0 ∧ (s.stack 23).beaconSent ≠ some (s.time 23).toNat) ∧ ((later 63 vec).time 0).toNat % 64 ≠ 0 ∧
    ((vec.stack 0).beaconAt.look 23 0 + 320 < ((later 321 vec).time 0).toNat) ∧ 23 ∉ (vec.stack 0).beaconLate ∧
    ((later 320 vec).time 0).toNat ≤ (vec.stack 0).beaconAt.look 23 0 + 320 := by decide +kernel
theorem witness_merge_queue : (stk0 (fun t => { t with inbound := [entry 1 0] }) vec).stack 0 = { vec.stack 0 with inbound := [entry 1 0] } ∧
    (vec.stack 0).inbound[0]? = none ∧ [entry 1 0][0]? = some (entry 1 0) ∧ (vec.stack 0).mq.length < 16384 ∧
    (List.replicate 16384 (entry 1 0)).length = 16384 ∧
    [(0, entry 1 0)].find? (fun e => decide (e.1 ≤ 0)) = some (0, entry 1 0) ∧ (vec.stack 0).refused.find? (fun e => decide (e.1 ≤ 0)) = none := by
  refine ⟨by decide +kernel, by decide, by decide, by decide, List.length_replicate, by decide, by decide⟩
theorem witness_merges : (let s := merging 7
     (s.stack 0).mq.find? (fun e => !(e.addrs.any (s.stack 0).heldFrame) && !e.isRelease) = some (entry 1 7) ∧ (s.stack 0).locks = [] ∧
     (entry 1 7).key.lt (s.stack 0).horizon = true ∧ s.lineGood 7 0 = true ∧ (entry 2000 7).key.lt (s.stack 0).horizon = false) ∧
    (let s := (merging 7).modLog 7 fun l => { l with base := 0x8000 }
     s.lineGood 7 0 = false) ∧
    (∀ eff ∈ [true, false], let l : RowLock := { gang := 9, log := 0, die := 0, a0 := 0, an := 1, row := 0, rows := 1, kl := 0, lease := 100, effective := eff }
     let s := stk0 (fun t => { t with locks := [(0, l)] }) (merging 7)
     (s.stack 0).nextMerge = some (entry 1 7) ∧ l.covers (frameOf 0x1000) = true ∧ (l.effective = true ∨ l.kl.lt (entry 1 7).key = true) ∧
     s.lineGood 7 0 = true ∧ (s.stack 0).deferred.length < 1024) := by
  decide +kernel

theorem witness_compaction : (let s := vec.modLog 0 fun l => { l with pt := 5, wt := 5 }
     (s.log 0).reclaimable = true ∧ (s.log 0).alive = true) ∧ (vec.log 0).reclaimable = false ∧
    (let s := withHart fun h => { h with phase := .deferredRead 0x1000 }
     s.harts.find? (fun h => h.core == 0 && h.phase == .deferredRead 0x1000) = some s.hart ∧
     (s.select s.hart.key).hart.key = s.hart.key ∧ (s.select s.hart.key).canServe 0x1000 = true) ∧
    (let s := stk0 (fun t => { t with locks := [(0, { gang := 9, log := 0, die := 0, a0 := 0, an := 1, row := 0, rows := 1, kl := 0,
                                                      lease := 100, effective := true })] })
       (withHart fun h => { h with phase := .deferredRead 0x1000 })
     s.harts.find? (fun h => h.core == 0 && h.phase == .deferredRead 0x1000) = some s.hart ∧ (s.select s.hart.key).hart.key = s.hart.key ∧
     (s.select s.hart.key).canServe 0x1000 = false) ∧
    (∀ h ∈ vec.harts, h.core = 0 → h.phase ≠ .deferredRead 0x1000) := by decide +kernel

/-- A core with one copy of 16 bytes, and with a chunk of it under way. -/
def copyOf (i : Instr) (fly : List Flight) : CopyCmd :=
  { instr := i, serial := 1, log := 0, slot := 0, domain := 0, stk := 0, dst := 0x2000, src := 0x1000, len := 16, fly := fly, x := 0x4000 }
def copier (i : Instr) (fly : List Flight) : State := data.modCore 0 fun c => { c with copies := [copyOf i fly] }
/-- What an engine's answer reads. -/
def readOf {α : Type} : Chunk α → Option α
  | .ok a _ => some a
  | _ => none
/-- The pages of a translation. -/
def pagesOf (r : Except (MemFault × Nat) (List (Nat × Nat × Nat)) × State) : List (Nat × Nat × Nat) :=
  match r.1 with
  | .ok ps => ps
  | .error _ => []
theorem witness_copy_engines : (vec.pickCopy 0 = none ∧ vec.copyHolds 0 = [] ∧ vec.doneChunk 0 = none ∧ vec.readyCkey 0 = none) ∧
    (let c := copyOf (.cpy 0 1 2 3 0 4) []
     let s := copier (.cpy 0 1 2 3 0 4) []
     let v := s.beginChunk 0 c 0
     s.pickCopy 0 = some c ∧ c.nextChunk = some 0 ∧ c.parts 0 = [(0x1000, 0x2000, 16)] ∧
     pagesOf (v.copyPages 0 c .read 0x1000 16) = [(0x1000, 0x1000, 16)] ∧ readOf (v.copyRead 0 c 0x1000 16) = some (List.replicate 16 0) ∧
     pagesOf (v.copyPages 0 c .write 0x2000 16) = [(0x2000, 0x2000, 16)] ∧
     (∀ i ∈ List.range 16, ∀ k ∈ List.range 16,
       placed [(0x2000, 0x2000, 16)] (0x2000 + i) = placed [(0x2000, 0x2000, 16)] (0x2000 + k) → i = k)) ∧
    (let s := copier (.cpy 0 1 2 3 0 4) [{ chunk := 0, key := some 3 }]
     s.doneChunk 0 = some (copyOf (.cpy 0 1 2 3 0 4) [{ chunk := 0, key := some 3 }], { chunk := 0, key := some 3 })) ∧
    (((copier (.cpy 0 1 2 3 0 4) []).modLog 0 fun l => { l with copies := [(0, { owner := 1 })] }).log 0).copies.look 0 {} = { owner := 1 } ∧
    ((copier (.ckey 0 1 2) []).readyCkey 0 = some (0, copyOf (.ckey 0 1 2) [])) ∧ (copyOf (.ckey 0 1 2) []).x.getLsbD 14 = true ∧
    (let c := { copyOf (.ckey 0 1 2) [] with x := 0x0100 }
     let s := (data.modCore 0 fun k => { k with copies := [c] }).modStack 0 fun t => { t with kwk := some 0 }
     s.readyCkey 0 = some (0, c) ∧ c.x.getLsbD 14 = false ∧ readOf (s.copyRead 0 c c.src.toNat 40) = some (List.replicate 40 0) ∧
     (s.stack 0).kwk = some 0) ∧
    (let c : CopyCmd := { copyOf (.cpyd 0 1 2 3 4 5 6) [] with dst := 0x4000, len := 4096 }
     let s := (data.modCore 0 fun k => { k with copies := [c] }).modStack 0 fun t => { t with keySlots := [(0, { valid := true, domain := 0, gen := 1 })] }
     s.pickCopy 0 = some c ∧ c.nextChunk = some 0 ∧ ((s.stack 0).keySlots.look 0 {}).gen ≠ c.gen ∧
     readOf ((s.beginChunk 0 c 0).copyRead 0 c 0x1000 4112) = some (List.replicate 4112 0) ∧
     pagesOf ((s.beginChunk 0 c 0).copyPages 0 c .write 0x4000 4096) = [(0x4000, 0x4000, 4096)]) := by
  decide +kernel
/-- Some list differs from a given one. -/
theorem some_other {α : Type} (x : List Byte) (a : α) : ∃ t, (if x = t then some a else none) = none :=
  ⟨0 :: x, if_neg (by simp)⟩
theorem witness_gcm (key : BitVec 256) (iv ct : List Byte) :
    (∃ tag, (gcmOpen key iv ct tag).isSome = true) ∧ ∃ tag, gcmOpen key iv ct tag = none := by
  unfold gcmOpen
  exact ⟨⟨_, by rw [if_pos rfl]; rfl⟩, some_other _ _⟩

/-- Launches in each state, and the range of the record. -/
def launching (x : LaunchState) (ws : List Word) : State := stk0 (fun t => { t with launches := [(0, { state := x, words := ws })] }) vec
theorem witness_launches : (let s := launching .waiting recd
     (s.launchAt 0 0).state = .waiting ∧ s.waitHolds 0 recd 0 = true ∧ s.waitHolds 0 recd 1 = true) ∧
    (let ws := recd.set 8 0x400000000000000 |>.set 9 1
     (launching .waiting ws).waitHolds 0 ws 0 = false) ∧
    (launching .running recd).launchOver 0 0 = false ∧ (launching .draining recd).launchOver 0 0 = true ∧
    ((launching .draining recd).launchAt 0 0).counts = false ∧
    ((launching .draining (recd.set 8 0x1000000000)).launchAt 0 0).counts = true ∧
    (launching .draining (recd.set 8 0x1000000000)).launchOver 0 0 = true ∧
    recStack recd 0 = true ∧ recRange recd = 10 ∧ recA recd 20 2 ≠ 2 ∧ (∀ t ∈ recTiles recd, 0 < t) := by decide +kernel
/-- An instance split by another stack, answered, frozen and spent. -/
def splitting : State := stk0 (fun t => { t with
  launches := [(0, { state := .running, words := recd.set 2 0 })], walkers := [(0, { state := .active, stop := 10 })]
  poolBase := some 0x100000, poolSize := some 0x40000000
  replies := [(5, some { state := .active })], frozen := [(7, { state := .active })] }) (vec.modStack 1 fun t => { t with
    walkers := [(3, { state := .held, bound := [0, 0, 48] })] })
theorem witness_instances : (let s := splitting
     (s.stack 1).walkers.find? (fun e => e.2.state == .held && e.2.bound.length == 3 && e.2.bound.take 2 == [0, 0]) =
       some (3, { state := .held, bound := [0, 0, 48] }) ∧
     1 ≠ 0 ∧ ((s.stack 0).walkers.look 0 {}).state = .active ∧ 2 ≤ ((s.stack 0).walkers.look 0 {}).rest ∧
     ((s.stack 0).walkers.look 0 {}).of 0 0 = true ∧ (s.launchAt 0 0).splits = true ∧ admits (s.launchAt 0 0).words 0 1 = true ∧
     (s.stack 0).replies = (5, some { state := .active }) :: [] ∧ (s.stack 0).frozen.find? (fun e => e.1 == 7) = some (7, { state := .active }) ∧
     (s.stack 0).frozen.find? (fun e => e.1 == 0) = none ∧
     freeIndex (s.stack 0).walkers 32 = some 1 ∧ (s.placeNext 0 0).isSome = true) ∧
    (let s := splitting.modStack 1 fun t => { t with walkers := [(3, { state := .held, bound := [0, 9, 48] })] }
     (s.stack 1).walkers.find? (fun e => e.2.state == .held && e.2.bound.length == 3 && e.2.bound.take 2 == [0, 9]) =
       some (3, { state := .held, bound := [0, 9, 48] }) ∧
     ((s.stack 0).walkers.look 9 {}).state ≠ .active) ∧
    (∀ e ∈ (vec.stack 1).walkers, ¬ (e.2.state = .held ∧ e.2.bound.length = 3 ∧ e.2.bound.take 2 = [0, 0])) ∧
    vec.placeNext 0 31 = none ∧ vec.idleChoice 0 = none ∧
    (vec.stack 0).replies = [] ∧ ((vec.stack 0).walkers.look 0 {}).state ≠ .spent ∧
    (let s := stk0 (fun t => { t with replies := [(31, none)] }) vec
     (s.stack 0).replies = (31, none) :: []) ∧
    (let s := stk0 (fun t => { t with walkers := [(31, { state := .spent })] }) vec
     ((s.stack 0).walkers.look 31 {}).state = .spent ∧ ((s.stack 0).walkers.look 31 {}).bound = []) := by decide +kernel
/-- What an idle core's choice names: stack, instance and the instance itself. -/
def choice (s : State) (g : Nat) : Option (Nat × Nat × Walker) := (s.idleChoice g).map fun x => (x.1, x.2.1, x.2.2.2)
theorem witness_splits :
    (let s := splitting
     choice s 48 = some (0, 0, { state := .active, stop := 10 }) ∧ 0 ≠ 48 / 48 ∧ freeIndex (s.stack 1).walkers 32 = some 0 ∧
     (s.holdEntry 1 0 0).isSome = true) ∧
    (let s := splitting.modStack 0 fun t => { t with launches := [(0, { state := .running, words := (recd.set 2 0).set 8 (1 <<< 37) })] }
     let t := (s.placeNext 0 0).getD s
     choice t 1 = some (0, 0, (t.stack 0).walkers.look 0 {}) ∧ freeIndex (t.stack 0).walkers 32 = some 1 ∧
     ((t.stack 0).walkers.look 0 {}).state = .active ∧ 2 ≤ ((t.stack 0).walkers.look 0 {}).rest ∧ (t.launchAt 0 0).splits = true) := by
  decide +kernel
theorem witness_placement : (let s := splitting.modLog 0 fun l => { l with used := true, stk := 0 }
    let x := (s.stack 0).walkers.look 0 {}
    let l := s.launchAt x.home x.launch
    recGang l.words < 2 ∧ recHarts l.words = 1 ∧ (s.startKey x.home l).le (s.stack 0).settled = true ∧ x.state = .active ∧
    x.next < x.stop ∧ l.state = .running ∧ s.coresHeld 0 x.home x.launch < recLimit l.words ∧
    ((coresOf 0).filter fun g => s.eligible g l.words).head? = some 0 ∧ (s.freeSlotsOf 0).head? = some 1 ∧
    s.freeLogId l.nextLog = some 1 ∧ s.freeRing 0 (2 ^ recLogSize l.words) = some 0x100000 ∧ s.hart.key ≠ 1) := by decide +kernel

theorem witness_tests : (let s := { later 6000000000 vec with bringUp := 6 }
     s.testFalls 1151 = true) ∧ vec.testFalls 0 = false ∧ vec.testOverdue 0 = false ∧
    (later 6600000000 (vec.modCore 1151 fun c => { c with testRun := some (5, 1) })).testOverdue 1151 = true ∧
    ((vec.modCore 1151 fun c => { c with testRun := some (0, 1) }).core 1151).testRun = some (0, 1) ∧
    (let s := withHart fun h => { h with phase := .testing 0 1 }
     (s.core 0).testRun = none ∧ s.captesting 0 = some s.hart ∧ s.ctx s.hart.key = some s.hart ∧ 0 ≤ (s.time s.hart.stk).toNat) ∧
    vec.captesting 0 = none ∧ (vec.stack 23).slotDue 0 0 = true ∧ (vec.stack 0).slotDue 0 11 = false ∧ (vec.stack 0).slotDue 2145 11 = true ∧
    (vec.time 0).toNat % 600000 = 0 ∧ (vec.stack 0).sensed ≠ some (vec.time 0).toNat := by decide +kernel
theorem witness_copy_retires : (let c := copyOf (.cpyd 0 1 2 3 4 5 6) []
    let s := ending [.copy c]
    s.hart.cv.active = true ∧ s.hart.cv.effects = [.copy c] ∧ (s.core s.hart.core).queued < 128) := by decide +kernel

/-! ## Banks -/

/-- A lock of rows 0 to 3 in group 0 by gang 1. -/
def lock4 (eff ending : Bool) : RowLock :=
  { gang := 1, log := 1, die := 0, a0 := 0, an := 1, row := 0, rows := 4, kl := 0, lease := 100, effective := eff, ending := ending }
/-- A bank member of gang 1 on die 0. -/
def bankOf (i : Instr) (g : Nat) : BankCmd :=
  { instr := i, stk := 0, gang := 1, log := 1, grant := g, a := 4 <<< 24, b := 4 <<< 24, d := 4 <<< 24 ||| 8 <<< 32 }
/-- Stack 0 with a queue, channels and locks, its beacons far. -/
def banks (q : List BankCmd) (run : Option BankCmd) (ls : List (Nat × RowLock)) : State := stk0 (fun t => { t with
  bcpq := q, channels := [(0, { run := run })], locks := ls, beacons := (List.range 24).map fun j => (j, 1000, 1000) }) vec

theorem witness_channels : ((banks [] none []).stack 0).nextBank 0 = none ∧
    (let t := (banks [bankOf (.bnot 1 2) 1] none []).stack 0
     (t.channels.look 0 {}).run = none ∧ t.bcpReset = none ∧ t.nextBank 0 = some (bankOf (.bnot 1 2) 1) ∧ (bankOf (.bnot 1 2) 1).grant ≠ 0) ∧
    ((banks [bankOf (.bnot 1 2) 0] none []).stack 0).nextBank 0 = some (bankOf (.bnot 1 2) 0) ∧ (vec.log 1).alive = true ∧
    (((banks [] (some (bankOf (.bnot 1 2) 1)) []).stack 0).channels.look 0 {}).run = some (bankOf (.bnot 1 2) 1) := by decide +kernel
theorem witness_grants : (let c := bankOf (.bsetl 1 2) 1
    let t := (banks [c] none []).stack 0
    (t.channels.look 0 {}).run = none ∧ t.bcpReset = none ∧
      (t.bcpq.find? fun c => c.die == 0 && c.isGrant).or (t.nextBank 0) = some c ∧ c.isGrant = true) := by decide +kernel

theorem witness_locks :
    ((banks [] none []).stack 0).lockReady 63 = none ∧
    ((banks [bankOf (.brlk 1 2 3) 1] none [(0, lock4 false false)]).stack 0).lockReady 0 = some (bankOf (.brlk 1 2 3) 1) ∧
    ((banks [bankOf (.brul 1 2) 1] none [(0, lock4 true false)]).stack 0).brulOf 0 = some (bankOf (.brul 1 2) 1) ∧
    (let s := later 1 (banks [] none [(0, lock4 true true)])
     (s.stack 0).brulOf 0 = none ∧ (s.stack 0).endedLock 0 = some (lock4 true true) ∧ s.bankKeyReady 0 = true) ∧
    (let s := stk0 (fun t => { t with heldTick := true }) (banks [] none [(0, lock4 true true)])
     (s.stack 0).brulOf 0 = none ∧ (s.stack 0).endedLock 0 = some (lock4 true true) ∧ s.bankKeyReady 0 = false) ∧
    ((banks [] none [(0, lock4 true false)]).stack 0).endedLock 0 = none ∧
    (later 99 (banks [] none [(0, lock4 true false)])).leaseOver 0 0 = none ∧
    (later 100 (banks [] none [(0, lock4 true false)])).leaseOver 0 0 = some (lock4 true false) ∧
    (later 65536 (banks [] (some (bankOf (.bnot 1 2) 1)) [])).channelStuck 0 0 = false ∧
    (let hung := (banks [] (some (bankOf (.bnot 1 2) 1)) []).hangChannel 0 0
     (later 65535 hung).channelStuck 0 0 = false ∧ (later 65536 hung).channelStuck 0 0 = true ∧
     ((hung.stack 0).channels.look 0 {}).hung ≠ none) ∧
    ((stk0 (fun t => { t with bcpReset := some 5 }) vec).stack 0).bcpReset = some 5 ∧ (vec.stack 0).bcpReset = none := by decide +kernel
theorem witness_computation : (∀ i ∈ [Instr.bnot 2 1, .badd 2 1 3 false true],
      (((banks [] (some (bankOf i 1)) []).stack 0).channels.look 0 {}).run = some (bankOf i 1)) ∧
    (let c := bankOf (.bnot 2 1) 1
     planeWidth c.a = planeWidth c.d ∧ 0 < planeWidth c.a ∧ planeWidth c.b = planeWidth c.d) ∧
    planeWidth { bankOf (.bcmp 2 1 3 .eq true) 1 with d := 1 <<< 24 }.d = 1 ∧
    ([1, 2] : List Row).length = ([3, 4] : List Row).length := by decide +kernel

/-! ## Residency, time, buffers and the control space -/

theorem witness_residency : (vec.stack 0).resCmd = none ∧ ((stk0 (fun t => { t with resCmd := some 1 }) vec).stack 0).resCmd = some 1 ∧
    ((vec.stack 0).moveResident 0 1).isSome = true ∧ (vec.stack 0).moveResident 0 0 = none ∧
    (Config.stackSlot / 65536 * 23 + 5) / (Config.stackSlot / 65536) = 23 ∧
    (Config.stackSlot / 65536 * 23 + 5) % (Config.stackSlot / 65536) < Config.homeBytes / 65536 ∧ Config.stackSlot / 65536 * 23 + 5 < 2 ^ 32 ∧
    (List.range 4608).find? (fun i => !(((vec.stack 23).residency.look i 0).getLsbD 0)) = some 0 ∧ (vec.stack 23).residency = [] := by decide +kernel

theorem witness_time_beacons : ((later 1 vec).time 0).toNat % 65536 ≠ 0 ∧
    ((later 65536 vec).time 0).toNat % 65536 = 0 ∧ ((later 65536 vec).stack 0).timeSent ≠ some 65536 ∧
    (let s := later 131072 vec
     (s.stack 1).timeLate = false ∧ (s.stack 1).timeBeacon + 131072 ≤ (s.time 1).toNat) ∧
    ((later 131071 vec).time 1).toNat < ((later 131071 vec).stack 1).timeBeacon + 131072 := by decide +kernel

/-- A frozen buffer in stack 0. -/
def frozen0 : State := stk0 (fun t => { t with pfb := { frozen := true } }) vec
theorem witness_buffers : (vec.stack 0).pfb.frozen = false ∧ (frozen0.stack 0).pfb.frozen = true ∧ vec.stopped = false ∧
    { vec with bringUp := 6 }.bringUp = 6 ∧ vec.bringUp ≠ 6 ∧ { vec with spdm := true }.spdm = true ∧ vec.spdm = false ∧
    0xFC0 % 8 = 0 ∧ 0xF80 + 8 * 16 ≤ 0x1000 := by decide +kernel
/-- Channel 0 of stack 0 bound to a descriptor at 0x4000 of domain 0 with rings of 16 at 0x5000 and 0x6000. -/
def bound (up : List (List Byte)) (head : Option (List Byte)) (m : List Byte) : State :=
  { stk0 (fun t => { t with
      chans := [(0, { binding := 0x8000000000004000, doorbells := [(1 + (if head.isSome then 1 else 0), 3, 0)], head := head, up := up })]
      beacons := (List.range 24).map fun j => (j, 1000, 1000) }) vec with
    bringUp := 6
    mem := ((vec.mem.writeN 0x4000 8 0x5000).writeN 0x4008 8 0x6000).writeList (if head.isSome then 0x5040 else 0x5000) m
      |>.writeN 0x5408 8 (if head.isSome then 1 else 0) }
theorem witness_control : 8 % 8 = 0 ∧ 7 % 8 ≠ 0 ∧ { vec with bringUp := 4 }.bringUp = 4 ∧ vec.warm = false ∧ { vec with warm := true }.warm = true ∧
    ContextsKeyed vec ∧ vec.bindingOk 0 63 0x8000000000004000 = true ∧
    { bound [] none [] with tdis := [(0, .run)] }.bindingOk 0 0 0 = false ∧
    0x100 ≤ 0x138 ∧ counterOffset 0x138 = true ∧ counterOffset 0x140 = false := by unfold ContextsKeyed; decide +kernel

/-! ## Ports, channels and the network -/

/-- The module ready for its ports, with the links of the first three stacks up. -/
def opened (s : State) : State := (List.range 3).foldl (fun s k => s.modStack k fun t => { t with links := [(0, { state := 2 }), (8, { state := 2 })] })
  { s with bringUp := 6, ticks := 1 }
theorem witness_ports : (let s := opened vec
     s.portOpen 0 = true ∧ s.outsideStream 0 0 false = false ∧ (s.portAddrs (s.domainOf 0 0) 0 4) = some [0, 1, 2, 3] ∧
     s.portAddrs (s.domainOf 0 1) 0 4 = none ∧ s.portReady 0 = true ∧ s.writeWaits 0 = false ∧
     (∀ p ∈ [0, 1, 2, 3], s.connected (portStack 0) (homeOf p) = true) ∧ s.lockedAt ((List.range 4).map (portByte 0)) = none) ∧
    (opened (vec.modStack 2 fun t => { t with heldTick := true })).portReady 0 = false ∧
    (opened (vec.modStack 2 fun t => { t with arrivals := [.write 0 []] })).writeWaits 0 = true ∧
    ({ vec with bringUp := 6, tdis := [(0, .run)] }.outsideStream 0 0 false = true) ∧
    (let s := opened (stk0 (fun t => { t with locks := [(0, lock4 true false)] }) vec)
     s.lockedAt ((List.range 4).map (portByte 0)) = some 0 ∧ (s.stack 0).deferred.length < 1024 ∧
     (∀ p ∈ [0, 1, 2, 3], s.connected (portStack 0) (homeOf p) = true) ∧ (s.portAddrs (s.domainOf 0 0) 0 4) = some [0, 1, 2, 3]) ∧
    vec.portOpen 0 = false ∧ vec.stopped = false ∧ vec.perst.contains 0 = false := by decide +kernel

/-- A message of a type with its two doublewords. -/
def msgOf (ty a b : Nat) : List Byte := bytesOf ty 8 ++ bytesOf a 8 ++ bytesOf b 8 ++ List.replicate 40 0
/-- The two messages of a launch with a good record. -/
def pair1 : List Byte := bytesOf 1 16 ++ (recd.take 6).flatMap fun w => bytesOf w.toNat 8
def pair2 : List Byte := bytesOf 2 16 ++ ((recd.drop 6).take 6).flatMap fun w => bytesOf w.toNat 8
/-- What the engine reads next, without the view of the descriptor. -/
def nextMsg (s : State) : Option (Nat × Option (List Byte) × Key × Nat) := (s.downNext 0 0).map Prod.snd
theorem witness_down : vec.downNext 0 0 = none ∧
    (∀ m ∈ [pair1, pair2, msgOf 0 0 0, msgOf 6 0 0, msgOf 3 4096 1, msgOf 3 4095 1, msgOf 3 4095 0, msgOf 4 5 0, msgOf 5 0 0],
      nextMsg (bound [] none m) = some (0, some m, 3, 0)) ∧
    nextMsg { bound [] none pair1 with mem := (bound [] none pair1).mem.writeN 0x5400 8 9 } = some (0, none, 3, 0) ∧
    (((bound [] none pair1).stack 0).chans.look 0 {}).head = none ∧
    msgType pair1 = 1 ∧ msgType pair2 = 2 ∧ msgType (msgOf 6 0 0) = 6 ∧ bytesAt (msgOf 3 4096 1) 8 8 = 4096 ∧
    bytesAt (msgOf 3 4095 1) 8 8 = 4095 ∧ bytesAt (msgOf 3 4095 1) 0x10 8 ≠ 0 ∧ bytesAt (msgOf 3 4095 0) 0x10 8 = 0 ∧
    (bound [] none (msgOf 3 4095 1)).portReady 0 = true ∧
    (∀ m ∈ [pair2, msgOf 5 0 0], nextMsg (bound [] (some pair1) m) = some (1, some m, 3, 0)) ∧
    (((bound [] (some pair1) pair2).stack 0).chans.look 0 {}).head = some pair1 ∧
    (bound [] (some pair1) pair2).recFault (pairRecord pair1 pair2) false = none ∧
    (bound [] (some pair1) pair2).recFault (pairRecord (msgOf 1 0 0) pair2) false = some 1 ∧
    freeIndex ((bound [] (some pair1) pair2).stack 0).launches 256 = some 0 ∧ ((bound [] none pair1).channel 0 0).isSome = true ∧
    (bound [] none pair1).portOpen 1 = true := by decide +kernel

theorem witness_up : (let s := bound [msgOf 0x80 1 2] none []
     ((s.stack 0).chans.look 0 {}).up = [msgOf 0x80 1 2] ∧ ((s.stack 0).chans.look 0 {}).upKey = none ∧ s.serviceReady 0 = true ∧
     (msgOf 0x80 1 2).length ≤ 64 ∧ (s.channel 0 0).map (fun c => ((c.produced + 2 ^ 32 - c.seen) % 2 ^ 32, c.n)) = some (0, 16)) ∧
    (let s := { bound [msgOf 0x80 1 2] none [] with mem := (bound [] none []).mem.writeN 0x4030 4 16 }
     (s.channel 0 0).map (fun c => ((c.produced + 2 ^ 32 - c.seen) % 2 ^ 32, c.n)) = some (16, 16)) ∧
    (∀ applied ∈ [true, false], let s := ((bound [msgOf 0x80 1 2] none []).modChan 0 0 fun x => { x with upKey := some 5 }).modLog 65408 fun l =>
      { l with recs := [{ seq := 0, key := some 5, applied := applied, body := .publish 0 0 [] }] }
     ((s.stack 0).chans.look 0 {}).upKey = some 5 ∧ s.serviceReady 0 = true ∧
     (∀ y ∈ (s.log (65408 + 0)).recs, y.key = some 5 → y.applied = applied) ∧ (s.log (65408 + 0)).recs ≠ []) ∧
    (stk0 (fun t => { t with heldTick := true }) vec).serviceReady 0 = false ∧
    (let s := stk0 (fun t => { t with reports := [msgOf 0x84 1 2], report := some 0 }) (bound [] none [])
     (s.stack 0).reports = [msgOf 0x84 1 2] ∧ (s.stack 0).report = some 0 ∧ (s.channel 0 0).isSome = true) ∧
    ((vec.stack 0).report = none) := by decide +kernel

theorem witness_full_table : freeIndex ((List.range 256).map fun i => (i, ({} : Launch))) 256 = none := by decide +kernel
theorem witness_network :
    (let s := stk0 (fun t => { t with remote := [(0, 0x70001), (2, 0), (3, 16)] }) { vec with bringUp := 6 }
     s.onNetwork = true ∧ (s.farWrite 0 noPath 0 0 false [1, 2]).map (fun x => (x.1, x.2.map Prod.fst)) = some (false, [0, 1]) ∧
     s.farWrite 0 noPath 0 15 false [1, 2] = none ∧ s.sourceReady 0 49 0 = true ∧ s.putWaits 0 noPath = false) ∧
    (stk0 (fun t => { t with heldTick := true }) vec).sourceReady 0 49 0 = false ∧
    (stk0 (fun t => { t with arrivals := [.put noPath 0 0 false []] }) vec).putWaits 0 noPath = true ∧ vec.onNetwork = false ∧
    remoteValid ((vec.stack 0).remoteWord 0 0) = false ∧
    { vec with conns := [(0, { failed := true })] }.conn 0 = { failed := true } ∧ (vec.conn 0).failed = false ∧
    packetOf [0xFF] = none ∧ ([0xFF] : List Byte) ≠ [] ∧ 0 ≠ (({ received := 1 } : Conn)).received := by decide +kernel

/-! ## Links, board and resets -/

/-- A link module of stack 0, edge 0. -/
def linked (l : Link) : State := stk0 (fun t => { t with links := [(0, l)] }) vec
theorem witness_links : (neighbour 0 0).isSome = true ∧ neighbour 0 1 = none ∧
    (((linked { state := 2, pause := true }).stack 0).link 0 0 = { state := 2, pause := true }) ∧
    (((linked { state := 2 }).stack 0).link 0 0).state = 2 ∧ (((linked { state := 3 }).stack 0).link 0 0).state = 3 ∧
    (((linked { state := 4 }).stack 0).link 0 0).state = 4 ∧ ((vec.stack 0).link 0 0).state = 1 ∧
    (((linked { state := 5 }).stack 0).link 0 0).state = 5 ∧
    (let l := ((linked { state := 2, inject := 0x200000001 }).stack 0).link 0 0
     l.inject.getLsbD 0 = true ∧ l.state = 2 ∧ l.flits + 1 ≠ l.inject.toNat / 2 ^ 32) ∧
    (let l := ((linked { state := 2, inject := 0x100000001 }).stack 0).link 0 0
     l.inject.getLsbD 0 = true ∧ l.state = 2 ∧ l.flits + 1 = l.inject.toNat / 2 ^ 32) ∧
    (vec.stack 0).link 0 0 = {} ∧ ({} : Link).inject.getLsbD 0 = false := by decide +kernel
/-- A sample at TIME 60,000 on the 99 samples before it in stack 0, each 600 ticks after the one before. -/
def drawing (mw : Nat) (engaged : Bool) (st : Nat) : State :=
  { (stk0 (fun t => { t with power := (List.range 99).map fun i => (59400 - 600 * i, mw), sprints := [(0, { valid := true, cores := 1 })] })
      (later 60000 vec)).modCore 1 fun c => { c with stretch := st } with engaged := engaged }

/-- The same with the sample taken in. -/
def drawn (mw : Nat) (engaged : Bool) (st : Nat) : State :=
  (drawing mw engaged st).modStack 0 fun x => { x with power := (((drawing mw engaged st).time 0).toNat, mw) :: x.power }

theorem witness_power : (∀ b ∈ [true, false], (drawing 5400001 b 0).sampleDue 0 = true ∧ 5400000 < (drawn 5400001 b 0).meanPower ∧
      (drawn 5299999 b 0).meanPower < 5300000 ∧ 5300000 ≤ (drawn 5300000 b 0).meanPower ∧ (drawn 5400000 b 0).meanPower ≤ 5400000) ∧
    (later 59999 (drawing 1 true 0)).sampleDue 0 = false ∧
    (let s := drawing 5400001 false 0
     1 ∈ s.coresWhere 0 false ∧ 0 ∈ s.coresWhere 0 true ∧ ∃ c ∈ s.coresWhere 0 false, (s.core c).stretch ≠ 4) ∧
    (let s := (List.range 48).foldl (fun s g => s.modCore g fun c => { c with stretch := 4 }) (drawing 5400001 false 0)
     0 ∈ s.coresWhere 0 true ∧ ∀ c ∈ s.coresWhere 0 false, (s.core c).stretch = 4) ∧
    (let s := (drawing 5299999 true 0).modCore 0 fun c => { c with stretch := 1 }
     0 ∈ s.coresWhere 0 true ∧ 0 < (s.core 0).stretch) ∧
    (let s := drawing 5299999 true 1
     (∀ c ∈ s.coresWhere 0 true, (s.core c).stretch = 0) ∧ 1 ∈ s.coresWhere 0 false ∧ 0 < (s.core 1).stretch) ∧
    (let s := drawing 5299999 true 0
     (∀ c ∈ s.coresWhere 0 true, (s.core c).stretch = 0) ∧ ∀ c ∈ s.coresWhere 0 false, (s.core c).stretch = 0) ∧
    overLimit 0 106 = true ∧ overLimit 0 105 = false ∧ overLimit 2 101 = true ∧ vec.stopped = false ∧
    { vec with stopped := true }.stopped = true := by decide +kernel

theorem witness_tick : ({ vec with ticks := vec.ticks + 1 } : State).stepDue = false ∧ (∀ e ∈ vec.cores, e.2.resetWait = none) ∧
    vec.inReset = false ∧ { vec with modrst := true }.inReset = true ∧ (∀ e ∈ vec.stackTab, e.2.arrivals = []) ∧
    vec.farPuts = [] ∧ (∀ e ∈ vec.stackTab, e.2.adjust = 0) ∧ vec.ctx vec.hart.key = some vec.hart ∧ vec.stopped = false := by
  decide +kernel
theorem witness_stacks : (vec.stackTab.map Prod.fst).Nodup ∧ (State.reset.stackTab.map Prod.fst).Nodup := by decide +kernel

/-! ## The whole machine -/

theorem witness_units : Instr.unitsExist (.refreshSlot 23 11) = true ∧ Instr.unitsExist (.refreshSlot 24 11) = false ∧
    Instr.unitsExist (.bcpWatchdogReset 0 12) = false ∧ Instr.unitsExist (.memoryReply 1175 0) = true ∧
    Instr.unitsExist (.memoryReply 1176 0) = false := by decide

theorem witness_frames : (after (.add 5 1 2) vec fun _ => ()) = some () ∧
    (after (.stD 5 4 8) data fun t => t.hart.staging.length) = some 1 ∧
    (after (.vadd ⟨0, false, false⟩ 1 2 (.v 3) false .dyn) (withHart fun h => { h with cv := { active := true, count := 1 } }) fun _ => ()) =
      some () := by decide +kernel
theorem witness_step : (let s : State := { vec with agenda := [.issue 0] }
     let a := ({ s with agenda := [] } : State).select 0
     s.stopped = false ∧ a.hart.key = 0 ∧ a.hart.slot = .ready ∧ a.hart.phase = .run ∧ a.hart.cv.active = false ∧
     a.hart.async30 = none ∧ a.hart.async31 = none ∧ a.markIssue.forcedWaits = false ∧
     good (a.markIssue.forcedPublish.sample.fetchBytes a.hart.pc 4) = true) := by
  decide +kernel
theorem witness_fetch : fetched 0x000E6281 = .word (.add 5 6 7) ∧ fetched 0 = .bad .opcode ∧
    fetched 0x67F = .convoy ⟨0, false, 0, 3, 0⟩ ∧ ((State.reset.placeWord 64 0).hart.service = false) := by decide +kernel
theorem witness_memory : Memory.wf State.reset.mem = true ∧ Memory.wf vec.mem = true := by decide +kernel
/-- What a step finds at the program counter of context 0: a header, the state after the members are fetched, and they. -/
def convoyAt (s : State) : Option (Header × State × List (BitVec 64)) :=
  let b := (({ s with agenda := [] } : State).select 0).markIssue.forcedPublish.sample
  match b.fetchBytes b.hart.pc 4 with
  | .ok (u, w) =>
    match fetched (BitVec.ofNat 32 w) with
    | .convoy h =>
      match (u.latch [BitVec.ofNat 64 w]).fetchMembers 0 h.members with
      | .ok (v, ws) => some (h, v.latch (BitVec.ofNat 64 w :: ws), ws)
      | _ => none
    | _ => none
  | _ => none
/-- Whether the checks of a convoy give a cause and a value, or none. -/
def found (s : State) : Option (Option (Nat × Word)) :=
  (convoyAt s).map fun x => match convoyChecks x.2.1 x.1 x.2.2 with
    | .ok _ => none
    | .error e => some e
/-- A convoy of one member. -/
def oneMember : State := State.reset.placeWord 64 0x00C0000000001938
/-- The word of a member. -/
def memberWord (i : Instr) : Nat :=
  match encodeF64 i with
  | some x => x.join.toNat
  | none => 0
/-- A convoy whose first member has to be alone, before a second. -/
def twoMembers : State := { oneMember with mem :=
  ((oneMember.mem.writeN 4 4 (Header.join ⟨0, false, 0, 4, 1⟩).toNat).writeN 8 8 (memberWord (.bwait 1))).writeN 16 8 0x00C0000000001938 }
theorem witness_checks : found oneMember = some none ∧
    found ({ oneMember with mem := oneMember.mem.write 7 0x80 }) = some (some (0x10, 4)) ∧
    found (oneMember.modRegs fun r => { r with mode := true }) = some (some (0x12, 4)) ∧
    found ({ oneMember with mem := oneMember.mem.writeN 8 8 0xFE00000000000000 }) = some (some (0x10, 8)) ∧
    found twoMembers = some (some (0x10, 8)) ∧
    found (oneMember.modHart fun h => { h with cap := 0 }) = some none ∧
    found ((State.reset.placeWord 64 (memberWord (.vmov ⟨0, false, false⟩ 63 1))).modHart fun h => { h with cap := 63 }) =
      some (some (0x10, 8)) ∧
    found (State.reset.placeWord 64 (memberWord (.ckey 1 2 3))) = some (some (0x11, 8)) ∧
    (let s := State.reset.placeWord 64 (memberWord (.vdiv ⟨0, false, false⟩ 1 2 (.v 3) false .dyn))
     found ({ s with mem := s.mem.write 7 1 }.modRegs fun r => { r with mode := true }) = some (some (0x12, 8))) ∧
    found (oneMember.modHart fun h => { h with usemask := 0 }) = some (some (0x13, 0x100000023)) ∧
    found (oneMember.modCore 0 fun c => { c with capmask := 0 }) = some (some (0x14, 0x100000023)) := by decide +kernel

/-! ## Late checks, traps at level 2, grants -/

/-- A hart whose stack limit no value reaches. -/
def tight (s : State) : State := s.modRegs fun r => { r with splim := BitVec.allOnes 17 }
theorem witness_late : (∀ i ∈ [Instr.evwait 2 6, .wnext 2, .wsplit 2, .ctwait 2 6 7, .ctinc 2 6 7, .ldh 2 6 0 false,
      .amo .add true .rlx 2 6 7, .amoCas true .rlx 2 6 7 8], WordAdmitted (tight vec) i) ∧ WordAdmitted (tight lev1) (.captest 2 6) ∧
    (let s := tight (withHart fun h => { h with event := true })
     s.hart.event = true ∧ (s.modHart fun h => { h with event := false }).belowLimit 2 1 = true) ∧
    (let s := tight (lev1.modHart fun h => { h with phase := .returned 0 [1, 3] })
     s.hart.event = false ∧ s.hart.phase = .returned 0 [1, 3] ∧ s.belowLimit 2 0 = true ∧
     (s.endTest s.hart.core (some s.hart) 3 1).belowLimit 2 1 = true ∧
     (∀ acq ∈ [false, true], ((s.acquireKey acq 0).map fun u => u.belowLimit 2 5) = some true)) ∧
    (let s := tight tiled
     s.hart.tile = none ∧ s.takeTile.2 = some 0 ∧ s.takeTile.1.belowLimit 2 0 = true ∧
     freeIndex (s.stack s.hart.instStack).walkers 32 = some 1 ∧ ((s.splitInto 0 0 0 1).map fun u => u.belowLimit 2 5) = some true) ∧
    (let s := tight vec
     (s.rs 6).toNat ≤ 4095 ∧ (s.rs 7).toNat ≤ (s.counter 0).value.toNat ∧ (s.counter 0).key.le s.settled = true ∧
     ((s.refreshAll s.hart.core (s.counter 0).key).raiseFloor (s.counter 0).key).belowLimit 2 0 = true) ∧
    (let s := tight (tiled.modStack 0 fun t => { t with
       walkers := [(0, { state := .active, home := 0, launch := 0, next := 10, stop := 10, bound := [0] }),
                   (1, { state := .active, home := 0, launch := 0, next := 0, stop := 10 })] })
     s.hart.tile = none ∧ s.takeTile.2 = none ∧ ((s.takeTile.1.splitFor.map fun y => y.1.takeTile).bind fun w => w.2.map fun x => w.1.belowLimit 2 x) = some true) ∧
    (let s := tight (withHart fun h => { h with phase := .published 0 })
     s.rs 7 = 0 ∧ s.belowLimit 2 (s.counter 0).value = true ∧ (s.ws 7 1).rs 7 ≠ 0 ∧ (s.ws 7 1).canKey = true) ∧
    (tight (tiled.modStack 0 fun t => { t with walkers := (List.range 32).map fun i => (i, {}) })).belowLimit 2 0 = true := by
  unfold WordAdmitted; decide +kernel
theorem witness_late_members : (let s := ending [.scalar 2 7 true]
    s.hart.cv.active = true ∧ s.hart.cv.effects.reverse = [] ++ [.scalar 2 7 true] ∧ s.fits [.scalar 2 7 true] = true ∧
    (commitAll s s.hart.cv.sent [] []).2 = ([], [], false, none) ∧ (commitAll s s.hart.cv.sent [] []).1.belowLimit 2 7 = true ∧
    s.hart.tlevel < 2) ∧
    (let s := (ending [.scalar 2 7 true, .raise 5]).modHart fun h => { h with phase := .returned 0 [] }
     s.hart.answered = true ∧ s.hart.cv.effects.reverse = [.raise 5] ++ [.scalar 2 7 true]) := by decide +kernel
/-- Level 2: a compute hart in a gang and a launch, alone on its core; the same beside another context; a service core. -/
def lev2 : State := (tiled.modHart fun h => { h with tlevel := 2, gangSize := 2, gangIdx := 3, trap1 := { cause := 2 }, trap2 := { cause := 3 } }).modLog 0
  fun l => { l with recs := [{ seq := 0, body := .store 0x1000 1 0 }] }
def lev2beside : State := { lev2 with others := [(1, { vec.hart with key := 1, loc := 1 })] }
theorem witness_level2 : (let s := lev2
     2 ≤ s.hart.tlevel ∧ (0x10 : Nat) ≠ 0x1A ∧ (s.stack s.hart.stk).pfb.frozen = false ∧ (∀ e ∈ s.cores, e.2.copies = []) ∧
     s.hart.service = false ∧ s.hart.slot ≠ .ended ∧ s.hart.inGang = true ∧ s.hart.launch < 256 ∧
     (s.launchAt s.hart.home s.hart.launch).state = .running ∧ (s.core s.hart.core).resetWait = none) ∧
    (let s := lev2.modStack 0 fun t => { t with launches := t.launches.map fun l => (l.1, { l.2 with ctxs := 2 }) }
     (s.launchAt s.hart.home s.hart.launch).state = .running ∧ 2 ≤ (s.launchAt s.hart.home s.hart.launch).ctxs) ∧
    (let s := lev2beside
     ∃ y, s.ctx 1 = some y ∧ 1 ≠ s.hart.key ∧ y.service = false ∧ y.core = s.hart.core ∧ y.resident = true) ∧
    ((lev2beside.modCore 0 fun c => { c with resetWait := some 5 }).core 0).resetWait ≠ none ∧
    (let s := State.reset.modHart fun h => { h with tlevel := 2 }
     2 ≤ s.hart.tlevel ∧ s.hart.service = true) := by
  refine ⟨by decide +kernel, by decide +kernel, ⟨{ vec.hart with key := 1, loc := 1 }, by decide +kernel⟩, by decide +kernel, by decide +kernel⟩
theorem witness_level2_keys : ContextsKeyed lev2 ∧ ContextsKeyed lev2beside := by unfold ContextsKeyed; decide +kernel
theorem witness_level2_alone : ∀ k y, ¬ (k ≠ lev2.hart.key ∧ lev2.ctx k = some y ∧ y.service = false ∧ y.core = lev2.hart.core ∧ y.resident = true) := by
  intro k y ⟨h, h', hs, _⟩
  have all : ∀ x ∈ lev2.harts, x.key = lev2.hart.key ∨ x.service = true := by decide +kernel
  unfold State.ctx at h'
  have hk : y.key = k := by simpa using List.find?_some h'
  rcases all y (List.mem_of_find?_eq_some h') with a | a
  · exact h (hk ▸ a)
  · rw [hs] at a; cases a
/-- Grants: four clusters of eight in the core's table, of which the hart asks for two, four and sixteen; and a gang of two. -/
theorem witness_grants_change : (let s := withHart fun h => { h with regs := { h.regs with grant := 0x0F } }
     let free := (s.core 0).freeClusters
     s.hart.inGang = false ∧ s.hart.frags = [] ∧ s.hart.slot ≠ .ended ∧ popc s.hart.regs.grant = 4 ∧
     Clus.want .c2 4 = 2 ∧ 2 ≤ 4 ∧ grantCount s.hart.regs.grant free 2 = 2 ∧
     Clus.want .c16 4 = 16 ∧ 4 < 16 ∧ grantCount s.hart.regs.grant free 16 = 16 ∧ s.belowLimit 5 64 = false) ∧
    (let s := ganged.modHart fun h => { h with passed := some 1 }
     s.hart.phase = .run ∧ s.hart.passed = some 1 ∧ s.hart.inGang = true ∧ (5 : SReg) ≠ 2 ∧ WordAdmitted s (.vsetlG 5 6 .int32 .keep)) ∧
    (let s := ganged.modGang ganged.hart.gangKey fun g => { g with size := 2 }
     let wants := (s.gang s.hart.gangKey).wants.put s.hart.key 1
     s.hart.phase = .run ∧ s.hart.passed = none ∧ s.hart.rendezvous = false ∧ s.hart.frags = [] ∧ s.hart.slot ≠ .ended ∧
     wants.length + (s.gang s.hart.gangKey).gone < (s.gang s.hart.gangKey).size) ∧
    (let s := ganged.modGang ganged.hart.gangKey fun g => { g with size := 2, gone := 1 }
     let wants := (s.gang s.hart.gangKey).wants.put s.hart.key 1
     s.hart.slot ≠ .ended ∧ (s.gang s.hart.gangKey).size ≤ wants.length + (s.gang s.hart.gangKey).gone ∧
     ∀ h ∈ s.harts.filter fun h => wants.any fun e => e.1 == h.key, h.slot ≠ .draining ∧ h.slot ≠ .saving ∧ h.slot ≠ .saved) := by
  refine ⟨by decide +kernel, ⟨by decide +kernel, by decide +kernel, by decide +kernel, by decide +kernel, by unfold WordAdmitted; decide +kernel⟩,
    by decide +kernel, by decide +kernel⟩
/-! ## Convoys that wait, the merge queue, copies -/

/-- A convoy of home loads, of which one asks for the key of this tick. -/
def asking (n : Nat) : State := later 1 (ending (List.replicate n (.home [{ idx := 0, addr := 0x1000, size := 4, fn := .read }] false false true)))
/-- The same on a tick whose key is taken. -/
def keyless (n : Nat) : State := (asking n).modLog 0 fun l => { l with lastKey := Key.mk 1 0 }
theorem witness_asked : (let s := asking 1
     let asked := s.hart.cv.effects.reverse.filter Effect.waits
     s.hart.cv.active = true ∧ s.hart.answered = false ∧ asked ≠ [] ∧ s.fits s.hart.cv.effects.reverse = true ∧
     (commitAll s s.hart.cv.sent [] asked).2 = ([], [], true, none) ∧ (commitAll s s.hart.cv.sent [] asked).1.hart.cv.active = true) ∧
    (let s := keyless 1
     let asked := s.hart.cv.effects.reverse.filter Effect.waits
     s.hart.cv.active = true ∧ s.hart.answered = false ∧ asked ≠ [] ∧ s.fits s.hart.cv.effects.reverse = true ∧
     (commitAll s s.hart.cv.sent [] asked).2 = (asked, [], false, some .ordering)) ∧
    (let s := asking 2
     let asked := s.hart.cv.effects.reverse.filter Effect.waits
     s.fits s.hart.cv.effects.reverse = true ∧ (commitAll s s.hart.cv.sent [] asked).2 = (asked.drop 1, [], true, some .ordering)) ∧
    (let s := (ending [.scalar 5 7 false]).modHart fun h => { h with phase := .returned 0 [] }
     s.hart.answered = true ∧ s.hart.cv.active = true ∧ (commitAll s s.hart.cv.sent [] s.hart.cv.effects.reverse).2.2.2.2 = none) ∧
    (let s := (ending [.home [] false true false]).modLog 0 fun l => { l with wt := 2 ^ 40 }
     s.hart.cv.active = true ∧ s.hart.cv.sent = false ∧ s.fits s.hart.cv.effects.reverse = false ∧ s.hart.answered = false) := by decide +kernel
theorem witness_delivery : (let t := (stk0 (fun t => { t with inbound := [entry 1 0, entry 2 0] }) vec)
     (t.stack 0).inbound[1]? = some (entry 2 0) ∧ (∃ x ∈ (t.stack 0).inbound.take 1, t.senderOf x = t.senderOf (entry 2 0)) ∧
     (∀ x ∈ (t.stack 0).inbound.take 0, t.senderOf x ≠ t.senderOf (entry 1 0)) ∧ t.reaches (t.senderOf (entry 1 0)) 0 = true ∧
     (∀ serial j, (entry 1 0).origin ≠ .chunk serial j)) ∧
    vec.reaches (vec.senderOf (entry (Key.mk 1 (sourceOf 5 49 0)) 0)) 0 = false ∧
    (let s := stk0 (fun t => { t with released := [(500, [frameOf 0x1000])] }) (merging 7)
     (s.stack 0).supersedes 1 0x1000 = true ∧ (s.stack 0).supersedes 600 0x1000 = false ∧ (s.stack 0).locks = []) := by
  refine ⟨⟨by decide +kernel, by decide +kernel, by decide +kernel, by decide +kernel, fun _ _ => by unfold entry; simp⟩, by decide +kernel, by decide +kernel⟩
/-- A copy of three rows of 16 bytes, 64 apart at the source and 32 apart at the destination. -/
def rows3 : CopyCmd := { copyOf (.cpy2d 0 1 2 3 0 4 5 0) [] with x := 3, y := 0x2000000040 }
theorem witness_rows : (strides rows3.y).1 = 64 ∧ (strides rows3.y).2.toNat = 32 ∧ rows3.len.toNat ≤ 32 ∧
    (∀ i ∈ List.range (rows3.x.toNat % 2 ^ 32), 0 ≤ (rows3.src.toNat : Int) + i * (strides rows3.y).1) ∧
    rows3.parts 0 = [(0x1000, 0x2000, 16), (0x1040, 0x2020, 16), (0x1080, 0x2040, 16)] := by decide +kernel
/-- A core with one copy of rows, and with one of 4,096 bytes to an unmapped place. -/
def rowsCopier : State := data.modCore 0 fun c => { c with copies := [rows3] }
theorem witness_parts : (let s := rowsCopier
     s.pickCopy 0 = some rows3 ∧ rows3.nextChunk = some 0 ∧
     (match (s.beginChunk 0 rows3 0).copyParts 0 rows3 (rows3.parts 0) [] with | .ok r _ => r.length | _ => 0) = 2) ∧
    (let c := { rows3 with src := 0x20000 }
     let s := data.modCore 0 fun k => { k with copies := [c] }
     s.pickCopy 0 = some c ∧ (match (s.beginChunk 0 c 0).copyParts 0 c (c.parts 0) [] with | .stop _ _ _ => true | _ => false) = true) := by
  decide +kernel
/-- A core with a CPYE over path 0 whose entry allows 0x2010 bytes: a put, and a get. -/
def remoteOf (x : Word) (n : Nat) : CopyCmd :=
  { copyOf (.cpye 0 1 2 3 0 4 0) [] with x := x, len := BitVec.ofNat 64 n, entry := [0x30001, 0, 0, 0x2010] }
/-- The edges between stacks 0 and 6 up. -/
def joined (s : State) : State := [0, 6].foldl (fun s k => s.modStack k fun t => { t with links := (List.range 4).map fun e => (8 * e, { state := 2 }) }) s
def remoteCopier (x : Word) (n : Nat) : State := joined (data.modCore 0 fun c => { c with copies := [remoteOf x n] })
/-- The copy that the engine of core 0 serves next, by a property of it. -/
def serves (s : State) (p : CopyCmd → Bool) : Bool :=
  match s.pickCopy 0 with
  | some c => p c
  | none => false
/-- It starts chunk 0 of `n` bytes over path 0. -/
def overPath (n : Nat) (c : CopyCmd) : Bool :=
  c.nextChunk == some 0 && c.len.toNat == n && c.dst.toNat == 0x2000 && (c.entry.getD 1 0).toNat == 0 && (c.entry.getD 3 0).toNat == 0x2010
theorem witness_remote : serves (remoteCopier 0 16) (overPath 16) = true := by decide +kernel
theorem witness_remote_get : serves (remoteCopier 0x10000 16) (fun c => overPath 16 c && c.x.getLsbD 16) = true := by decide +kernel
theorem witness_remote_past : serves (remoteCopier 0 17) (overPath 17) = true := by decide +kernel
/-- The same with its connection failed. -/
def remoteFailed : State := (remoteCopier 0 16).modConn 0 fun c => { c with failed := true }
theorem witness_remote_failed : serves remoteFailed (overPath 16) = true ∧ (remoteFailed.conn 0).failed = true ∧
    ((remoteCopier 0 16).conn 0).failed = false := by decide +kernel
theorem witness_remote_read :
    readOf (((remoteCopier 0 16).beginChunk 0 (remoteOf 0 16) 0).copyRead 0 (remoteOf 0 16) 0x1000 16) = some (List.replicate 16 0) := by decide +kernel
/-- A launch of a gang of two, one to a core or both on one, and one of two harts to a core without a gang. -/
def placing (a : Word) : State := (splitting.modStack 0 fun t => { t with launches := [(0, { state := .running, words := (recd.set 2 0).set 7 a })] }).modLog 0
  fun l => { l with used := true }
theorem witness_gang_apart : ((placing 0x1000041).placeNext 0 0).isSome = true := by decide +kernel
theorem witness_gang_together : ((placing 0x1001041).placeNext 0 0).isSome = true := by decide +kernel
theorem witness_two_harts : ((placing 0x1001001).placeNext 0 0).isSome = true := by decide +kernel
theorem witness_several : ((placing 0x1000041).log (placing 0x1000041).hart.key).used = true ∧
    recGang ((recd.set 2 0).set 7 0x1001041) = 2 ∧ recHarts ((recd.set 2 0).set 7 0x1001041) = 2 ∧ recGang ((recd.set 2 0).set 7 0x1001001) = 0 ∧
    recHarts ((recd.set 2 0).set 7 0x1001001) = 2 ∧ recGang ((recd.set 2 0).set 7 0x1000041) ≤ 64 := by decide +kernel
/-- A channel that runs a member with its clock at a time. -/
def running (left clock : Nat) (hung : Option Nat) : State := (later 2145 (banks [] none [])).modStack 0 fun t => { t with
  channels := [(11, { run := some (bankOf (.bnot 1 2) 1), left := left, clock := clock, hung := hung })] }
theorem witness_slots : (let s := running 200 0 none
     let c := (s.stack 0).channels.look 11 {}
     let ended := Nat.min c.left ((2145 - c.clock) / 28)
     (s.stack 0).slotDue 2145 11 = true ∧ c.run ≠ none ∧ c.hung = none ∧ ended ≠ c.left ∧ c.clock < 2145 + 108) ∧
    ((running 200 0 (some 7)).stack 0).slotDue 2145 11 = true ∧
    (let c := ((running 2 0 none).stack 0).channels.look 11 {}
     Nat.min c.left ((2145 - c.clock) / 28) = c.left) := by decide +kernel
theorem witness_room : (let t := (banks [bankOf (.bnot 1 2) 1] none []).stack 0
     (t.channels.map fun c => match c.2.run with | some r => r.grant | none => 0).sum + 1 ≤ 128) ∧
    (let s := (banks [bankOf (.bnot 1 2) 1] none []).modStack 0 fun t => { t with channels := [(1, { run := some (bankOf (.bnot 1 2) 128) })] }
     let t := s.stack 0
     t.nextBank 0 = some (bankOf (.bnot 1 2) 1) ∧ (bankOf (.bnot 1 2) 1).isGrant = false ∧
     ¬ (t.channels.map fun c => match c.2.run with | some r => r.grant | none => 0).sum + 1 ≤ 128) := by decide +kernel
theorem witness_bank_frames : (∀ i ∈ [Instr.bsub 2 1 3 true true, .bmulc 2 1 5 true, .bmac 2 1 3 false, .bmact 2 1 5 true,
      .bldp 2 5 6 true false, .vtob 2 1 5 false true, .btov 1 2 5 false, .bred 5 2, .bseal 2, .bmaj 2 1 3 4, .bshl 2 1 3 true, .bshr 2 1 3 false true],
      (((banks [] (some (bankOf i 1)) []).stack 0).channels.look 0 {}).run = some (bankOf i 1)) ∧
    (((banks [] (some { bankOf (.bsel 2 1 3 4) 1 with c := 1 <<< 24 }) []).stack 0).channels.look 0 {}).run.isSome = true := by decide +kernel
/-- A module with a correction to make in two stacks. -/
def correcting : State := (vec.modStack 1 fun t => { t with adjust := 1 }).modStack 2 fun t => { t with adjust := -1 }
theorem witness_correction : ({ correcting with ticks := correcting.ticks + 1 } : State).stepDue = false ∧ correcting.inReset = false ∧
    (correcting.stack 1).adjust = 1 ∧ (correcting.stack 2).adjust = -1 ∧ (correcting.stackTab.map Prod.fst).Nodup ∧
    (∀ e ∈ correcting.stackTab, e.2.arrivals = []) ∧ (∀ e ∈ correcting.cores, e.2.resetWait = none ∧ e.2.ahead = []) ∧ correcting.farPuts = [] := by
  decide +kernel
/-! ## Ports, packets, heat, resets -/

theorem witness_unreachable : (let s := (opened vec).modStack 2 fun t => { t with links := [] }
     s.portOpen 0 = true ∧ s.outsideStream 0 0 false = false ∧ s.portAddrs (s.domainOf 0 0) 0 4 = some [0, 1, 2, 3] ∧
     ∃ p ∈ [0, 1, 2, 3], s.connected (portStack 0) (homeOf p) = false) ∧ (opened vec).portOpen 0 = true ∧
    ¬ (vec.portOpen 0 = true ∨ vec.portOpen 1 = true) := by decide +kernel
/-- A module on the network whose entries 0 allow puts, gets and additions in a window at address 0. -/
def netted : State := (List.range 24).foldl (fun s k => s.modStack k fun t => { t with
  remote := [(0, 0x70001), (3, 16)], links := (List.range 4).map fun e => (8 * e, { state := 2 }) }) { vec with bringUp := 6, ticks := 1 }
/-- A packet of each kind. -/
def packet (k : PacketKind) (bs : List Byte) : Packet := { kind := k, serial := 9, chunk := 0, entry := 0, off := 0, len := bs.length, bytes := bs }
theorem ether_stack (peer : Nat) (h : 8 ≤ peer) : pathStack peer < 24 := by
  unfold pathStack etherStack etherPort
  rw [if_neg (Nat.not_lt.mpr h)]
  split <;> omega
theorem witness_packets : (∀ k ∈ [PacketKind.put, .putWords, .get, .done, .data, .refused, .poisoned],
      packetOf (packet k [1, 2]).encode = some (packet k [1, 2])) ∧ netted.onNetwork = true ∧ (netted.conn 8).failed = false ∧
    netted.farParts = [] ∧ (packet .put [1, 2]).bytes.length = (packet .put [1, 2]).len := by decide +kernel
theorem witness_windows : ∀ k, k < 24 → let got := netted.modConn 8 fun x => { x with received := x.received + 1 }
    got.farWrite k 8 0 15 false [1, 2] = none ∧ (got.farWrite k 8 0 0 false [1, 2]).map (fun x => (x.1, x.2)) = some (false, [(0, 1), (1, 2)]) ∧
    netted.sourceReady k 49 0 = true ∧ netted.putWaits k 8 = false ∧ got.farAddrs k 8 0 1 15 2 = none ∧ got.farAddrs k 8 0 1 0 2 = some [0, 1] ∧
    netted.connected k (homeOf 0) = true ∧ netted.lockedAt [0, 1] = none ∧ netted.badSector (sectorOf 0) = false ∧ (netted.stack k).arrivals = [] := by
  decide +kernel
/-- An answer to a put of a copy that is known, and to one that is not; and one whose way over the mesh is down. -/
theorem witness_answers : (netted.remoteAnswer 9 0 none []).isSome = true ∧
    ((remoteCopier 0 16).modCopy 0 1 fun x => { x with fly := [{ chunk := 0, remote := true }] }).remoteAnswer 1 0 none [] ≠ none ∧
    ((data.modCore 0 fun c => { c with copies := [{ remoteOf 0 16 with fly := [{ chunk := 0, remote := true }] }] }).remoteAnswer 1 0 none []) = none := by
  decide +kernel
theorem witness_heat : vec.stopped = false ∧ overLimit 0 106 = true ∧ { vec with stopped := true }.stopped = true ∧ overLimit 13 101 = true := by decide
theorem witness_warm : vec.stopped = false ∧ (∀ e ∈ vec.cores, e.2.copies = []) ∧ (∀ e ∈ vec.stackTab, e.2.inbound = [] ∧ e.2.refused = [] ∧
      e.2.deferred = [] ∧ e.2.locks = [] ∧ e.2.released = []) ∧ (∀ e ∈ vec.stackTab, e.2.mq = []) ∧ (vec.harts.map Hart.key).Nodup ∧
    (∀ h ∈ vec.harts, h.service = false → (vec.log h.key).wt + h.staging.length = (vec.log h.key).pt) ∧
    (let s := stk0 (fun t => { t with mq := [entry 1 7] }) vec
     (s.stack 0).mq = [entry 1 7] ∧ (∀ e ∈ s.stackTab, e.1 ≠ 0 → e.2.mq = []) ∧ s.lineGood 7 0 = true ∧
     (s.modLog 7 fun l => { l with base := 0x8000 }).lineGood 7 0 = false) := by decide +kernel
theorem witness_cold : State.reset.overheated = false ∧ (stk0 (fun t => { t with temps := [(0, 106)] }) vec).overheated = true ∧
    (vec.cores.map Prod.fst).Nodup := by decide +kernel
/-! ## Frames -/

/-- A next state, without its parts. -/
def goes (i : Instr) (s : State) : Bool := (after i s fun _ => ()).isSome
/-- A compute hart in a convoy. -/
def inConvoy (s : State) : State := s.modHart fun h => { h with cv := { active := true, count := 1 } }
theorem witness_scalar_frames : (∀ i ∈ [Instr.ldB 5 6 0, .ldWU 5 6 0, .stsd 5 6 0, .csrw 5 0 6, .csrr 5 0, .csrs 5 3 6, .csrc 5 0x100 6],
      goes i data = true) ∧ data.hart.cv.active = false := by decide +kernel
theorem witness_member_frames : (∀ i ∈ [Instr.vperm g0 1 2 2 false, .vcomp g0 1 2 5, .vred g0 .sum false false .dyn 1 2 0 5, .vput g0 1 2 2 3, .vconf g0 3 2 5,
      .vexts g0 5 2 6 false, .plead g0 5 1, .vld g0 1 0 6 0 true false, .vlds g0 1 0 6 7 false false, .vldx g0 1 0 6 2 false false, .vlsx g0 1 0 6 2,
      .vldh g0 1 0 6 2 false, .vst g0 1 0 6 0, .vpf 0 6 7, .vamo g0 .add .rlx 1 0 6 2, .vssx g0 1 0 6 2, .cstat 5 2 3, .cwait 5 6], goes i (inConvoy (based 0x1000)) = true) ∧
    (inConvoy (based 0x1000)).hart.cv.active = true := by decide +kernel
theorem witness_copy_frames : (∀ i ∈ [Instr.cpy 0 1 2 3 0 4, .cpy2d 0 1 2 3 0 4 5 6, .cpyd 0 1 2 3 4 5 6, .cpye 0 1 2 3 0 4 5], goes i (inConvoy copying) = true) ∧
    goes (.ckey 0 1 2) ((inConvoy copying).modHart fun h => { h with tlevel := 1 }) = true := by decide +kernel
/-- A hart that has stored every byte that it reads, of a sector that its view does not hold. -/
theorem witness_own_bytes : let s := data.modHart fun h => { h with staging := [(0x2000, 0xFF, 0x5A)] }
    s.reads 0x2000 8 = false ∧ s.reads 0x2000 9 = true ∧ viewFind (s.core 0).view s.hart.slotNo 0x2000 = none := by decide +kernel
/-- A service core that meets the header of a convoy. -/
theorem witness_service_header : (State.reset.hart.service = true) ∧ fetched 0x67F = .convoy ⟨0, false, 0, 3, 0⟩ ∧ State.reset.inReset = false := by decide +kernel
/-- A bank whose gang has a torn notice. -/
theorem witness_torn : (vec.modGang vec.hart.gangKey fun g => { g with torn := true }).gang vec.hart.gangKey = { vec.gang vec.hart.gangKey with torn := true } ∧
    vec.hart.phase ≠ .bankWait ∧ lowest [(true, 8)] = some 8 := by decide +kernel
theorem witness_time_masters : (0 : Nat) < 23 ∧ ((later 131072 vec).stack 23).timeLate = false ∧
    ((later 131072 vec).stack 23).timeBeacon + 131072 ≤ ((later 131072 vec).time 23).toNat := by decide +kernel

/-! ## Small steps of the events -/

/-- R387: a tick advances TIME by one, by two where a correction adds one, and by none where it takes one. -/
theorem test_correction : after .tick correcting (fun t => (t.time 0, t.time 1, t.time 2)) = some (1, 2, 0) := by decide +kernel
/-- R22, R128: a hart of four clusters that asks for two keeps the lowest two, and its vectors read as zero. -/
theorem test_shrink : after (.vsetl 5 6 .int32 .c2) ((withHart fun h => { h with regs := { h.regs with grant := 0x0F, v := [(1, { tag := .int32, bits := 5 })] } }).ws 6 1000)
    (fun t => (t.rs 5, t.hart.regs.grant, (t.hart.regs.rv 1).bits)) = some (256, 3, 0) := by decide +kernel
/-- R340: the bytes of three rows, 64 apart at the source, go to rows 32 apart. -/
theorem test_rows : rows3.parts 0 = [(0x1000, 0x2000, 16), (0x1040, 0x2020, 16), (0x1080, 0x2040, 16)] := by decide +kernel
/-- R209: a trap at level 2 of a service core leaves it asleep and freezes its buffer. -/
theorem test_level2 : after (.illegalWord 0) (State.reset.modHart fun h => { h with tlevel := 2 }) (fun t => (t.hart.slot, (t.stack 0).pfb.frozen)) =
    some (.sleeping, true) := by decide +kernel

/-! ## More hypotheses met -/

/-- The answer of an operation, as a test of the state. -/
def okAnd {α : Type} (r : Res α) (p : α → Bool) : Bool := match r with | .ok x => p x | _ => false
/-- WNEXT: not yet asked, asking another stack, and answered; EXIT with its home in reach and out of it. -/
def spent0 : State := tiled.modStack 0 fun t => { t with
  walkers := [(0, { state := .active, home := 0, launch := 0, next := 10, stop := 10, bound := [0] })] }
theorem witness_next : tiled.hart.phase = .run ∧ (spent0.takeTile.2 = none) ∧
    (let s := opened (spent0.modStack 1 fun t => { t with walkers := [(2, { state := .active, home := 0, launch := 0, next := 0, stop := 10 })] })
     (s.takeTile.1.splitFor.map Prod.snd) = some true) ∧
    (let s := spent0.modStack 0 fun t => { t with walkers := t.walkers ++ [(1, { state := .active, home := 0, launch := 0, next := 0, stop := 10 })] }
     (s.takeTile.1.splitFor.map Prod.snd) = some false) ∧
    (let s := tiled.modHart fun h => { h with phase := .returned 0 [1] }
     s.hart.phase = .returned 0 [1] ∧ ([1] : List Word).headD 0 ≠ 0 ∧ s.takeTile.2 = some 0) ∧
    (let s := tiled.modHart fun h => { h with phase := .requested 0 }
     s.hart.phase = .requested 0 ∧ s.hart.tile = none) ∧
    tiled.reaches tiled.stk tiled.hart.home = true ∧
    (let s := tiled.modHart fun h => { h with home := 5 }
     s.hart.service = false ∧ s.reaches s.stk s.hart.home = false) := by decide +kernel
/-- A read whose owner byte can be read, with no replay owed; home operations that publish first, wait for S, and end. -/
theorem witness_ordered_words : data.cutOff data.stk (ownerSector 0x1038) = none ∧ data.served 0x1000 ≠ .ownBad ∧ data.owes 0x1000 = false ∧
    okAnd (data.access .rw 0x1008) (fun x => okAnd (x.1.publish 0 false) fun _ => true) = true ∧
    (let s := data.modHart fun h => { h with phase := .published 3, att := { h.att with place := some 0x1008 } }
     s.hart.phase = .published 3 ∧ s.hart.att.place = some 0x1008 ∧ s.canKey = true) ∧
    (let s := (data.modStack 0 fun t => { t with heldTick := true }).modHart fun h => { h with phase := .published 3 }
     s.canKey = false) ∧
    (let s := data.modHart fun h => { h with phase := .returned 0 [7] }
     (0 : Key).le s.settled = true ∧ ((s.refreshAll s.hart.core 0).raiseFloor 0).belowLimit 5 7 = false) ∧
    Key.le (BitVec.allOnes 78) data.settled = false := by decide +kernel
/-- An element all of whose bytes lie in a chunk with a set bit. -/
theorem witness_chunk_elements : let s := chunked
    (s.src.rp 1).bind = some { base := 0x1000, code := 0, copy := 1, keys := [(0, 0)] } ∧ 3 < s.hart.regs.vlen ∧ 3 < s.hart.regs.ftrim.toNat ∧
    s.hart.regs.mode = false ∧ (∀ j ∈ List.range (elemBytes 32),
      (({ base := 0x1000, code := 0, copy := 1, keys := [(0, 0)] } : Binding).chunk s.hart.lanes
        (s.elemAddr .unit (s.vbase 6 0) 32 3 + BitVec.ofNat 64 j) = some 0)) ∧ (s.src.rp 1).bits.getLsbD 0 = true := by decide +kernel
/-- An armed command that names an element of the shape, seen and not seen by the lane under check, and one outside; tags that differ, and a
TSHK above the format's bound. -/
def armed (cmd : Word) : State := (tiles .int4 .int4).modRegs fun r => { r with mxpcmd := cmd }
theorem witness_perturbed : (let s := armed 0x700000001
     let r := s.hart.regs
     let js := (List.range r.tshn).filter fun j => s.isActive g0 j
     let out := (mmaElem (s.src.rv 1) ((eight 8).map s.src.rv) s.hart.lanes 0 0 (r.tshk / 8) true false (r.tileElem 0 0 0)).1
     s.anyActive g0 = true ∧ r.mxpcmd.getLsbD 0 = true ∧ s.hart.cv.idx ∉ s.hart.att.perturbed ∧ r.mxpcmd.toNat / 64 % 32 < r.tshm ∧
     r.mxpcmd.toNat / 65536 % 2048 ∈ js ∧ perturb true out (r.mxpcmd.toNat / 2 ^ 32) ≠ out ∧
     r.physLane (0 % r.lanes) % 4 = s.hart.cseq.toNat % 4 ∧ (s.core s.hart.core).chkmisc ≠ BitVec.allOnes 32) ∧
    (let s := armed 0x700010001
     s.hart.regs.mxpcmd.toNat / 65536 % 2048 = 1 ∧ s.hart.regs.physLane (1 % s.hart.regs.lanes) % 4 ≠ s.hart.cseq.toNat % 4) ∧
    (let s := armed 0x7000107C1
     ¬ s.hart.regs.mxpcmd.toNat / 64 % 32 < s.hart.regs.tshm) ∧
    (let s := (tiles .fp16 .fp16).modRegs fun r => r.wv 9 { tag := .bf16 }
     (((eight 8).map s.src.rv).find? fun b => !(b.tag == (s.src.rv 8).tag)).map (fun b => b.tag) = some .bf16) ∧
    (let s := (tiles .fp32 .fp32).modRegs fun r => { r with tshk := 24 }
     kmax (s.src.rv 1).tag < s.hart.regs.tshk ∧ mmaPair .fp32 .fp32 = some false) := by decide +kernel
/-- A convoy that retires with a full copy queue, and one whose log has no room. -/
theorem witness_full_queue : (let c := copyOf (.cpyd 0 1 2 3 4 5 6) []
    let s := (ending [.copy c]).modCore 0 fun k => { k with copies := List.replicate 128 c }
    s.hart.cv.active = true ∧ s.hart.cv.sent = false ∧ s.fits s.hart.cv.effects.reverse = false ∧ s.fitsLog s.hart.cv.effects.reverse = true) ∧
    (let s := (ending [.home [] false true false]).modLog 0 fun l => { l with wt := 2 ^ 40 }
     s.fits s.hart.cv.effects.reverse = false ∧ s.fitsLog s.hart.cv.effects.reverse = false) := by decide +kernel
/-- A resume whose image is sound, and one whose image holds a poisoned sector. -/
def resumable : State := (withHart fun h => { h with slot := .saved }).modCore 0 fun c => { c with images := [(0, 0)] }
theorem witness_images : (resumable.imageSectors resumable.hart).find? resumable.badSector = none ∧
    (let s : State := { resumable with poison := [((resumable.imageSectors resumable.hart).headD 0)] }
     (s.imageSectors s.hart).find? s.badSector = some ((resumable.imageSectors resumable.hart).headD 0) ∧ s.hart.phase ≠ .halted) := by
  decide +kernel
/-- The request of a read from outside, in the queue of its home. -/
def getting : MEntry := { key := 1, body := .get 4 0x1000, origin := .publication 0 0 }
theorem witness_get : (let s := stk0 (fun t => { t with inbound := [getting] }) vec
     (s.stack 0).inbound[0]? = some getting ∧ s.reaches (s.senderOf getting) 0 = true) ∧ (∀ id sec, (entry 1 0).body ≠ .get id sec) := by
  exact ⟨by decide +kernel, fun _ _ => by unfold entry; simp⟩
/-- The bytes of a sector as home answered it. -/
theorem witness_got : (copyOf (.cpy 0 1 2 3 0 4) []).readList [] 0x1000 1 = [0] ∧
    ({ copyOf (.cpy 0 1 2 3 0 4) [] with got := [(0x1000, 7)] }).readList [] 0x1000 1 = [7] := by decide +kernel
/-- A split's hold, of a core and of a context in WNEXT, and none; the owner of the split. -/
def holdOf (who : Nat) : Walker := { state := .held, bound := [0, 0, who] }
def held (who : Nat) (r : Option Walker) : State := stk0 (fun t => { t with
  walkers := [(5, holdOf who)], replies := [(5, r)] }) (withHart fun h => { h with phase := .requested 0 })
theorem witness_holds : (∀ r ∈ [some { state := .active }, none], let s := held 3 r
     (s.stack 0).replies = [(5, r)] ∧ (s.stack 0).holdAt 5 = some (holdOf 3) ∧ (holdOf 3).bound.getD 2 0 = 3 ∧
     (let u := held 0x10000 r
      (u.stack 0).holdAt 5 = some (holdOf 0x10000) ∧ (holdOf 0x10000).bound.getD 2 0 = 0x10000 + 0 ∧ u.ctx 0 = some u.hart ∧ u.hart.key = 0 ∧
      u.hart.phase = .requested 0 ∧ u.hart.home = (holdOf 0x10000).home ∧ u.hart.launch = (holdOf 0x10000).launch)) ∧
    (splitting.stack 0).holdAt 5 = none ∧ ContextsKeyed (held 0x10000 none) ∧ splitting.splitterCore 48 = some 48 ∧
    splitting.covers 48 (splitting.launchAt 0 0).words = true ∧ splitting.reaches 0 0 = true ∧ splitting.connected 0 0 = true := by
  unfold ContextsKeyed; decide +kernel
/-- A lease that is over while no key can be given, with a member of its gang in the queue; a reset of the banks with a queue. -/
theorem witness_lease : (let s := later 100 (stk0 (fun t => { t with heldTick := true }) (banks [bankOf (.bnot 1 2) 1] none [(0, lock4 true false)]))
     s.leaseOver 0 0 = some (lock4 true false) ∧ s.bankKeyReady 0 = false ∧ (∀ c ∈ (s.stack 0).bcpq, c.stk = 0) ∧ (lock4 true false).expired = false) ∧
    (let s := later 100 (banks [] none [(0, lock4 true false)])
     s.leaseOver 0 0 = some (lock4 true false) ∧ s.bankKeyReady 0 = true) ∧
    (let s := stk0 (fun t => { t with bcpReset := some 5 }) (banks [bankOf (.bnot 1 2) 1] none [])
     (s.stack 0).bcpReset = some 5 ∧ (s.stack 0).bcpq ≠ [] ∧ ∀ c ∈ (s.stack 0).bcpq, c.stk = 0) ∧
    ((banks [] none []).stack 0).bcpq = [] := by decide +kernel
/-- A BSTP on its channel, members whose planes fit, and a BRED whose hart waits. -/
def rowsOf (i : Instr) : BankCmd := { bankOf i 1 with c := 4 <<< 24, log := 0 }
theorem witness_rows_left : (∀ i, let s := banks [] (some (rowsOf i)) []
      ((s.stack 0).channels.look 0 {}).run = some (rowsOf i) ∧ ((s.stack 0).channels.look 0 {}).hung = none ∧ s.mem = vec.mem) ∧
    (let c := rowsOf (.bnot 2 1)
     planeWidth c.a = planeWidth c.d ∧ planeWidth c.b = planeWidth c.d ∧ 0 < planeWidth c.d ∧ Memory.wf vec.mem = true ∧
     planeOff c.a = planeOff c.d ∧ planeOff c.b = planeOff c.d ∧ planeOff c.c = planeOff c.d ∧
     (∀ r ∈ planeRows c.a ++ planeRows c.b ++ planeRows c.c ++ planeRows c.d, r < 992)) ∧
    (banks [] none []).ctx (rowsOf (.bred 5 1)).log = some (banks [] none []).hart ∧
    ([1, 2] : List Row).length = 2 ∧ ContextsKeyed (banks [] none []) := by
  unfold ContextsKeyed; exact ⟨fun _ => ⟨rfl, rfl, rfl⟩, by decide +kernel, by decide +kernel, by decide, by decide +kernel⟩
/-- A module that is up takes the host's freeze; one that is not does not. -/
theorem witness_freeze : { vec with bringUp := 6 }.bringUp = 6 ∧ vec.stopped = false ∧ ({ vec with bringUp := 6 }.stack 0).pfb.frozen = false ∧
    ({ frozen0 with bringUp := 6 }.stack 0).pfb.frozen = true ∧ vec.bringUp ≠ 6 := by decide +kernel
/-- A host read that is answered at once, one in a locked row, and one whose home a request is on its way to. -/
theorem witness_host_reads : (let s := opened vec
     s.lockedAt [0, 1, 2, 3] = none ∧ ∀ p ∈ [0, 1, 2, 3], s.roundTrip (portStack 0) (homeOf p) = true) ∧
    (let s := opened (stk0 (fun t => { t with locks := [(0, lock4 true false)] }) vec)
     s.lockedAt [0, 1, 2, 3] ≠ none ∧ (portStack 0 = homeOf 0 ∨ s.wayFree (portStack 0) (homeOf 0) = true) ∧
     ((s.stack 0).lockOn (frameOf 0)).isSome = true ∧ (s.stack 0).deferred.length + 4 ≤ 1024 ∧ (s.stack 0).backlog = []) ∧
    (let s := (opened vec).modStack 0 fun t => { t with inbound := [{ getting with key := Key.mk 1 (sourceOf 2 49 0) }] }
     s.roundTrip (portStack 0) (homeOf 0) = false ∧ ¬ (portStack 0 = homeOf 0 ∨ s.wayFree (portStack 0) (homeOf 0) = true)) := by
  decide +kernel
/-- An up message applied at home with its port in reach. -/
theorem witness_notified : ∀ a : Word, (let s := netted
     s.onNetwork = true ∧ s.reaches 0 (portStack (notifyPort a)) = true) ∧
    (let s := { bound [msgOf 0x80 1 2] none [] with stackTab := [] }
     s.reaches 0 (portStack (notifyPort a)) = false) := by
  intro a
  have h : notifyPort a = 0 ∨ notifyPort a = 1 := by unfold notifyPort; omega
  rcases h with h | h <;> rw [h] <;> decide +kernel
/-- A connection that heard nothing for 600,000 ticks, and one that has heard. -/
def silent : State := { State.reset with bringUp := 6, ticks := 700000, agenda := [], stackTab := (List.range 24).map fun k => (k, { beaconLate := List.range 24, timeLate := true }), conns := [(8, { unacked := [(0, 0, [1])], sent := 1 })] }
theorem witness_silent : (silent.conn 8).dead 600000 = true ∧ (silent.conn 8).dead 599999 = false ∧ ({ } : Conn).dead 700000 = false := by decide +kernel
theorem witness_alone : silent.inReset = false ∧ silent.onNetwork = true ∧
    (silent.conn 8).dead (silent.time (pathStack 8)).toNat = true ∧ silent.agenda = [] ∧ dueBeacons silent = none ∧
    (∀ x ∈ silent.logs, x.2.reclaimable = false) ∧ (∀ x ∈ silent.cores, x.1 < 1152 → dueCore silent x.1 x.2 = none) ∧
    (∀ h ∈ silent.harts, dueContext silent h = none) ∧
    (∀ x ∈ silent.stackTab, dueMemory silent x.1 = none ∧ dueBanks silent x.1 = none ∧ dueLaunches silent x.1 = none) := by
  have hp : pathStack 8 < 24 := ether_stack 8 (by decide)
  have ht : (silent.time (pathStack 8)).toNat = 700000 := by
    have : ∀ k, k < 24 → (silent.time k).toNat = 700000 := by decide +kernel
    exact this _ hp
  rw [ht]; decide +kernel
/-- Packets at a peer port. -/
def peered : State := (List.range 24).foldl (fun s k => s.modStack k fun t => { t with
  remote := [(0, 0x70001), (1, 3), (3, 16)], links := (List.range 4).map fun e => (8 * e, { state := 2 }) }) { vec with bringUp := 6, ticks := 1 }
theorem witness_peers : peered.stopped = false ∧ peered.inReset = false ∧ peered.onNetwork = true ∧ packetOf [0xFF] = none ∧
    (let at_ := pathStack 3
     (peered.farWrite at_ 3 0 0 false [1, 2]).map (fun x => x.1) = some false ∧ peered.farWrite at_ 3 0 15 false [1, 2] = none ∧
     peered.sourceReady at_ 57 1 = true ∧ peered.putWaits at_ 3 = false ∧ peered.farAddrs at_ 3 0 1 15 2 = none ∧
     (peered.farAddrs at_ 3 0 1 0 2).isSome = true ∧ (∀ x ∈ (peered.farAddrs at_ 3 0 1 0 2).getD [], peered.roundTrip at_ (homeOf x) = true) ∧
     peered.lockedAt ((peered.farAddrs at_ 3 0 1 0 2).getD []) = none ∧ (peered.stack at_).arrivals = []) ∧
    (let s : State := { netted with poison := [0] }
     ∀ k, k < 24 → s.badSector (sectorOf 0) = true ∧ s.roundTrip k (homeOf 0) = true ∧ s.lockedAt [0, 1] = none) := by decide +kernel
/-- A module that is up takes the warm reset. -/
theorem witness_warm_up : vec.bringUp ≠ 6 ∧ { vec with bringUp := 6 }.bringUp = 6 ∧ { vec with bringUp := 6 }.stopped = false := by decide +kernel
/-- PUNPACK, PUNPACK and VLD (units VA, VA, VM) write 17 registers by R92 and R136, above the bound of R27. -/
theorem witness_writes : (([Instr.punpack 0 1 false, .punpack 1 2 false, .vld g0 3 0 6 0 false false].map fun i =>
    (Instr.memberInfo i).writes).sum = 17) := by decide

end Sys2Proof.Tests
end

/-! Bank channels and row locks: the members that come during a reset of the BCP complete with ABORT (R315). One of them may
be a BRLK whose lock, still pending, already holds back the writes above its key (R274); with the lock given up, those writes
are applied. So a step of the reset can change home memory, which O41 denies. -/

namespace Sys2Proof.BankReset

open Sys2Proof.Machine

/-- In a reset of the BCP, `bcpResetEnd` leaves in memory what the abort of the queued members leaves. -/
theorem mem_of_bcpResetEnd {s v : State} {stk u : Nat} (hk : stk < 24) (hu : (s.stack stk).bcpReset = some u)
    (hv : exec (.bcpResetEnd stk) s = .next v) :
    v.mem = ((s.stack stk).bcpq.foldl (fun s c => s.abortBank c) s).mem := by
  have hs : isStack stk = true := decide_eq_true hk
  simp only [exec_bcpResetEnd, execBcpResetEnd, hu, ifUnit, hs, if_true, Host.Outcome.next.injEq] at hv
  subst hv
  split <;> simp

/-- A lock of rows 0 to 3 of group 0 that gang 1 has asked for under key 0 and that has not taken effect. -/
def pendingLock : RowLock :=
  { gang := 1, log := 1, die := 0, a0 := 0, an := 1, row := 0, rows := 4, kl := 0, lease := 100 }

/-- The BRLK that asks for it. -/
def queuedBrlk : BankCmd := { instr := .brlk 1 2 3, stk := 0, gang := 1, log := 1, lock := 0 }

/-- A published write of the value 5 to byte 0, under a key above the lock's. -/
def heldWrite : MEntry := { key := 1, body := .record 0 1 5, origin := .publication 2 0 }

/-- Stack 0 in a reset of its BCP until TIME 4,096: a BRLK has come, and the write is set aside for its lock. -/
def lockDuringReset : State := State.reset.modStack 0 fun t =>
  { t with bcpReset := some 4096, bcpq := [queuedBrlk], locks := [(0, pendingLock)], deferred := [.entry heldWrite] }

/-- The model itself sets that write aside: the pending lock defers it. -/
theorem lockDuringReset_defers : (lockDuringReset.stack 0).defers heldWrite.key 0 = true := by decide +kernel

theorem lockDuringReset_read : lockDuringReset.mem.read 0 = 0 := by decide +kernel

/-- The abort of the BRLK gives up its lock, and the write reaches memory. -/
theorem abort_queuedBrlk_read : (lockDuringReset.abortBank queuedBrlk).mem.read 0 = 5 := by decide +kernel

/-- Refutes O41: of its last group, the clause that a step in a reset of the BCP leaves memory as it is. In
`lockDuringReset` the abort of the queued BRLK applies the write that its pending lock set aside. -/
theorem not_bankChannelsAndRowLocks : ¬ Obligations.BankChannelsAndRowLocks := by
  unfold Obligations.BankChannelsAndRowLocks
  rintro ⟨-, hlocks⟩
  obtain ⟨-, -, -, -, -, -, -, -, -, -, -, -, hreset, -⟩ :=
    hlocks lockDuringReset 0 0 0 4096 queuedBrlk pendingLock (by decide) (by decide) (by decide)
  have hu : (lockDuringReset.stack 0).bcpReset = some 4096 := rfl
  have hq : (lockDuringReset.stack 0).bcpq = [queuedBrlk] := rfl
  obtain ⟨v, hv, hkept, -⟩ := hreset hu (by simp [hq, queuedBrlk])
  have habort : v.mem = (lockDuringReset.abortBank queuedBrlk).mem := by
    rw [mem_of_bcpResetEnd (by decide) hu hv, hq]; rfl
  have hread : (5 : Byte) = 0 := by
    rw [← abort_queuedBrlk_read, ← habort, hkept, lockDuringReset_read]
  exact absurd hread (by decide)

end Sys2Proof.BankReset

/-! Bits of a register: what a field reads as after other fields, or the field itself, are replaced, and what registers that
are written element by element (vectors, predicates, tiles) read as afterwards. -/

namespace Sys2Proof.BitFields

open Sys2Proof.Machine

/-! ## One field -/

variable {k : Nat}

theorem testBit_bitsAt (x : BitVec k) (p n i : Nat) : (bitsAt x p n).testBit i = (decide (i < n) && x.getLsbD (p + i)) := by
  simp [bitsAt, Nat.testBit_mod_two_pow, Nat.testBit_div_two_pow, Nat.add_comm, BitVec.testBit_toNat]

theorem getLsbD_ofNat_shiftLeft (v p i : Nat) :
    (BitVec.ofNat k v <<< p).getLsbD i = (decide (i < k) && decide (p ≤ i) && v.testBit (i - p)) := by
  rw [BitVec.getLsbD_shiftLeft, BitVec.getLsbD_ofNat]
  by_cases hk : i < k
  · have hk' : i - p < k := Nat.lt_of_le_of_lt (Nat.sub_le i p) hk
    by_cases hp : i < p
    · simp [hp, Nat.not_le.mpr hp]
    · simp [hk, hk', hp, Nat.le_of_not_lt hp]
  · simp [hk]

theorem getLsbD_putBits (x : BitVec k) (p n v i : Nat) :
    (putBits x p n v).getLsbD i = if p ≤ i ∧ i < p + n then decide (i < k) && v.testBit (i - p) else x.getLsbD i := by
  have hx : ¬ i < k → x.getLsbD i = false := fun h => BitVec.getLsbD_of_ge x i (Nat.le_of_not_lt h)
  simp only [putBits, BitVec.getLsbD_or, BitVec.getLsbD_and, BitVec.getLsbD_not, getLsbD_ofNat_shiftLeft,
    Nat.testBit_two_pow_sub_one, Nat.testBit_mod_two_pow]
  by_cases hk : i < k
  · by_cases hp : p ≤ i
    · by_cases hn : i < p + n
      · have hin : i - p < n := by omega
        simp [hk, hp, hn, hin]
      · have hin : ¬ i - p < n := by omega
        simp [hk, hn, hin]
    · simp [hk, hp]
  · simp [hk, hx hk]

/-- A field that is replaced holds its new bits. -/
theorem bitsAt_putBits_same (x : BitVec k) {p n : Nat} (v : Nat) (h : p + n ≤ k) :
    bitsAt (putBits x p n v) p n = v % 2 ^ n := by
  apply Nat.eq_of_testBit_eq
  intro i
  rw [testBit_bitsAt, getLsbD_putBits, Nat.testBit_mod_two_pow]
  by_cases hi : i < n
  · have hk : p + i < k := by omega
    simp [hi, hk]
  · simp [hi]

/-- A field apart from the one that is replaced stays. -/
theorem bitsAt_putBits_apart (x : BitVec k) {p n q m : Nat} (v : Nat) (h : p + n ≤ q ∨ q + m ≤ p) :
    bitsAt (putBits x p n v) q m = bitsAt x q m := by
  apply Nat.eq_of_testBit_eq
  intro i
  rw [testBit_bitsAt, testBit_bitsAt, getLsbD_putBits]
  by_cases hi : i < m
  · have hout : ¬ (p ≤ q + i ∧ q + i < p + n) := by omega
    simp [hout]
  · simp [hi]

/-- A field of one bit is that bit. -/
theorem getLsbD_eq_bitsAt (x : BitVec k) (i : Nat) : x.getLsbD i = (bitsAt x i 1).testBit 0 := by
  rw [testBit_bitsAt]; rfl

theorem bitsAt_zero (p n : Nat) : bitsAt (0 : BitVec k) p n = 0 := by simp [bitsAt]

/-! ## Fields of one width, replaced one after the other -/

/-- A register with a field of width `n` replaced for each item of a list: at `pos x`, by `val x`. -/
def putAll {α : Type} (n : Nat) (pos val : α → Nat) (xs : List α) (b : BitVec k) : BitVec k :=
  xs.foldl (fun b x => putBits b (pos x) n (val x)) b

variable {α : Type} {n q : Nat} {pos val : α → Nat}

/-- A field apart from all that are replaced stays. -/
theorem bitsAt_putAll_apart {xs : List α} (b : BitVec k) (h : ∀ x ∈ xs, pos x + n ≤ q ∨ q + n ≤ pos x) :
    bitsAt (putAll n pos val xs b) q n = bitsAt b q n := by
  induction xs generalizing b with
  | nil => rfl
  | cons x xs ih =>
    calc bitsAt (putAll n pos val xs (putBits b (pos x) n (val x))) q n
        = bitsAt (putBits b (pos x) n (val x)) q n := ih _ fun y hy => h y (List.mem_cons_of_mem _ hy)
      _ = bitsAt b q n := bitsAt_putBits_apart b _ (h x List.mem_cons_self)

/-- A field that is replaced holds its new bits, where the items that replace it agree on them and every other field is
apart from it. -/
theorem bitsAt_putAll_mem {xs : List α} (b : BitVec k) {v : Nat} (hk : q + n ≤ k)
    (h : ∀ x ∈ xs, pos x = q ∧ val x = v ∨ pos x + n ≤ q ∨ q + n ≤ pos x) (hq : ∃ x ∈ xs, pos x = q ∧ val x = v) :
    bitsAt (putAll n pos val xs b) q n = v % 2 ^ n := by
  induction xs generalizing b with
  | nil => simp at hq
  | cons x xs ih =>
    have htail := fun y hy => h y (List.mem_cons_of_mem x hy)
    by_cases hlater : ∃ y ∈ xs, pos y = q ∧ val y = v
    · exact ih _ htail hlater
    · have hapart : ∀ y ∈ xs, pos y + n ≤ q ∨ q + n ≤ pos y := fun y hy =>
        (htail y hy).resolve_left fun e => hlater ⟨y, hy, e⟩
      obtain ⟨hpos, hval⟩ : pos x = q ∧ val x = v := by
        obtain ⟨y, hy, e⟩ := hq
        rcases List.mem_cons.mp hy with rfl | hy
        · exact e
        · exact absurd ⟨y, hy, e⟩ hlater
      calc bitsAt (putAll n pos val xs (putBits b (pos x) n (val x))) q n
          = bitsAt (putBits b (pos x) n (val x)) q n := bitsAt_putAll_apart _ hapart
        _ = v % 2 ^ n := by rw [hpos, hval, bitsAt_putBits_same b v hk]

end Sys2Proof.BitFields

/-! Results of members: the elements of a written vector register and the bits of a written predicate (R58, R62, R121). -/

namespace Sys2Proof.ElementMerge

open Sys2Proof.Machine Sys2Proof.BitFields

/-! ## The places of elements (R23) -/

/-- An element lies within the 1,024 bits of its lane. -/
theorem elem_in_lane {l w e : Nat} (he : e < l * (1024 / w)) : e / l * w + w ≤ 1024 := by
  have hrow : e / l < 1024 / w := Nat.div_lt_of_lt_mul he
  calc e / l * w + w = (e / l + 1) * w := (Nat.add_one_mul _ _).symm
    _ ≤ 1024 / w * w := Nat.mul_le_mul_right w hrow
    _ ≤ 1024 := Nat.div_mul_le_self 1024 w

/-- An element lies within a register of 64 lanes. -/
theorem elemPos_bound {l w e : Nat} (hl : 0 < l) (hl' : l ≤ 64) (he : e < l * (1024 / w)) : elemPos l w e + w ≤ 65536 := by
  have hin := elem_in_lane he
  have hlane : e % l < l := Nat.mod_lt e hl
  unfold elemPos
  omega

/-- Two elements lie apart. -/
theorem elemPos_apart {l w e f : Nat} (he : e < l * (1024 / w)) (hf : f < l * (1024 / w)) (hne : e ≠ f) :
    elemPos l w e + w ≤ elemPos l w f ∨ elemPos l w f + w ≤ elemPos l w e := by
  have hin := elem_in_lane he
  have hin' := elem_in_lane hf
  unfold elemPos
  by_cases hlane : e % l = f % l
  · have hrow : e / l ≠ f / l := fun hrow => hne (by rw [← Nat.div_add_mod e l, ← Nat.div_add_mod f l, hlane, hrow])
    have hstep : ∀ {a b : Nat}, a < b → a * w + w ≤ b * w := fun {a b} h => by
      calc a * w + w = (a + 1) * w := (Nat.add_one_mul _ _).symm
        _ ≤ b * w := Nat.mul_le_mul_right w h
    rcases Nat.lt_or_gt_of_ne hrow with h | h
    · have := hstep h; omega
    · have := hstep h; omega
  · omega

/-! ## Vector results -/

section
variable {l w : Nat} {xs : List (Nat × Nat)} (b : BitVec 65536)

/-- An item of a list whose indices differ is the only one of its index. -/
theorem value_of_nodup {β : Type} {xs : List (Nat × β)} (hn : (xs.map Prod.fst).Nodup) {x y : Nat × β} (hx : x ∈ xs) (hy : y ∈ xs)
    (h : y.1 = x.1) : y = x := by
  induction xs with
  | nil => cases hx
  | cons z zs ih =>
    obtain ⟨hz, hn⟩ := List.nodup_cons.mp hn
    rcases List.mem_cons.mp hx with rfl | hx'
    · rcases List.mem_cons.mp hy with rfl | hy'
      · rfl
      · exact absurd (h ▸ List.mem_map_of_mem hy') hz
    · rcases List.mem_cons.mp hy with rfl | hy'
      · exact absurd (h ▸ List.mem_map_of_mem hx') hz
      · exact ih hn hx' hy'

/-- A written element holds its bits. -/
theorem bitsAt_written (hl : 0 < l) (hl' : l ≤ 64) (hn : (xs.map Prod.fst).Nodup)
    (hb : ∀ x ∈ xs, x.1 < l * (1024 / w) ∧ x.2 < 2 ^ w) {x : Nat × Nat} (hx : x ∈ xs) :
    bitsAt (putAll w (fun x => elemPos l w x.1) Prod.snd xs b) (elemPos l w x.1) w = x.2 := by
  obtain ⟨hx1, hx2⟩ := hb x hx
  rw [bitsAt_putAll_mem b (v := x.2) (elemPos_bound hl hl' hx1) (fun y hy => ?_) ⟨x, hx, rfl, rfl⟩, Nat.mod_eq_of_lt hx2]
  by_cases h : y.1 = x.1
  · exact .inl (by rw [value_of_nodup hn hx hy h]; exact ⟨rfl, rfl⟩)
  · exact .inr (elemPos_apart (hb y hy).1 hx1 h)

/-- An element that is not written stays. -/
theorem bitsAt_unwritten (hb : ∀ x ∈ xs, x.1 < l * (1024 / w)) {e : Nat} (he : e < l * (1024 / w)) (hx : e ∉ xs.map Prod.fst) :
    bitsAt (putAll w (fun x => elemPos l w x.1) Prod.snd xs b) (elemPos l w e) w = bitsAt b (elemPos l w e) w :=
  bitsAt_putAll_apart b fun x hm => elemPos_apart (hb x hm) he fun h => hx (h ▸ List.mem_map_of_mem hm)

end

variable (s : State) (g : Gov)

/-- With no active element, a vector result is written under .z only. -/
theorem writeV_inactive (vd : VReg) (t : Tag) (xs : List (Nat × Nat)) (scale : VRegS → BitVec 4096) (ha : s.anyActive g = false)
    (hz : g.z = false) : s.writeV g vd t xs scale = s := by simp [State.writeV, State.writeVAny, ha, hz]

/-- A vector result is a write of its register, or nothing. -/
theorem writeV_cases (vd : VReg) (t : Tag) (xs : List (Nat × Nat)) (scale : VRegS → BitVec 4096) :
    s.writeV g vd t xs scale = s ∨ ∃ x, s.writeV g vd t xs scale = s.modRegs fun r => r.wv vd x := by
  unfold State.writeV State.writeVAny
  split
  · exact .inl rfl
  · exact .inr ⟨_, rfl⟩

/-- The bits of a register before the elements of a result of width `w` are put in: zero under .z or where the element width
changes (R62). -/
def mergeBase (w : Nat) (old : VRegS) : BitVec 65536 := if g.z || !decide (tagWidth old.tag = w) then 0 else old.bits

/-- With an active element, the register takes the tag and the merged bits. -/
theorem writeV_active (vd : VReg) (t : Tag) (xs : List (Nat × Nat)) (scale : VRegS → BitVec 4096) (ha : s.anyActive g = true) :
    ((s.writeV g vd t xs scale).hart.regs.rv vd).tag = t ∧
    ((s.writeV g vd t xs scale).hart.regs.rv vd).bits = putAll (tagWidth t) (fun x => elemPos s.hart.lanes (tagWidth t) x.1)
      Prod.snd xs (mergeBase g (tagWidth t) (s.src.rv vd)) := by
  have hw : (!s.anyActive g && !g.z) = false := by simp [ha]
  unfold State.writeV State.writeVAny
  rw [if_neg (by simp [hw])]
  simp only [State.modRegs_regs, Regs.rv_wv_same, true_and]
  rfl

/-! ## Predicate results -/

/-- With no active element, a predicate result is written under .z only. -/
theorem writeP_inactive (pd : PReg) (xs : List (Nat × Bool)) (ha : s.anyActive g = false) (hz : g.z = false) :
    s.writeP g pd xs = s := by simp [State.writeP, ha, hz]

/-- A predicate result is a write of its register, or nothing. -/
theorem writeP_cases (pd : PReg) (xs : List (Nat × Bool)) :
    s.writeP g pd xs = s ∨ ∃ x, s.writeP g pd xs = s.modRegs fun r => r.wp pd x := by
  unfold State.writeP
  split
  · exact .inl rfl
  · exact .inr ⟨_, rfl⟩

theorem rp_wp_same (r : Regs) {n : PReg} (x : BitVec 16384) (h : n ≠ 0) : ((r.wp n x).rp n).bits = x := by
  rw [Regs.rp, Regs.wp, if_neg h, if_neg h]
  exact congrArg PRegS.bits (Tbl.look_put_same _ _ _ _)

/-- With an active element, or under .z, the predicate takes the merged bits. -/
theorem writeP_active (pd : PReg) (xs : List (Nat × Bool)) (hp : pd ≠ 0) (ha : s.anyActive g = true ∨ g.z = true) :
    ((s.writeP g pd xs).hart.regs.rp pd).bits = putAll 1 Prod.fst (fun x => if x.2 then 1 else 0) xs
      (if g.z then 0 else (s.src.rp pd).bits) := by
  have hw : (!s.anyActive g && !g.z) = false := by rcases ha with h | h <;> simp [h]
  unfold State.writeP
  rw [if_neg (by simp [hw]), State.modRegs_regs, rp_wp_same _ _ hp]
  rfl

/-- A written bit of a predicate. -/
theorem getLsbD_written {xs : List (Nat × Bool)} (b : BitVec 16384) (hn : (xs.map Prod.fst).Nodup) (hb : ∀ x ∈ xs, x.1 < 16384)
    {x : Nat × Bool} (hx : x ∈ xs) : (putAll 1 Prod.fst (fun x => if x.2 then 1 else 0) xs b).getLsbD x.1 = x.2 := by
  rw [getLsbD_eq_bitsAt, bitsAt_putAll_mem b (v := if x.2 then 1 else 0) (hb x hx) (fun y hy => ?_) ⟨x, hx, rfl, rfl⟩]
  · cases x.2 <;> rfl
  · by_cases h : y.1 = x.1
    · exact .inl (by rw [value_of_nodup hn hx hy h]; exact ⟨rfl, rfl⟩)
    · exact .inr (by omega)

/-- A bit of a predicate that is not written stays. -/
theorem getLsbD_unwritten {xs : List (Nat × Bool)} (b : BitVec 16384) {e : Nat} (hx : e ∉ xs.map Prod.fst) :
    (putAll 1 Prod.fst (fun x => if x.2 then 1 else 0) xs b).getLsbD e = b.getLsbD e := by
  rw [getLsbD_eq_bitsAt, getLsbD_eq_bitsAt, bitsAt_putAll_apart b fun x hm => ?_]
  have h : x.1 ≠ e := fun h => hx (h ▸ List.mem_map_of_mem hm)
  omega

/-! ## The statement -/

/-- Settles O22: a result is written field by field over the merged old bits, and the fields of different elements lie apart. -/
theorem resultsMergeByElement : Obligations.ResultsMergeByElement := by
  unfold Obligations.ResultsMergeByElement
  constructor
  · intro s g vd t xs scale l w u old hl hl' hn hb
    refine ⟨fun ha hz => writeV_inactive s g vd t xs scale ha hz, fun ha => ?_, ?_⟩
    · obtain ⟨htag, hbits⟩ := writeV_active s g vd t xs scale ha
      refine ⟨htag, fun x hx => ?_, fun e he hx => ?_⟩
      · rw [VRegS.elem, hbits]
        exact bitsAt_written _ hl hl' hn hb hx
      · rw [VRegS.elem, hbits, bitsAt_unwritten _ (fun x hx => (hb x hx).1) he hx, mergeBase]
        by_cases hz : g.z = true ∨ tagWidth old.tag ≠ w
        · rw [if_pos hz, if_pos (by simpa using hz), bitsAt_zero]
        · rw [if_neg hz, if_neg (by simpa using hz)]; rfl
    · rcases writeV_cases s g vd t xs scale with h | ⟨x, h⟩ <;> simp only [u, h]
      · simp
      · exact ⟨fun v hv => Regs.rv_wv_other _ x hv, rfl, rfl, rfl⟩
  · intro s g pd xs u hn hb hp
    refine ⟨fun ha hz => writeP_inactive s g pd xs ha hz, fun ha => ?_, ?_⟩
    · have hbits := writeP_active s g pd xs hp ha
      refine ⟨fun x hx => ?_, fun e he => ?_⟩
      · rw [hbits, getLsbD_written _ hn hb hx]
      · rw [hbits, getLsbD_unwritten _ he]
        cases g.z <;> simp
    · rcases writeP_cases s g pd xs with h | ⟨x, h⟩ <;> simp only [u, h]
      · simp
      · exact ⟨fun p hpp => Regs.rp_wp_other _ x hpp, by simp, by simp, rfl⟩

end Sys2Proof.ElementMerge

/-! Matrix multiplication: the elements that MMA and MMAS compute, the lanes' check of them with an armed perturbation, and the
tile and flags that they leave (R65, R185, R192, R193, R198, R200). -/

namespace Sys2Proof.MatrixMultiply

open Sys2Proof.Machine Sys2Proof.BitFields

/-! ## Work on the elements of a tile -/

/-- The elements (i, j) of the first `m` rows and the columns `js`, each with what `f` gives it, in the order in which a
multiplication visits them. -/
def tileWork {α : Type} (m : Nat) (js : List Nat) (f : Nat → Nat → α) : List (Nat × Nat × α) :=
  (List.range m).flatMap fun i => js.map fun j => (i, j, f i j)

section
variable {α β : Type} {m : Nat} {js : List Nat} {f g : Nat → Nat → α}

theorem mem_tileWork {x : Nat × Nat × α} : x ∈ tileWork m js f ↔ x.1 < m ∧ x.2.1 ∈ js ∧ x.2.2 = f x.1 x.2.1 := by
  obtain ⟨i, j, v⟩ := x
  simp only [tileWork, List.mem_flatMap, List.mem_range, List.mem_map, Prod.mk.injEq]
  constructor
  · rintro ⟨i, hi, j, hj, rfl, rfl, rfl⟩
    exact ⟨hi, hj, rfl⟩
  · rintro ⟨hi, hj, rfl⟩
    exact ⟨i, hi, j, hj, rfl, rfl, rfl⟩

theorem map_tileWork (h : Nat × Nat × α → β) :
    (tileWork m js f).map (fun x => (x.1, x.2.1, h x)) = tileWork m js fun i j => h (i, j, f i j) := by
  simp [tileWork, List.map_flatMap, Function.comp_def]

/-- Two functions give the same work where they agree on every element. -/
theorem tileWork_eq_iff : tileWork m js f = tileWork m js g ↔ ∀ i j, i < m → j ∈ js → f i j = g i j := by
  constructor
  · intro h i j hi hj
    have hmem : (i, j, f i j) ∈ tileWork m js g := h ▸ mem_tileWork.mpr ⟨hi, hj, rfl⟩
    exact (mem_tileWork.mp hmem).2.2
  · intro h
    rw [tileWork, tileWork, List.flatMap_def, List.flatMap_def]
    refine congrArg List.flatten (List.map_congr_left fun i hi => List.map_congr_left fun j hj => ?_)
    rw [h i j (List.mem_range.mp hi) hj]

end

/-! ## Tiles (R185) -/

theorem tilePos_apart {i j i' j' : Nat} (hj : j < 1024) (hj' : j' < 1024) (h : ¬ (i = i' ∧ j = j')) :
    tilePos i j + 32 ≤ tilePos i' j' ∨ tilePos i' j' + 32 ≤ tilePos i j := by
  unfold tilePos; omega

theorem tilePos_bound {i j : Nat} (hi : i < 32) (hj : j < 1024) : tilePos i j + 32 ≤ 1048576 := by
  unfold tilePos; omega

variable (r : Regs) (n : BitVec 2)

theorem tile_putTile_same (xs : List (Nat × Nat × Nat)) :
    (r.putTile n xs).tile n = putAll 32 (fun x => tilePos x.1 x.2.1) (fun x => x.2.2) xs (r.tile n) :=
  Tbl.look_put_same _ _ _ _

theorem tile_putTile_other (xs : List (Nat × Nat × Nat)) {b : BitVec 2} (h : b ≠ n) : (r.putTile n xs).tile b = r.tile b :=
  Tbl.look_put_other _ _ _ fun e => h (BitVec.eq_of_toNat_eq e)

section
variable {m : Nat} {js : List Nat} {f : Nat → Nat → Nat} {i j : Nat}

/-- A computed element holds its value. -/
theorem tileElem_putTile_computed (hm : m ≤ 32) (hjs : ∀ j ∈ js, j < 1024) (hi : i < m) (hj : j ∈ js) :
    (r.putTile n (tileWork m js f)).tileElem n i j = f i j % 2 ^ 32 := by
  rw [Regs.tileElem, tile_putTile_same]
  refine bitsAt_putAll_mem _ (tilePos_bound (by omega) (hjs j hj)) (fun x hx => ?_) ⟨(i, j, f i j), mem_tileWork.mpr ⟨hi, hj, rfl⟩, rfl, rfl⟩
  obtain ⟨-, hx2, hxv⟩ := mem_tileWork.mp hx
  by_cases h : x.1 = i ∧ x.2.1 = j
  · obtain ⟨h1, h2⟩ := h
    exact .inl ⟨by rw [h1, h2], by rw [hxv, h1, h2]⟩
  · exact .inr (tilePos_apart (hjs _ hx2) (hjs j hj) h)

/-- An element that is not computed stays. -/
theorem tileElem_putTile_outside (hjs : ∀ j ∈ js, j < 1024) (hj' : j < 1024) (h : m ≤ i ∨ j ∉ js) :
    (r.putTile n (tileWork m js f)).tileElem n i j = r.tileElem n i j := by
  rw [Regs.tileElem, tile_putTile_same]
  refine bitsAt_putAll_apart _ fun x hx => ?_
  obtain ⟨hx1, hx2, -⟩ := mem_tileWork.mp hx
  refine tilePos_apart (hjs _ hx2) hj' ?_
  rintro ⟨rfl, rfl⟩
  rcases h with h | h
  · exact Nat.not_lt.mpr h hx1
  · exact h hx2

end

/-! ## Flags -/

/-- The flags ORed over a list are those of its items. -/
theorem getLsbD_foldl_or {α : Type} (fl : α → FpFlags) (xs : List α) (z : FpFlags) (b : Nat) :
    (xs.foldl (fun a x => a ||| fl x) z).getLsbD b = true ↔ z.getLsbD b = true ∨ ∃ x ∈ xs, (fl x).getLsbD b = true := by
  induction xs generalizing z with
  | nil => simp
  | cons x xs ih => simp [ih, or_assoc]

/-! ## The lanes' check of a member that meets no fault (R165, R200) -/

/-- CHKMISC after one more miscompare: it counts to its limit (R188). -/
def counted (n : BitVec 32) : BitVec 32 := if n = BitVec.allOnes 32 then n else n + 1

/-- A lane of the grant is the one under check (R165). -/
def underCheck (h : Hart) (l : Nat) : Bool := h.regs.physLane l % 4 == h.cseq.toNat % 4

/-- What the check of a member that meets no fault leaves of a state: the context, memory, the faults of the core, and
CHKMISC at `n`. -/
structure CheckLeaves (s t : State) (n : BitVec 32) : Prop where
  hart : t.hart = s.hart
  mem : t.mem = s.mem
  defects : (t.core s.hart.core).defects = (s.core s.hart.core).defects
  chkmisc : (t.core s.hart.core).chkmisc = n

theorem CheckLeaves.refl (s : State) : CheckLeaves s s (s.core s.hart.core).chkmisc := ⟨rfl, rfl, rfl, rfl⟩

theorem CheckLeaves.lanesSound {s t : State} {n : BitVec 32} {cls : Nat} (h : CheckLeaves s t n) (hs : LanesSound s cls) : LanesSound t cls := by
  unfold LanesSound
  rw [h.hart, h.defects]
  exact hs

@[simp] theorem raise_zero (s : State) : s.raise 0#6 = s := by simp [State.raise, State.modHart]

@[simp] theorem recordFaults_nil (s : State) : s.recordFaults [] = s := rfl

theorem CheckLeaves.spend_nil {s t : State} {n : BitVec 32} (h : CheckLeaves s t n) : CheckLeaves s (t.spend []) n :=
  ⟨h.hart, h.mem, by simp [State.spend, h.hart, h.defects], by simp [State.spend, h.hart, h.chkmisc]⟩

/-- A miscompare counts. -/
theorem CheckLeaves.count {s t : State} {n : BitVec 32} (h : CheckLeaves s t n) :
    CheckLeaves s (t.modCore s.hart.core fun c => { c with chkmisc := counted c.chkmisc }) (counted n) :=
  ⟨h.hart, h.mem, by simp [h.defects], by simp [h.chkmisc]⟩

theorem pfb_cores (s : State) (k ty agent slot lg hart : Nat) (a b : Word) : (s.pfb k ty agent slot lg hart a b).cores = s.cores := by
  unfold State.pfb; dsimp only; split <;> rfl

theorem pfb_hart (s : State) (k ty agent slot lg hart : Nat) (a b : Word) : (s.pfb k ty agent slot lg hart a b).hart = s.hart := by
  unfold State.pfb; dsimp only; split <;> rfl

theorem pfb_mem (s : State) (k ty agent slot lg hart : Nat) (a b : Word) : (s.pfb k ty agent slot lg hart a b).mem = s.mem := by
  unfold State.pfb; dsimp only; split <;> rfl

/-- A photo-finish event changes nothing of it. -/
theorem CheckLeaves.pfbHart {s t : State} {n : BitVec 32} (h : CheckLeaves s t n) (x : Hart) (ty : Nat) (a b : Word) :
    CheckLeaves s (t.pfbHart x ty a b) n := by
  have hcore : ∀ k ag sl lg y, ((t.pfb k ty ag sl lg y a b).core s.hart.core) = t.core s.hart.core := fun _ _ _ _ _ => by
    rw [State.core, pfb_cores]; rfl
  unfold State.pfbHart
  split <;> exact ⟨by rw [pfb_hart, h.hart], by rw [pfb_mem, h.mem], by rw [hcore, h.defects], by rw [hcore, h.chkmisc]⟩

section
variable {s : State} {cls : Nat}

theorem lanesSound_of_sound (h : LanesSound s cls) : s.lanesSound cls = true := by
  simp only [State.lanesSound, Bool.and_eq_true, List.all_eq_true]
  exact ⟨fun d hd => by simp [h.1 d hd], fun x hx => by simp [h.2 x hx]⟩

/-- No fault of the core meets the member. -/
theorem defects_filter_nil (h : LanesSound s cls) (p : Defect → Bool) :
    (s.core s.hart.core).defects.filter (fun d => d.cls == cls && p d) = [] :=
  List.filter_eq_nil_iff.mpr fun d hd => by simp [h.1 d hd]

theorem cls_of_stoodNow (h : LanesSound s cls) {d : Defect} (hd : d ∈ s.hart.stoodNow) : d.cls ≠ cls := by
  obtain ⟨x, hx, rfl⟩ := List.mem_map.mp hd
  exact h.2 x (List.mem_filter.mp hx).1

theorem stoodNow_filter_nil (h : LanesSound s cls) (p : Defect → Bool) :
    s.hart.stoodNow.filter (fun d => d.cls == cls && p d) = [] :=
  List.filter_eq_nil_iff.mpr fun d hd => by simp [cls_of_stoodNow h hd]

theorem stoodNow_any_false (h : LanesSound s cls) (p : Defect → Bool) :
    s.hart.stoodNow.any (fun d => d.cls == cls && p d) = false :=
  List.any_eq_false.mpr fun d hd => by simp [cls_of_stoodNow h hd]

/-- No check is lost. -/
theorem loseChecks_of_sound (h : LanesSound s cls) (lanes : List Nat) : s.loseChecks cls lanes = (s, []) := by
  unfold State.loseChecks
  dsimp only
  generalize (lanes.map fun l => s.hart.regs.physLane l / 4).eraseDups = cs
  induction cs with
  | nil => rfl
  | cons c cs ih =>
    rw [List.foldl_cons, stoodNow_any_false h, defects_filter_nil h]
    exact ih

/-- A lane's working result that is perturbed at lane `p` is found wrong. -/
def found (h : Hart) (p l : Nat) : Bool := underCheck h l && p == l

/-- One lane's work: where its result is found wrong, it computes again and CHKMISC counts. -/
theorem laneGroup_of_sound {s₀ : State} {n : BitVec 32} (hk : CheckLeaves s₀ s n) (h : LanesSound s cls) (p l : Nat) (again : List Nat) :
    ∃ t, laneGroup cls [] false (some p) (.fine s [] again) [l] = .fine t [] (if found s.hart p l then l :: again else again) ∧
      CheckLeaves s₀ t (if found s.hart p l then counted n else n) := by
  unfold laneGroup
  simp only [defects_filter_nil h, stoodNow_filter_nil h]
  cases hc : found s.hart p l
  · have hmiss : ¬ (s.hart.regs.physLane l % 4 = s.hart.cseq.toNat % 4 ∧ p = l) := by simpa [found, underCheck] using hc
    refine ⟨s.spend [], ?_, hk.spend_nil⟩
    simp [hmiss]
  · have hhit : s₀.hart.regs.physLane l % 4 = s₀.hart.cseq.toNat % 4 ∧ p = l := by simpa [found, underCheck, hk.hart] using hc
    refine ⟨_, ?_, (hk.spend_nil.count).pfbHart s.hart 1 (s.hart.lanePayload cls (s.hart.regs.physLane p)) 0⟩
    simp [hhit, counted, hk.hart]

/-- The work of several lanes, each its own group: CHKMISC counts once where lane `p` is one of them and is found wrong. -/
theorem laneGroups_of_sound {s₀ : State} (h : LanesSound s₀ cls) (p : Nat) (ls : List Nat) (hn : ls.Nodup) (n : BitVec 32)
    (again : List Nat) (hp : p ∈ again → p ∉ ls) (hk : CheckLeaves s₀ s n) :
    ∃ t ls', (ls.map fun l => [l]).foldl (laneGroup cls [] false (some p)) (.fine s [] again) = .fine t [] ls' ∧
      CheckLeaves s₀ t (if p ∈ ls ∧ underCheck s₀.hart p = true then counted n else n) ∧
      (p ∈ ls' ↔ p ∈ again ∨ p ∈ ls ∧ underCheck s₀.hart p = true) := by
  induction ls generalizing s n again with
  | nil => exact ⟨s, again, rfl, by simpa using hk, by simp⟩
  | cons l ls ih =>
    obtain ⟨hl, hn'⟩ := List.nodup_cons.mp hn
    obtain ⟨t, ht, hkt⟩ := laneGroup_of_sound hk (hk.lanesSound h) p l again
    rw [hk.hart] at ht hkt
    simp only [List.map_cons, List.foldl_cons, ht]
    by_cases hpl : p = l
    · subst hpl
      have hfound : found s₀.hart p p = underCheck s₀.hart p := by simp [found]
      rw [hfound] at hkt ⊢
      obtain ⟨u, ls', hu, hku, hmem⟩ := ih hn' _ _ (fun _ => hl) hkt
      refine ⟨u, ls', hu, ?_, ?_⟩
      · simpa [hl] using hku
      · rw [hmem]
        cases underCheck s₀.hart p <;> simp [hl]
    · have hfound : found s₀.hart p l = false := by simp [found, hpl]
      rw [hfound] at hkt ⊢
      obtain ⟨u, ls', hu, hku, hmem⟩ := ih hn' _ _ (fun h => fun h' => hp h (List.mem_cons_of_mem _ h')) hkt
      refine ⟨u, ls', hu, ?_, ?_⟩
      · simpa [hpl] using hku
      · simpa [hpl] using hmem

/-- The lanes' check of a member that meets no fault, the working result of lane `p` of `ls` being perturbed. -/
theorem checkLanes_of_sound (h : LanesSound s cls) {p : Nat} {ls : List Nat} (hn : ls.Nodup) (hp : p ∈ ls) :
    ∃ t again, s.checkLanes cls [] ls (some p) = .fine t [] again ∧ (p ∈ again ↔ underCheck s.hart p = true) ∧
      CheckLeaves s t (if underCheck s.hart p = true then counted (s.core s.hart.core).chkmisc else (s.core s.hart.core).chkmisc) := by
  obtain ⟨t, again, ht, hk, hmem⟩ := laneGroups_of_sound h p ls hn _ [] (by simp) (CheckLeaves.refl s)
  refine ⟨t, again, ?_, by simpa [hp] using hmem, by simpa [hp] using hk⟩
  simpa [State.checkLanes, loseChecks_of_sound h] using ht

/-! ## The armed perturbation (R198, R200) -/

/-- The perturbation that MXPCMD asks for is found in the lane under check, which computes again without it. -/
def takenBack (h : Hart) (int : Bool) (js : List Nat) (xs : List (Nat × Nat × Nat)) : Bool :=
  h.perturbed int (h.perturbs js) xs != xs && (h.perturbs js).any fun p => underCheck h (p.2 % h.lanes)

/-- The registers with the command of MXPCMD used up. -/
def disarmed (r : Regs) : Regs := { r with mxpcmd := r.mxpcmd &&& ~~~1 }

/-- The elements that the lanes give: perturbed, unless the perturbation is taken back. -/
def givenBy (h : Hart) (int : Bool) (js : List Nat) (xs : List (Nat × Nat × Nat)) : List (Nat × Nat × Nat) :=
  if takenBack h int js xs then xs else h.perturbed int (h.perturbs js) xs

/-- The row that MXPCMD names (R188). -/
def cmdRow (r : Regs) : Nat := r.mxpcmd.toNat / 64 % 32

/-- The column that MXPCMD names (R188). -/
def cmdCol (r : Regs) : Nat := r.mxpcmd.toNat / 65536 % 2048

/-- The element that is perturbed is the one that an armed MXPCMD names, where the member computes it. -/
theorem perturbs_eq_some_iff {h : Hart} {js : List Nat} {p : Nat × Nat} :
    h.perturbs js = some p ↔ (h.regs.mxpcmd.getLsbD 0 = true ∧ h.cv.idx ∉ h.att.perturbed) ∧
      (cmdRow h.regs < h.regs.tshm ∧ cmdCol h.regs ∈ js) ∧ p = (cmdRow h.regs, cmdCol h.regs) := by
  unfold Hart.perturbs cmdRow cmdCol
  simp only [Option.ite_none_right_eq_some, Bool.and_eq_true, decide_eq_true_eq, List.contains_iff_mem, Bool.not_eq_true',
    Option.some.injEq, ← Bool.not_eq_true]
  constructor
  · rintro ⟨⟨⟨⟨ha, hi⟩, hj⟩, hn⟩, rfl⟩
    exact ⟨⟨ha, hn⟩, ⟨hi, hj⟩, rfl⟩
  · rintro ⟨⟨ha, hn⟩, ⟨hi, hj⟩, rfl⟩
    exact ⟨⟨⟨⟨ha, hi⟩, hj⟩, hn⟩, rfl⟩

theorem perturbs_mem {h : Hart} {js : List Nat} {p : Nat × Nat} (hp : h.perturbs js = some p) : p.2 ∈ js := by
  obtain ⟨-, ⟨-, hj⟩, rfl⟩ := perturbs_eq_some_iff.mp hp
  exact hj

theorem perturbed_none (h : Hart) (int : Bool) (xs : List (Nat × Nat × Nat)) : h.perturbed int none xs = xs := by
  simp [Hart.perturbed]

theorem flipped_nil_map (l : Nat) (xs : List (Nat × Nat × Nat)) :
    (xs.map fun x => (x.1, x.2.1, flipped l [] 32 x.2.1 x.2.2)) = xs := by simp

theorem nodup_eraseDups : ∀ l : List Nat, l.eraseDups.Nodup
  | [] => by simp
  | a :: l => by
    rw [List.eraseDups_cons, List.nodup_cons]
    exact ⟨by simp [List.mem_eraseDups], nodup_eraseDups _⟩
termination_by l => l.length
decreasing_by exact Nat.lt_succ_of_le (List.length_filter_le ..)

theorem nodup_lanesOf (s : State) (js : List Nat) : (s.lanesOf js).Nodup := nodup_eraseDups _

/-- The lane of a column is among the lanes that work. -/
theorem lane_mem_lanesOf (s : State) {js : List Nat} {j : Nat} (hj : j ∈ js) : j % s.hart.lanes ∈ s.lanesOf js := by
  rw [State.lanesOf, List.mem_eraseDups]
  exact List.mem_map_of_mem hj

/-- What a multiplication that meets no fault does with its elements. -/
theorem checkTile_of_sound (h : LanesSound s cls) (n : BitVec 2) (int : Bool) (js : List Nat) (xs : List (Nat × Nat × Nat)) :
    ∃ t, s.checkTile n int cls js xs = .fine t [] [] ∧ t.hart.cv = s.hart.cv ∧ t.mem = s.mem ∧
      t.hart.regs = (disarmed s.hart.regs).putTile n (givenBy s.hart int js xs) ∧
      (t.core s.hart.core).chkmisc =
        if takenBack s.hart int js xs then counted (s.core s.hart.core).chkmisc else (s.core s.hart.core).chkmisc := by
  unfold State.checkTile
  by_cases hsame : s.hart.perturbed int (s.hart.perturbs js) xs = xs
  · have hback : takenBack s.hart int js xs = false := by simp [takenBack, hsame]
    simp only [hsame, beq_self_eq_true, if_true, lanesSound_of_sound h, Option.isNone_none, Bool.and_self, Option.any_none,
      Bool.false_eq_true, if_false, flipped_nil_map, givenBy, hback]
    exact ⟨_, rfl, rfl, rfl, rfl, rfl⟩
  · obtain ⟨p, hp⟩ : ∃ p, s.hart.perturbs js = some p := by
      cases hp : s.hart.perturbs js with
      | none => exact absurd (by rw [hp, perturbed_none]) hsame
      | some p => exact ⟨p, rfl⟩
    obtain ⟨t, again, ht, hmem, hk⟩ := checkLanes_of_sound h (nodup_lanesOf s js) (lane_mem_lanesOf s (perturbs_mem hp))
    have hbeq : (s.hart.perturbed int (some p) xs == xs) = false := by simpa [hp] using hsame
    have hback : takenBack s.hart int js xs = underCheck s.hart (p.2 % s.hart.lanes) := by simp [takenBack, hp, bne, hbeq]
    simp only [hp, hbeq, Bool.false_eq_true, if_false, Option.map_some, Option.isNone_some, Bool.and_false, ht, Option.any_some,
      List.contains_iff_mem, hmem, flipped_nil_map, givenBy, hback]
    cases hu : underCheck s.hart (p.2 % s.hart.lanes) <;> rw [hu] at hk <;> rw [← hk.hart]
    all_goals exact ⟨_, rfl, rfl, hk.mem, rfl, by rw [hk.hart]; exact hk.chkmisc⟩

end

section
variable {h : Hart} {int : Bool} {js : List Nat} {f : Nat → Nat → Nat}

/-- The value that MXPCMD adds (R188). -/
def cmdValue (r : Regs) : Nat := r.mxpcmd.toNat / 2 ^ 32

theorem perturbed_tileWork (p : Option (Nat × Nat)) (m : Nat) :
    h.perturbed int p (tileWork m js f) =
      tileWork m js fun i j => if p = some (i, j) then perturb int (f i j) (cmdValue h.regs) else f i j := by
  rw [← map_tileWork fun x : Nat × Nat × Nat => if p = some (x.1, x.2.1) then perturb int x.2.2 (cmdValue h.regs) else x.2.2]
  refine List.map_congr_left fun x _ => ?_
  by_cases hx : p = some (x.1, x.2.1) <;> simp [hx, cmdValue]

/-- The value that a multiplication gives an element of the shape. -/
def givenAt (h : Hart) (int : Bool) (js : List Nat) (f : Nat → Nat → Nat) (i j : Nat) : Nat :=
  if takenBack h int js (tileWork h.regs.tshm js f) = false ∧ h.perturbs js = some (i, j) then
    perturb int (f i j) (cmdValue h.regs) else f i j

theorem givenBy_tileWork :
    givenBy h int js (tileWork h.regs.tshm js f) = tileWork h.regs.tshm js (givenAt h int js f) := by
  unfold givenBy givenAt
  cases takenBack h int js (tileWork h.regs.tshm js f)
  · simpa using perturbed_tileWork _ _
  · simp

/-- MXPCMD names an element that the member computes. -/
def Named (r : Regs) (js : List Nat) : Prop := cmdRow r < r.tshm ∧ cmdCol r ∈ js

theorem perturbs_unarmed (ha : h.regs.mxpcmd.getLsbD 0 = false) : h.perturbs js = none :=
  Option.eq_none_iff_forall_not_mem.mpr fun p hp => by
    obtain ⟨⟨ha', -⟩, -⟩ := perturbs_eq_some_iff.mp hp
    exact Bool.false_ne_true (ha.symm.trans ha')

theorem givenAt_unarmed (ha : h.regs.mxpcmd.getLsbD 0 = false) (i j : Nat) : givenAt h int js f i j = f i j := by
  simp [givenAt, perturbs_unarmed ha]

section
variable (ha : h.regs.mxpcmd.getLsbD 0 = true) (hn : h.cv.idx ∉ h.att.perturbed)
include ha hn

theorem perturbs_armed {p : Nat × Nat} : h.perturbs js = some p ↔ Named h.regs js ∧ p = (cmdRow h.regs, cmdCol h.regs) := by
  rw [perturbs_eq_some_iff]
  exact ⟨fun ⟨_, hp⟩ => hp, fun hp => ⟨⟨ha, hn⟩, hp⟩⟩

/-- An armed perturbation is taken back where it changes a result of the lane under check. -/
theorem takenBack_armed :
    takenBack h int js (tileWork h.regs.tshm js f) = true ↔ Named h.regs js ∧
      perturb int (f (cmdRow h.regs) (cmdCol h.regs)) (cmdValue h.regs) ≠ f (cmdRow h.regs) (cmdCol h.regs) ∧
      underCheck h (cmdCol h.regs % h.lanes) = true := by
  unfold takenBack
  rw [Bool.and_eq_true, bne_iff_ne, perturbed_tileWork, ne_eq, tileWork_eq_iff]
  by_cases hp : Named h.regs js
  · have hat : h.perturbs js = some (cmdRow h.regs, cmdCol h.regs) := (perturbs_armed ha hn).mpr ⟨hp, rfl⟩
    simp only [hat, Option.any_some, hp, true_and]
    refine and_congr_left' (not_congr ⟨fun he => ?_, fun he i j _ _ => ?_⟩)
    · simpa using he _ _ hp.1 hp.2
    · split
      · next hij => cases hij; exact he
      · rfl
  · have hat : h.perturbs js = none := Option.eq_none_iff_forall_not_mem.mpr fun p hat => hp ((perturbs_armed ha hn).mp hat).1
    simp [hat, hp]

/-- The element that an armed MXPCMD names. -/
theorem givenAt_named (hp : Named h.regs js) :
    givenAt h int js f (cmdRow h.regs) (cmdCol h.regs) =
      if perturb int (f (cmdRow h.regs) (cmdCol h.regs)) (cmdValue h.regs) ≠ f (cmdRow h.regs) (cmdCol h.regs) ∧
          underCheck h (cmdCol h.regs % h.lanes) = true
      then f (cmdRow h.regs) (cmdCol h.regs) else perturb int (f (cmdRow h.regs) (cmdCol h.regs)) (cmdValue h.regs) := by
  have hat : h.perturbs js = some (cmdRow h.regs, cmdCol h.regs) := (perturbs_armed ha hn).mpr ⟨hp, rfl⟩
  have hback := takenBack_armed (int := int) (js := js) (f := f) ha hn
  unfold givenAt
  simp only [hp, true_and] at hback
  simp only [hat, and_true, ← hback]
  cases takenBack h int js (tileWork h.regs.tshm js f) <;> rfl

/-- Every other element. -/
theorem givenAt_unnamed {i j : Nat} (hij : ¬ (i = cmdRow h.regs ∧ j = cmdCol h.regs)) : givenAt h int js f i j = f i j := by
  have hat : h.perturbs js ≠ some (i, j) := fun hat => hij (by
    obtain ⟨-, he⟩ := (perturbs_armed ha hn).mp hat
    exact Prod.mk.injEq .. ▸ he)
  unfold givenAt
  rw [if_neg fun hc => hat hc.2]

end
end

/-! ## The members (R192, R193) -/

theorem headD_eight (vb : VReg) (f : VReg → VRegS) : ((eight vb).map f).headD {} = f vb := by
  have hvb : vb + BitVec.ofNat 6 0 = vb := BitVec.add_zero vb
  exact congrArg f hvb

theorem vb_mem_eight (vb : VReg) : vb ∈ eight vb :=
  List.mem_map.mpr ⟨0, by decide, BitVec.add_zero vb⟩

section
variable (s : State) (g : Gov) (acc : BitVec 2) (va vb : VReg) (cls : Nat) (pair : Tag → Tag → Option Bool) (int : Bool) (t : Tag)

/-- The columns of the shape that are active. -/
def activeColumns : List Nat := (List.range s.hart.regs.tshn).filter fun j => s.isActive g j

/-- Element (i, j) after all its groups, and the flags raised for it. -/
def product (i j : Nat) : Nat × FpFlags :=
  mmaElem (s.src.rv va) ((eight vb).map s.src.rv) s.hart.lanes i j (s.hart.regs.tshk / 8) int (cls == 48) (s.hart.regs.tileElem acc i j)

/-- The checks of the second stage pass on a multiplication whose registers vb to vb + 7 have tag `t`. -/
structure Accepted : Prop where
  tags : ∀ b ∈ (eight vb).map s.src.rv, b.tag = t
  formats : FormatsAdmitted s [(s.src.rv va).tag, t, if int then .int32 else .fp32]
  registers : RegistersSound s (va :: eight vb)
  lanes : LanesSound s cls
  depth : s.hart.regs.tshk ≤ kmax (s.src.rv va).tag
  pair : pair (s.src.rv va).tag t = some int

/-- The member reads an element of an uncorrectable row slice (R185). -/
def Damaged : Prop := ∃ i, i < s.hart.regs.tshm ∧ ∃ j ∈ activeColumns s g, (acc, i, j % s.hart.regs.lanes) ∈ s.hart.regs.badAcc

variable {s g acc va vb cls pair int t}

theorem tag_headD (hb : ∀ b ∈ (eight vb).map s.src.rv, b.tag = t) : (s.src.rv vb).tag = t :=
  hb _ (List.mem_map_of_mem (vb_mem_eight vb))

theorem find_oddTag_none (hb : ∀ b ∈ (eight vb).map s.src.rv, b.tag = t) :
    ((eight vb).map s.src.rv).find? (fun b => !(b.tag == t)) = none :=
  List.find?_eq_none.mpr fun b hm => by simp [hb b hm]

theorem tileParity_damaged {α : Type} {reads : List (Nat × Nat)} (k : Res α)
    (h : ∃ x ∈ reads, s.hart.regs.rowSlice acc x.1 x.2 ∈ s.hart.regs.badAcc) :
    tileParity s acc reads k = .trap 0x1A (BitVec.ofNat 64 (64 + acc.toNat)) := by
  obtain ⟨x, hx, hbad⟩ := h
  have hany : reads.any (fun x => s.hart.regs.badAcc.contains (s.hart.regs.rowSlice acc x.1 x.2)) = true :=
    List.any_eq_true.mpr ⟨x, hx, by simpa using hbad⟩
  have hne : s.hart.regs.badAcc.isEmpty = false := by
    cases hb : s.hart.regs.badAcc with
    | nil => simp [hb] at hbad
    | cons => rfl
  simp only [tileParity, check, hany, hne, Bool.not_true, Bool.or_false, Bool.false_eq_true, if_false]

theorem tileParity_sound {α : Type} {reads : List (Nat × Nat)} (k : Res α)
    (h : ¬ ∃ x ∈ reads, s.hart.regs.rowSlice acc x.1 x.2 ∈ s.hart.regs.badAcc) : tileParity s acc reads k = k := by
  have hany : reads.any (fun x => s.hart.regs.badAcc.contains (s.hart.regs.rowSlice acc x.1 x.2)) = false :=
    List.any_eq_false.mpr fun x hx hc => h ⟨x, hx, by simpa using hc⟩
  simp only [tileParity, check, hany, Bool.not_false, Bool.or_true, if_true]

/-- The elements that a multiplication reads. -/
def elementsRead (s : State) (g : Gov) : List (Nat × Nat) :=
  (List.range s.hart.regs.tshm).flatMap fun i => (activeColumns s g).map fun j => (i, j)

theorem damaged_iff : (∃ x ∈ elementsRead s g, s.hart.regs.rowSlice acc x.1 x.2 ∈ s.hart.regs.badAcc) ↔ Damaged s g acc := by
  simp only [elementsRead, Damaged, Regs.rowSlice, List.mem_flatMap, List.mem_range, List.mem_map]
  constructor
  · rintro ⟨_, ⟨i, hi, j, hj, rfl⟩, hbad⟩
    exact ⟨i, hi, j, hj, hbad⟩
  · rintro ⟨i, hi, j, hj, hbad⟩
    exact ⟨(i, j), ⟨i, hi, j, hj, rfl⟩, hbad⟩

variable {ins : Instr}

/-- What an accepted multiplication does, the check of its row slices being left. -/
theorem mmaMember_accepted (ha : Accepted s va vb cls pair int t) (hadm : MemberAdmitted s ins) :
    ∃ k, mmaMember s ins g acc va vb cls pair = .next (settleMember s (tileParity s acc (elementsRead s g) k)) ∧
      (s.anyActive g = false → k = .ok s) ∧
      (s.anyActive g = true → ∀ u, s.checkTile acc int cls (activeColumns s g)
          (tileWork s.hart.regs.tshm (activeColumns s g) fun i j => (product s acc va vb cls int i j).1) = .fine u [] [] →
        k = .ok (u.raise ((tileWork s.hart.regs.tshm (activeColumns s g) (product s acc va vb cls int)).foldl
          (fun f x => f ||| x.2.2.2) 0))) := by
  obtain ⟨htags, hformats, hregs, -, hdepth, hpair⟩ := ha
  have hhead : (((eight vb).map s.src.rv).headD {}).tag = t := by rw [headD_eight, tag_headD htags]
  unfold mmaMember
  rw [member_of_admitted hadm]
  simp only [hhead, find_oddTag_none htags, Option.map_none, Option.isNone_none, if_true, hpair, check, hdepth, decide_true,
    formats_of_admitted hformats, parity_of_sound hregs]
  refine ⟨_, rfl, fun hn => ?_, fun hy u hu => ?_⟩
  · simp [hn]
  · have hmap := map_tileWork (m := s.hart.regs.tshm) (js := activeColumns s g) (f := product s acc va vb cls int)
      fun x : Nat × Nat × Nat × FpFlags => x.2.2.1
    rw [← hmap] at hu
    simp only [hy, Bool.not_true, Bool.false_eq_true, if_false]
    unfold tileWork product activeColumns at hu
    rw [hu]
    rfl

/-- One that reads an element of an uncorrectable row slice takes a register-error trap that names the tile (R185). -/
theorem mmaMember_damaged (ha : Accepted s va vb cls pair int t) (hd : Damaged s g acc) (hadm : MemberAdmitted s ins) :
    mmaMember s ins g acc va vb cls pair = .next (s.takeTrap 0x1A (BitVec.ofNat 64 (64 + acc.toNat)) s.hart.pc) := by
  obtain ⟨k, hk, -⟩ := mmaMember_accepted (g := g) (acc := acc) ha hadm
  rw [hk, tileParity_damaged k (damaged_iff.mpr hd)]
  rfl

/-- With no active element it changes nothing (R58). -/
theorem mmaMember_inactive (ha : Accepted s va vb cls pair int t) (hd : ¬ Damaged s g acc) (hact : s.anyActive g = false)
    (hadm : MemberAdmitted s ins) : mmaMember s ins g acc va vb cls pair = .next s.memberDone := by
  obtain ⟨k, hk, hnone, -⟩ := mmaMember_accepted (g := g) (acc := acc) ha hadm
  rw [hk, tileParity_sound k (fun hbad => hd (damaged_iff.mp hbad)), hnone hact]
  rfl

/-- What a multiplication leaves: in the shape's elements of the active columns the values `val`, among the convoy's flags the
flags `fl` of all of them, and everything else of the registers that it may not change. -/
structure Multiplied (s u : State) (g : Gov) (acc : BitVec 2) (val : Nat → Nat → Nat) (fl : Nat → Nat → FpFlags) : Prop where
  computed : ∀ i j, i < s.hart.regs.tshm → j ∈ activeColumns s g → u.hart.regs.tileElem acc i j = val i j % 2 ^ 32
  outside : ∀ i j, i < 32 → j < 1024 → (s.hart.regs.tshm ≤ i ∨ j ∉ activeColumns s g) →
    u.hart.regs.tileElem acc i j = s.hart.regs.tileElem acc i j
  flags : ∀ f, u.hart.cv.flags.getLsbD f = true ↔ s.hart.cv.flags.getLsbD f = true ∨
    ∃ i j, i < s.hart.regs.tshm ∧ j ∈ activeColumns s g ∧ (fl i j).getLsbD f = true
  frame : (∀ b, b ≠ acc → u.hart.regs.tile b = s.hart.regs.tile b) ∧ u.hart.regs.v = s.hart.regs.v ∧
    u.hart.regs.s = s.hart.regs.s ∧ u.mem = s.mem

/-- The flags of the work on a tile. -/
theorem flags_tileWork (out : Nat → Nat → Nat × FpFlags) (m : Nat) (js : List Nat) (z : FpFlags) (f : Nat) :
    (z ||| (tileWork m js out).foldl (fun f x => f ||| x.2.2.2) 0).getLsbD f = true ↔
      z.getLsbD f = true ∨ ∃ i j, i < m ∧ j ∈ js ∧ (out i j).2.getLsbD f = true := by
  rw [BitVec.getLsbD_or, Bool.or_eq_true, getLsbD_foldl_or fun x : Nat × Nat × Nat × FpFlags => x.2.2.2]
  refine or_congr_right ⟨?_, ?_⟩
  · rintro (hz | ⟨⟨i, j, v⟩, hx, hf⟩)
    · simp at hz
    · obtain ⟨hi, hj, hv⟩ := mem_tileWork.mp hx
      exact ⟨i, j, hi, hj, hv ▸ hf⟩
  · rintro ⟨i, j, hi, hj, hf⟩
    exact .inr ⟨(i, j, out i j), mem_tileWork.mpr ⟨hi, hj, rfl⟩, hf⟩

/-- The values that the lanes give the elements. -/
def values (s : State) (g : Gov) (acc : BitVec 2) (va vb : VReg) (cls : Nat) (int : Bool) : Nat → Nat → Nat :=
  givenAt s.hart int (activeColumns s g) fun i j => (product s acc va vb cls int i j).1

/-- The perturbation is found and taken back (R200). -/
def tookBack (s : State) (g : Gov) (acc : BitVec 2) (va vb : VReg) (cls : Nat) (int : Bool) : Bool :=
  takenBack s.hart int (activeColumns s g) (tileWork s.hart.regs.tshm (activeColumns s g) fun i j => (product s acc va vb cls int i j).1)

/-- A multiplication with an active element. -/
theorem mmaMember_active (ha : Accepted s va vb cls pair int t) (hd : ¬ Damaged s g acc) (hact : s.anyActive g = true)
    (hm : s.hart.regs.tshm ≤ 32) (hn : s.hart.regs.tshn ≤ 1024) (hadm : MemberAdmitted s ins) :
    ∃ u, mmaMember s ins g acc va vb cls pair = .next u.memberDone ∧
      Multiplied s u g acc (values s g acc va vb cls int) (fun i j => (product s acc va vb cls int i j).2) ∧
      u.hart.regs.mxpcmd = s.hart.regs.mxpcmd &&& ~~~1 ∧
      (u.core s.hart.core).chkmisc = if tookBack s g acc va vb cls int then counted (s.core s.hart.core).chkmisc
        else (s.core s.hart.core).chkmisc := by
  obtain ⟨k, hk, -, hsome⟩ := mmaMember_accepted (g := g) (acc := acc) ha hadm
  obtain ⟨u, hu, hcv, hmem, hregs, hcount⟩ := checkTile_of_sound ha.lanes acc int (activeColumns s g)
    (tileWork s.hart.regs.tshm (activeColumns s g) fun i j => (product s acc va vb cls int i j).1)
  rw [givenBy_tileWork] at hregs
  rw [hk, tileParity_sound k (fun hbad => hd (damaged_iff.mp hbad)), hsome hact u hu]
  have hcols : ∀ j ∈ activeColumns s g, j < 1024 := fun j hj =>
    Nat.lt_of_lt_of_le (List.mem_range.mp (List.mem_filter.mp hj).1) hn
  refine ⟨_, rfl, ⟨fun i j hi hj => ?_, fun i j hi hj hout => ?_, fun f => ?_, fun b hb => ?_, ?_, ?_, hmem⟩, ?_, hcount⟩
  · exact (congrArg (fun r => Regs.tileElem r acc i j) hregs).trans (tileElem_putTile_computed _ acc hm hcols hi hj)
  · exact (congrArg (fun r => Regs.tileElem r acc i j) hregs).trans (tileElem_putTile_outside _ acc hcols hj hout)
  · rw [← hcv]
    exact flags_tileWork _ _ _ _ f
  · exact (congrArg (fun r => Regs.tile r b) hregs).trans (tile_putTile_other _ acc _ hb)
  · exact (congrArg Regs.v hregs :)
  · exact (congrArg Regs.s hregs :)
  · exact (congrArg Regs.mxpcmd hregs :)

/-- A pair of tags that the member does not take, or a TSHK above Kmax, is a type trap (R192, R193). -/
theorem mmaMember_mismatch (htags : ∀ b ∈ (eight vb).map s.src.rv, b.tag = t)
    (h : pair (s.src.rv va).tag t = none ∨ kmax (s.src.rv va).tag < s.hart.regs.tshk) (hadm : MemberAdmitted s ins) :
    mmaMember s ins g acc va vb cls pair =
      .next (s.takeTrap 0x15 (s.mismatch (tagCode (s.src.rv va).tag) (tagCode t) 0x1F) s.hart.pc) := by
  have hhead : (((eight vb).map s.src.rv).headD {}).tag = t := by rw [headD_eight, tag_headD htags]
  unfold mmaMember
  rw [member_of_admitted hadm]
  simp only [hhead, find_oddTag_none htags, Option.map_none, Option.isNone_none, if_true]
  cases hp : pair (s.src.rv va).tag t with
  | none => rfl
  | some int =>
    have hdepth : kmax (s.src.rv va).tag < s.hart.regs.tshk := h.resolve_left (by simp [hp])
    simp only [check, Nat.not_le.mpr hdepth, decide_false, Bool.false_eq_true, if_false]
    rfl

/-- A tag of vb to vb + 7 that differs from vb's is a type trap that names it (R192). -/
theorem mmaMember_oddTag {b : VRegS} (h : ((eight vb).map s.src.rv).find? (fun b => !(b.tag == (s.src.rv vb).tag)) = some b)
    (hadm : MemberAdmitted s ins) :
    mmaMember s ins g acc va vb cls pair =
      .next (s.takeTrap 0x15 (s.mismatch (tagCode (s.src.rv va).tag) (tagCode b.tag) 0x1F) s.hart.pc) := by
  unfold mmaMember
  rw [member_of_admitted hadm]
  simp only [headD_eight, h, Option.map_some, Option.isNone_some, Bool.false_eq_true, if_false, Option.getD_some]
  rfl

end

/-! ## The statement -/

/-- Settles O29: the lanes' check of a sound member gives back its elements, the armed one perturbed unless the lane under check
sees the difference; the tile takes them field by field. -/
theorem matrixMultiplyAccumulates : Obligations.MatrixMultiplyAccumulates := by
  unfold Obligations.MatrixMultiplyAccumulates
  intro s g acc va vb int t a bs r js damaged multiplies mismatched
  have hmul : ∀ i cls pair, exec i s = mmaMember s i g acc va vb cls pair → multiplies i cls pair := by
    intro i cls pair he htags hformats hregs hlanes hdepth hpair
    have ha : Accepted s va vb cls pair int t := ⟨htags, hformats, hregs, hlanes, hdepth, hpair⟩
    rw [MemberGives, he]
    refine ⟨mmaMember_damaged ha, mmaMember_inactive ha, fun hd hact harm hm hn hadm => ?_, fun hd hact harm hidx hm hn hadm => ?_⟩
    · obtain ⟨u, hu, hdone, -⟩ := mmaMember_active ha hd hact hm hn hadm
      refine ⟨u, hu, fun m j hi hj => ?_, hdone.outside, hdone.flags, hdone.frame⟩
      rw [hdone.computed m j hi hj, values, givenAt_unarmed harm]
      rfl
    · intro out i0 j0 new hit seen n
      obtain ⟨u, hu, hdone, hcmd, hcount⟩ := mmaMember_active ha hd hact hm hn hadm
      have hseen : tookBack s g acc va vb cls int = true ↔ seen :=
        (takenBack_armed harm hidx).trans (by simp only [underCheck, beq_iff_eq]; rfl)
      refine ⟨u, hu, hcmd, fun hh => ?_, fun hs => ?_, fun hs => ?_, fun m j hi hj hne => ?_, hdone.outside, hdone.flags, hdone.frame⟩
      · rw [hdone.computed i0 j0 hh.1 hh.2]
        have hval := givenAt_named (int := int) (f := fun i j => (product s acc va vb cls int i j).1) harm hidx hh
        simp only [underCheck, beq_iff_eq] at hval
        exact congrArg (· % 2 ^ 32) hval
      · rw [hcount, if_pos (hseen.mpr hs)]
        rfl
      · rw [hcount, if_neg (fun hback => hs (hseen.mp hback))]
      · rw [hdone.computed m j hi hj, values, givenAt_unnamed harm hidx hne]
        rfl
  have hmis : ∀ i cls pair, exec i s = mmaMember s i g acc va vb cls pair → mismatched i pair := by
    intro i cls pair he
    refine ⟨fun htags h hadm => ?_, fun b hb hadm => ?_⟩
    · rw [he]
      exact mmaMember_mismatch htags h hadm
    · rw [he]
      exact mmaMember_oddTag hb hadm
  exact ⟨hmul _ _ _ rfl, hmul _ _ _ rfl, hmis _ 47 _ rfl, hmis _ 48 _ rfl⟩

end Sys2Proof.MatrixMultiply

/-! Encodings: every field of an instruction is read back from its word or member, every check of the decoder passes on what the
encoder writes, and the rows with an encoding are those that the instruction tables give one (R69 to R76, R89, R92). -/

namespace Sys2Proof.EncodeDecode

/-! ## Checks of the decoder -/

@[simp] theorem need_true {α : Type} (e : DecodeError) (k : Except DecodeError α) : need true e k = k := rfl

@[simp] theorem needSome_some {α β : Type} (y : β) (e : DecodeError) (k : β → Except DecodeError α) :
    needSome (some y) e k = k y := rfl

/-- A check accepts exactly when its condition holds and the rest accepts. -/
@[simp] theorem need_eq_ok_iff {α : Type} {c : Bool} {e : DecodeError} {k : Except DecodeError α} {y : α} :
    need c e k = .ok y ↔ c = true ∧ k = .ok y := by
  cases c <;> simp [need]

/-! ## Codes of sub-fields -/

@[simp] theorem tag_ofCode_code (t : Tag) : Tag.ofCode t.code = some t := by cases t <;> rfl
@[simp] theorem rnd_ofCode_code (r : Rnd) : Rnd.ofCode r.code = some r := by cases r <;> rfl
@[simp] theorem redOp_ofCode_code (o : RedOp) : RedOp.ofCode o.code = some o := by cases o <;> rfl
@[simp] theorem vcond_ofCode_code (c : VCond) : VCond.ofCode c.code = some c := by cases c <;> rfl
@[simp] theorem fcond_ofCode_code (c : FCond) : FCond.ofCode c.code = some c := by cases c <;> rfl
@[simp] theorem cvtKind_ofCode_code (k : CvtKind) : CvtKind.ofCode k.code = some k := by cases k <;> rfl
@[simp] theorem amoOp_ofCode_code (o : AmoOp) : AmoOp.ofCode o.code = some o := by cases o <;> rfl
@[simp] theorem vamoOp_ofCode_code (o : VAmoOp) : VAmoOp.ofCode o.code = some o := by cases o <;> rfl
@[simp] theorem order_ofCode_code (o : Order) : Order.ofCode o.code = o := by cases o <;> rfl
@[simp] theorem scope_ofCode_code (s : Scope) : Scope.ofCode s.code = some s := by cases s <;> rfl
@[simp] theorem logSet_ofCode_code (k : LogSet) : LogSet.ofCode k.code = some k := by cases k <;> rfl
@[simp] theorem clus_ofCode_code (c : Clus) : Clus.ofCode c.code = some c := by cases c <;> rfl
@[simp] theorem bcond_ofCode_code (c : BCond) : BCond.ofCode c.code = c := by cases c <;> rfl
@[simp] theorem qualRnd_qual (r : Rnd) : qualRnd r.qual = some r := by cases r <;> rfl
@[simp] theorem qualRnd_zero : qualRnd 0#4 = some .dyn := rfl
@[simp] theorem dyn_qual : Rnd.dyn.qual = 0#4 := rfl
@[simp] theorem bit_true (w : Nat) : bit true w = 1#w := rfl
@[simp] theorem bit_false (w : Nat) : bit false w = 0#w := rfl
@[simp] theorem getLsbD_bit (b : Bool) : (bit b 1).getLsbD 0 = b := by cases b <;> rfl

/-- A bit of a word is the Boolean that a one-bit field of it was written from. -/
theorem getLsbD_of_extractLsb' {n i : Nat} {x : BitVec n} {b : Bool} (h : x.extractLsb' i 1 = bit b 1) : x.getLsbD i = b := by
  have hbit : (x.extractLsb' i 1).getLsbD 0 = x.getLsbD i := by simp
  rw [← hbit, h, getLsbD_bit]

/-! ## Scalar words (R69 to R73, R89) -/

section
variable (op : BitVec 7) (f : BitVec 10) (b a d : BitVec 5) (m : BitVec 15) (n : BitVec 20)

@[simp] theorem s3_op : (F32.s3 op f b a d).op = op := rfl
@[simp] theorem s3_f : (F32.s3 op f b a d).f = f := rfl
@[simp] theorem s3_b : (F32.s3 op f b a d).b = b := rfl
@[simp] theorem s3_a : (F32.s3 op f b a d).a = a := rfl
@[simp] theorem s3_d : (F32.s3 op f b a d).d = d := rfl
@[simp] theorem si_op : (F32.si op m a d).op = op := rfl
@[simp] theorem si_a : (F32.si op m a d).a = a := rfl
@[simp] theorem si_d : (F32.si op m a d).d = d := rfl
@[simp] theorem sb_op : (F32.sb op m b a).op = op := rfl
@[simp] theorem sb_b : (F32.sb op m b a).b = b := rfl
@[simp] theorem sb_a : (F32.sb op m b a).a = a := rfl
@[simp] theorem sj_op : (F32.sj op n d).op = op := rfl
@[simp] theorem sj_d : (F32.sj op n d).d = d := rfl
@[simp] theorem s3_hi5_sel10 (c : BitVec 5) : (F32.s3 op (sel10 c) b a d).hi5 = c := F32.hi5_s3 ..
@[simp] theorem s3_lo5_sel10 (c : BitVec 5) : (F32.s3 op (sel10 c) b a d).lo5 = 0 := F32.lo5_s3 ..

theorem decodeShift_si (k : BitVec 6) (mk : BitVec 6 → Instr) : decodeShift (.si op (0#9 ++ k) a d) mk = .ok (mk k) := by
  have hhigh : (0#9 ++ k).extractLsb' 6 9 = 0 := above whole
  have hlow : (0#9 ++ k).extractLsb' 0 6 = k := below whole
  simp only [decodeShift, F32.immI_si, hhigh, hlow, beq_self_eq_true, need_true]

theorem fl10_reserved (w : Bool) (r : Rnd) : (fl10 w r).extractLsb' 4 6 = 0 := above <| above whole
theorem fl10_double (w : Bool) (r : Rnd) : (fl10 w r).getLsbD 3 = w := getLsbD_of_extractLsb' <| above <| below whole
theorem fl10_rounding (w : Bool) (r : Rnd) : (fl10 w r).extractLsb' 0 3 = r.code := below whole

theorem decodeFRound_fl10 (w : Bool) (r : Rnd) (mk : Bool → Rnd → Instr) :
    decodeFRound (.s3 op (fl10 w r) b a d) mk = .ok (mk w r) := by
  simp [decodeFRound, fl10_reserved, fl10_double, fl10_rounding, -BitVec.getLsbD_eq_getElem]

theorem decodeFPlain_fl10 (w : Bool) (mk : Bool → Instr) : decodeFPlain (.s3 op (fl10 w .dyn) b a d) mk = .ok (mk w) := by
  simp [decodeFPlain, fl10_reserved, fl10_double, fl10_rounding, Rnd.code, -BitVec.getLsbD_eq_getElem]

end

/-- A scalar word is decoded from the fields of its own encoding: the opcode picks the decoder of its format, whose checks the
encoder's fields pass, and what they leave is the instruction's own constraint. -/
theorem decodeF32_of_encodeF32 {i : Instr} {x : F32} (hwf : i.wellFormed = true) (h : encodeF32 i = some x) :
    decodeF32 x = .ok i := by
  cases i with
  | add | sub | and | or | xor | sll | srl | sra | slt | sltu | min | max | mul | mulh | mulhu | div | divu | rem | remu
  | clz | ctz | popc | frgpop | bar | fence | mxon | mxoff =>
    cases h
    rfl
  | addi | andi | ori | xori | slti | lui | auipc | ldB | ldH | ldW | ldD | ldBU | ldHU | ldWU | stB | stH | stW | stD
  | ldsd | stsd | beq | bne | blt | bge | bltu | bgeu | jal | jalr | vbany | vbnone | vbrf | csrr | csrw | csrs | csrc =>
    cases h
    change Except.ok _ = _
    simp
  | launch | wnext | wsplit | wdone | ctwait | ctinc | npbegin | npend | yield | exit =>
    cases h
    change decodeLaunch _ = _
    simp [decodeLaunch]
  | tret | evwait | halt | ptinv | capfence | captest | bbox | tstamp =>
    cases h
    change decodeSystem _ = _
    simp [decodeSystem]
  | slli d a k => cases h; exact decodeShift_si _ a d k (.slli d a)
  | srli d a k => cases h; exact decodeShift_si _ a d k (.srli d a)
  | srai d a k => cases h; exact decodeShift_si _ a d k (.srai d a)
  | fadd w r d a b => cases h; exact decodeFRound_fl10 _ b a d w r fun w r => .fadd w r d a b
  | fsub w r d a b => cases h; exact decodeFRound_fl10 _ b a d w r fun w r => .fsub w r d a b
  | fmul w r d a b => cases h; exact decodeFRound_fl10 _ b a d w r fun w r => .fmul w r d a b
  | fdiv w r d a b => cases h; exact decodeFRound_fl10 _ b a d w r fun w r => .fdiv w r d a b
  | fsqrt w r d a => cases h; exact decodeFRound_fl10 _ 0 a d w r fun w r => .fsqrt w r d a
  | fmin w d a b => cases h; exact decodeFPlain_fl10 _ b a d w fun w => .fmin w d a b
  | fmax w d a b => cases h; exact decodeFPlain_fl10 _ b a d w fun w => .fmax w d a b
  | pub s =>
    cases h
    cases s <;> rfl
  | acq | pubacq =>
    cases h
    change decodeOrder _ = _
    simpa (disch := decide) [decodeOrder, F32.hi5, Instr.wellFormed, BitVec.extractLsb'_append_eq_of_le,
      BitVec.extractLsb'_append_eq_of_add_le, -Nat.reduceAdd] using hwf
  | vsetl =>
    cases h
    change decodeVsetl _ = _
    simp (disch := decide) [decodeVsetl, BitVec.getLsbD_append, BitVec.extractLsb'_append_eq_of_le,
      BitVec.extractLsb'_append_eq_of_add_le, -BitVec.getLsbD_eq_getElem, -Nat.reduceAdd]
  | vsetlG =>
    cases h
    change decodeVsetl _ = _
    simpa (disch := decide) [decodeVsetl, Instr.wellFormed, BitVec.getLsbD_append, BitVec.extractLsb'_append_eq_of_le,
      BitVec.extractLsb'_append_eq_of_add_le, -BitVec.getLsbD_eq_getElem, -Nat.reduceAdd] using hwf
  | amo =>
    cases h
    change decodeAmo _ = _
    simp (disch := decide) [decodeAmo, BitVec.getLsbD_append, BitVec.extractLsb'_append_eq_of_le,
      BitVec.extractLsb'_append_eq_of_add_le, -BitVec.getLsbD_eq_getElem, -Nat.reduceAdd]
  | sel =>
    cases h
    change need _ _ _ = _
    simp
  | ldh | trap | amoCas | fcmp | ffma =>
    cases h
    change need _ _ _ = _
    simp (disch := decide) [F32.hi5, BitVec.getLsbD_append, BitVec.extractLsb'_append_eq_of_le,
      BitVec.extractLsb'_append_eq_of_add_le, -BitVec.getLsbD_eq_getElem, -Nat.reduceAdd]
  | fcvt =>
    cases h
    change need _ _ _ = _
    simpa (disch := decide) [Instr.wellFormed, BitVec.getLsbD_append, BitVec.extractLsb'_append_eq_of_le,
      BitVec.extractLsb'_append_eq_of_add_le, -BitVec.getLsbD_eq_getElem, -Nat.reduceAdd] using hwf
  | _ => cases h

/-- What decodes from its fields is fetched as a word: its opcode is not the header's, which the word of all ones has too (R72,
R73). -/
theorem fetched_of_decodeF32 {i : Instr} {x : F32} (h : decodeF32 x = .ok i) : fetched x.join = .word i := by
  have hop : x.op ≠ 0x7F#7 := by
    intro hop
    obtain ⟨f, b, a, d, op⟩ := x
    cases hop
    cases h
  have hfield : x.join.extractLsb' 0 7 = x.op := congrArg F32.op (F32.split_join x)
  have hones : x.join ≠ 0xFFFFFFFF#32 := fun hones => hop (by rw [← hfield, hones]; rfl)
  simp [fetched, Header.split, decodeWord, hfield, hop, hones, h]

/-! ## Fields of a member (R74, R75) -/

/-- A five-bit register is read back from a six-bit register field. -/
@[simp] theorem reg5_wide {α : Type} (r : BitVec 5) (k : BitVec 5 → Except DecodeError α) : reg5 (wide r) k = k r := by
  have hbit : (wide r).getLsbD 5 = false := by simp [wide]
  have hreg : (wide r).extractLsb' 0 5 = r := by simp [wide, ← BitVec.setWidth_eq_extractLsb']
  simp only [reg5, hbit, hreg, Bool.not_false, need_true]

@[simp] theorem clsVA_split_join (tag : BitVec 5) (sat : Bool) (ss : BitVec 5) (fn : BitVec 7) :
    ClsVA.split (ClsVA.join ⟨tag, sat, ss, fn⟩) = ⟨tag, sat, ss, fn⟩ := by
  simp only [ClsVA.split, ClsVA.join, ClsVA.mk.injEq]
  exact ⟨above <| above <| above whole, getLsbD_of_extractLsb' <| above <| above <| below whole, above <| below whole,
    below whole⟩

@[simp] theorem clsXL_split_join (ss px : BitVec 5) (red : BitVec 3) (ord keep : Bool) (fn : BitVec 3) :
    ClsXL.split (ClsXL.join ⟨ss, px, red, ord, keep, fn⟩) = ⟨ss, px, red, ord, keep, fn⟩ := by
  simp only [ClsXL.split, ClsXL.join, ClsXL.mk.injEq]
  exact ⟨above <| above <| above <| above <| above whole, above <| above <| above <| above <| below whole,
    above <| above <| above <| below whole, getLsbD_of_extractLsb' <| above <| above <| below whole,
    getLsbD_of_extractLsb' <| above <| below whole, below whole⟩

@[simp] theorem clsVM_split_join (sb st : BitVec 5) (off : BitVec 8) :
    ClsVM.split (ClsVM.join ⟨sb, st, off⟩) = ⟨sb, st, off⟩ := by
  simp only [ClsVM.split, ClsVM.join, ClsVM.mk.injEq]
  exact ⟨above <| above whole, above <| below whole, below whole⟩

@[simp] theorem clsMX_split_join (acc : BitVec 2) (tag ss : BitVec 5) (fn : BitVec 6) :
    ClsMX.split (ClsMX.join ⟨acc, tag, ss, fn⟩) = ⟨acc, tag, ss, fn⟩ := by
  simp only [ClsMX.split, ClsMX.join, ClsMX.mk.injEq]
  exact ⟨above <| above <| above whole, above <| above <| below whole, above <| below whole, below whole⟩

@[simp] theorem clsBK_split_join (ss : BitVec 5) (sgn sat : Bool) (imm : BitVec 11) :
    ClsBK.split (ClsBK.join ⟨ss, sgn, sat, imm⟩) = ⟨ss, sgn, sat, imm⟩ := by
  simp only [ClsBK.split, ClsBK.join, ClsBK.mk.injEq]
  exact ⟨above <| above <| above whole, getLsbD_of_extractLsb' <| above <| above <| below whole,
    getLsbD_of_extractLsb' <| above <| below whole, below whole⟩

@[simp] theorem clsCP_split_join (dst src len : BitVec 5) (ch : BitVec 3) :
    ClsCP.split (ClsCP.join ⟨dst, src, len, ch⟩) = ⟨dst, src, len, ch⟩ := by
  simp only [ClsCP.split, ClsCP.join, ClsCP.mk.injEq]
  exact ⟨above <| above <| above whole, above <| above <| below whole, above <| below whole, below whole⟩

/-! ### Operand b of a VA member (R141) -/

@[simp] theorem vb_of_fields (b : VB) : (if b.vs = true then VB.s b.ss else VB.v b.vb) = b := by cases b <;> rfl
@[simp] theorem vb_vector_unused (b : VB) : (!b.vs || b.vb == 0#6) = true := by cases b <;> rfl
@[simp] theorem vb_scalar_unused (b : VB) : (b.vs || b.ss == 0#5) = true := by cases b <;> rfl

section
variable (v : Bool) (fn : BitVec 6)
@[simp] theorem fn7_form : (bit v 1 ++ fn : BitVec 7)[6] = v := getLsbD_of_extractLsb' (above whole)
@[simp] theorem fn7_function : (bit v 1 ++ fn : BitVec 7).extractLsb' 0 6 = fn := below whole
@[simp] theorem fn7_bit : (bit v 1 ++ fn : BitVec 7)[0] = fn[0] := (BitVec.getElem_append _).trans (dif_pos (by decide))
@[simp] theorem fn7_code : (bit v 1 ++ fn : BitVec 7).extractLsb' 0 3 = fn.extractLsb' 0 3 := below rfl
end

/-! ### Sub-fields of other members -/

section
variable (ff ck : Bool)
theorem loadQual_ff : (bit ff 1 ++ bit ck 1 ++ 0#2 : BitVec 4)[3] = ff := getLsbD_of_extractLsb' <| above <| above whole
theorem loadQual_ck : (bit ff 1 ++ bit ck 1 ++ 0#2 : BitVec 4)[2] = ck := getLsbD_of_extractLsb' <| above <| below whole
theorem loadQual_low : (bit ff 1 ++ bit ck 1 ++ 0#2 : BitVec 4).extractLsb' 0 2 = 0#2 := below whole
end

section
variable (col : Bool) (k : BitVec 5)
theorem shiftImm_col : (bit col 1 ++ 0#5 ++ k : BitVec 11)[10] = col := getLsbD_of_extractLsb' <| above <| above whole
theorem shiftImm_zero : (bit col 1 ++ 0#5 ++ k : BitVec 11).extractLsb' 5 5 = 0#5 := above <| below whole
theorem shiftImm_count : (bit col 1 ++ 0#5 ++ k : BitVec 11).extractLsb' 0 5 = k := below whole
end

/-- A group of eight predicates is named by its first, whose number has three low zeros (R136). -/
@[simp] theorem predGroup_low (a : BitVec 2) : (a ++ 0#3 : BitVec 5).extractLsb' 0 3 = 0#3 := below whole
@[simp] theorem predGroup_high (a : BitVec 2) : (a ++ 0#3 : BitVec 5).extractLsb' 3 2 = a := above whole

/-! ## Members (R92) -/

/-- A member of unit VA is decoded from the fields of its own encoding: its row's marks pass what the encoder writes. -/
theorem decodeVA_of_encodeF64 {i : Instr} {x : F64} (hwf : i.wellFormed = true) (h : encodeF64 i = some x) (hu : x.unit = 0#3) :
    decodeVA x = .ok i := by
  cases i with
  | vadd | vsub | vmul | vmulh | vdiv | vmin | vmax | vand | vor | vxor | vshl | vshr | vscale =>
    cases h
    change rowVA _ _ _ _ = _
    simp [vaB, mk64, clsVA, rowVA, RowVA.ok, opB, F64.gov]
  | vrot _ _ _ _ f | vclmul _ _ _ _ f =>
    cases h
    change rowVA _ _ _ _ = _
    cases f <;> simp [vaB, mk64, clsVA, rowVA, RowVA.ok, opB, F64.gov]
  | vcmp _ _ _ _ c =>
    cases h
    have hle : (0#3 ++ c.code : BitVec 6).toNat ≤ 6 := by cases c <;> decide
    have hcode : (0#3 ++ c.code : BitVec 6).extractLsb' 0 3 = c.code := below whole
    change rowVA _ _ _ _ = _
    simp [vaB, mk64, clsVA, rowVA, RowVA.ok, opB, F64.gov, hle, hcode]
  | vfma | vfms | vnfma | vsqrt | vrcp | vrsq | vexp2 | vlog2 | vtanh | vabs | vneg | vnot | vclz | vpopc | vsel | vcvt
  | vqnt | vmov =>
    cases h
    change rowVA _ _ _ _ = _
    simp [vaV, mk64, clsVA, rowVA, RowVA.ok, F64.gov]
  | vsplat | viota | vtag | vtagq | pand | por | pxor | pnot | pandn | pmovs =>
    cases h
    change rowVA _ _ _ _ = _
    simp [vaS, mk64, clsVA, rowVA, RowVA.ok, F64.gov, F64.ungov, Gov.none]
  | psetc =>
    cases h
    change rowVA _ _ _ _ = _
    simpa [vaS, mk64, clsVA, rowVA, RowVA.ok, F64.gov, Instr.wellFormed] using hwf
  | ppack _ _ f | punpack _ _ f =>
    cases h
    change rowVA _ _ _ _ = _
    cases f <;> simp [vaS, mk64, clsVA, rowVA, RowVA.ok, F64.ungov, Gov.none]
  | _ => cases h <;> cases hu

/-- A member of unit XL is decoded from the fields of its own encoding. -/
theorem decodeXL_of_encodeF64 {i : Instr} {x : F64} (hwf : i.wellFormed = true) (h : encodeF64 i = some x) (hu : x.unit = 1#3) :
    decodeXL x = .ok i := by
  cases i with
  | vperm | vput | vslu | vsld | vcomp | vconf | vbcast | vexts | plead | pnum =>
    cases h
    change need _ _ _ = _
    simp [xl, mk64, RowXL.ok, F64.gov]
  | vexpd | vinss =>
    cases h
    change need _ _ _ = _
    simpa [xl, mk64, RowXL.ok, F64.gov, Instr.wellFormed] using hwf
  | vzip _ _ _ _ f | vunzip _ _ _ _ f =>
    cases h
    change need _ _ _ = _
    cases f <;> simp [xl, mk64, RowXL.ok, F64.gov]
  | vred g op o s =>
    cases h
    change need _ _ _ = _
    cases s <;> simpa [mk64, RowXL.ok, F64.gov, Instr.wellFormed, and_assoc] using hwf
  | vscan g op ex s =>
    cases h
    change need _ _ _ = _
    cases ex <;> cases s <;> simp [mk64, RowXL.ok, F64.gov]
  | _ => cases h <;> cases hu

/-- A member of unit VM is decoded from the fields of its own encoding. -/
theorem decodeVM_of_encodeF64 {i : Instr} {x : F64} (hwf : i.wellFormed = true) (h : encodeF64 i = some x) (hu : x.unit = 2#3) :
    decodeVM x = .ok i := by
  cases i with
  | vld | vlds | vldx =>
    cases h
    change need _ _ _ = _
    simpa [vm, mk64, RowVM.ok, F64.gov, Instr.wellFormed, Gov.ckOk, loadQual_ff, loadQual_ck, loadQual_low] using hwf
  | vlsx | vpf =>
    cases h
    change need _ _ _ = _
    simp [vm, mk64, RowVM.ok, F64.gov, F64.ungov, Gov.none]
  | vst | vsts | vstx | vssx =>
    cases h
    change need _ _ _ = _
    simpa [vm, mk64, RowVM.ok, F64.gov, Instr.wellFormed] using hwf
  | vldh _ _ _ _ _ q =>
    cases h
    change need _ _ _ = _
    cases q <;> simp [vm, mk64, RowVM.ok, F64.gov]
  | vamo g op o =>
    cases h
    have hop : (op.code ++ o.code).extractLsb' 2 3 = op.code := above whole
    have ho : (op.code ++ o.code).extractLsb' 0 2 = o.code := below whole
    change need _ _ _ = _
    simpa [vm, mk64, RowVM.ok, F64.gov, hop, ho, Instr.wellFormed] using hwf
  | _ => cases h <;> cases hu

/-- A member of unit MX is decoded from the fields of its own encoding. -/
theorem decodeMX_of_encodeF64 {i : Instr} {x : F64} (hwf : i.wellFormed = true) (h : encodeF64 i = some x) (hu : x.unit = 3#3) :
    decodeMX x = .ok i := by
  cases i with
  | tshape | mma | mmas | mxins =>
    cases h
    change need _ _ _ = _
    simpa [mx, mk64, F64.gov, F64.ungov, Gov.none, Instr.wellFormed] using hwf
  | mxzero | mxpert =>
    cases h
    change need _ _ _ = _
    simp [mx, mk64, F64.ungov, Gov.none]
  | mxext _ _ _ _ _ int sat =>
    cases h
    have hint : (0#4 ++ bit sat 1 ++ bit int 1 : BitVec 6)[0] = int := getLsbD_of_extractLsb' <| below whole
    have hsat : (0#4 ++ bit sat 1 ++ bit int 1 : BitVec 6)[1] = sat := getLsbD_of_extractLsb' <| above <| below whole
    have hzero : (0#4 ++ bit sat 1 ++ bit int 1 : BitVec 6).extractLsb' 2 4 = 0#4 := above <| above whole
    change need _ _ _ = _
    simpa [mx, mk64, F64.gov, hint, hsat, hzero, Instr.wellFormed] using hwf
  | _ => cases h <;> cases hu

/-- A member of unit BK is decoded from the fields of its own encoding. -/
theorem decodeBK_of_encodeF64 {i : Instr} {x : F64} (hwf : i.wellFormed = true) (h : encodeF64 i = some x) (hu : x.unit = 4#3) :
    decodeBK x = .ok i := by
  cases i with
  | bsetl | balloc | bplane | brlk | brul | bldp | bstp | btov | vtob | bnot | band | bor | bxor | bmaj | badd | bsub | bmulc
  | bmac | bmact | bsel | bred | bseal | bnext | bwait =>
    cases h
    change need _ _ _ = _
    simp [bk, mk64, RowBK.ok, F64.ungov, Gov.none]
  | bcmp _ _ _ c =>
    cases h
    have hzero : (0#9 ++ c.code : BitVec 11).extractLsb' 2 9 = 0#9 := above whole
    have hcode : (0#9 ++ c.code : BitVec 11).extractLsb' 0 2 = c.code := below whole
    change need _ _ _ = _
    simp [bk, mk64, RowBK.ok, F64.ungov, Gov.none, hzero, hcode]
  | bshl _ _ k c =>
    cases h
    change need _ _ _ = _
    simp [bk, mk64, RowBK.ok, F64.ungov, Gov.none, shiftImm_col, shiftImm_zero, shiftImm_count]
  | bshr _ _ k c =>
    cases h
    change need _ _ _ = _
    simpa [bk, mk64, RowBK.ok, F64.ungov, Gov.none, shiftImm_col, shiftImm_zero, shiftImm_count, Instr.wellFormed,
      or_comm] using hwf
  | _ => cases h <;> cases hu

/-- A member of unit CP is decoded from the fields of its own encoding. -/
theorem decodeCP_of_encodeF64 {i : Instr} {x : F64} (h : encodeF64 i = some x) (hu : x.unit = 5#3) : decodeCP x = .ok i := by
  cases i with
  | cpy | cpy2d | cpyd | cpye | ckey =>
    cases h
    change need _ _ _ = _
    simp [cp, mk64, F64.ungov, Gov.none]
  | cwait =>
    cases h
    change need _ _ _ = _
    simp [cp, mk64, F64.ungov, Gov.none, ClsCP.join]
  | cstat _ _ w =>
    cases h
    have hzero : (0#4 ++ w).extractLsb' 2 4 = 0#4 := above whole
    have hword : (0#4 ++ w).extractLsb' 0 2 = w := below whole
    change need _ _ _ = _
    simp [cp, mk64, F64.ungov, Gov.none, ClsCP.join, hzero, hword]
  | _ => cases h <;> cases hu

theorem unit_le_five_of_encodeF64 {i : Instr} {x : F64} (h : encodeF64 i = some x) : x.unit.toNat ≤ 5 := by
  cases i with
  | _ => cases h <;> exact Nat.le_of_ble_eq_true rfl

/-- A member is decoded from the fields of its own encoding, by the decoder of its unit. -/
theorem decodeF64_of_encodeF64 {i : Instr} {x : F64} (hwf : i.wellFormed = true) (h : encodeF64 i = some x) :
    decodeF64 x = .ok i := by
  have hle := unit_le_five_of_encodeF64 h
  have hunit : x.unit.toNat = 0 ∨ x.unit.toNat = 1 ∨ x.unit.toNat = 2 ∨ x.unit.toNat = 3 ∨ x.unit.toNat = 4 ∨
      x.unit.toNat = 5 := by omega
  unfold decodeF64
  rcases hunit with hu | hu | hu | hu | hu | hu <;> rw [hu]
  · exact decodeVA_of_encodeF64 hwf h (BitVec.eq_of_toNat_eq hu)
  · exact decodeXL_of_encodeF64 hwf h (BitVec.eq_of_toNat_eq hu)
  · exact decodeVM_of_encodeF64 hwf h (BitVec.eq_of_toNat_eq hu)
  · exact decodeMX_of_encodeF64 hwf h (BitVec.eq_of_toNat_eq hu)
  · exact decodeBK_of_encodeF64 hwf h (BitVec.eq_of_toNat_eq hu)
  · exact decodeCP_of_encodeF64 h (BitVec.eq_of_toNat_eq hu)

/-! ## The statement -/

/-- The rows that the instruction tables give an encoding are exactly those that the encoder gives one. -/
theorem coded_eq_isSome (i : Instr) : Machine.Instr.coded i = ((encodeF32 i).isSome || (encodeF64 i).isSome) := by cases i <;> rfl

/-- Settles O57: a word and a member split into the fields that they join, and each format's decoder passes and reads back
what the encoder writes there. -/
theorem encodedInstructionsDecodeBack : Obligations.EncodedInstructionsDecodeBack := by
  intro i hwf
  refine ⟨fun hcoded => ?_, fun x h => fetched_of_decodeF32 (decodeF32_of_encodeF32 hwf h), fun x h => ?_⟩
  · rwa [coded_eq_isSome, Bool.or_eq_true] at hcoded
  · rw [decodeMember, F64.split_join]
    exact decodeF64_of_encodeF64 hwf h

end Sys2Proof.EncodeDecode

/-! Vector arithmetic: the elements that each member computes, from the checks of its second stage to the register or the
predicate that it writes (R143 to R162). -/

namespace Sys2Proof.VectorArithmetic

open Sys2Proof.Machine

variable {s : State}

/-! ## Polymorphic members and members on bits (R143 to R154) -/

/-- Settles O19: the members of two sources, and those of three, are one polymorphic member that they give a class, the tags
it accepts and its two operations. -/
theorem polymorphicMembersCompute : Obligations.PolymorphicMembersCompute := by
  unfold Obligations.PolymorphicMembersCompute
  intro s g vd va vb vc b sat r t ra l elemOf two three
  have htwo : ∀ {i cls sat rounds r accepts ok num int} {intAt : Tag → Int → Int → Int},
      exec i s = polyMember s i { cls := cls, accepts := accepts, sat := sat, rounds := rounds, int := fun t x y _ => intAt t x y,
                                  num := fun m x y _ => num m x y } g vd va b none r →
      accepts t = ok → intAt t = int → two i cls b r sat rounds ok int num := by
    rintro i cls sat rounds r accepts ok num int intAt he rfl rfl ht hok ho hl hadm
    rw [he, polyMember_two hadm ht hok ho hl]
    rfl
  have hthree : ∀ {i int num},
      exec i s = polyMember s i { cls := 36, sat := sat, int := fun _ => int, num := num } g vd va (.v vb) (some vc) r →
      three i int num := by
    intro i int num he ht ho hl hadm
    rw [he, polyMember_three hadm ht rfl (by rwa [Bool.and_true]) hl]
    simp only [Bool.and_true]
    rfl
  exact ⟨htwo rfl rfl rfl, htwo rfl rfl rfl, htwo rfl rfl rfl, htwo rfl rfl rfl, htwo rfl rfl rfl, htwo rfl rfl rfl,
    htwo rfl rfl rfl, hthree rfl, hthree rfl, hthree rfl⟩

/-- Settles O20: the members of one source are one unary member; those on bits are one member of two operands, one of one
operand, and one shift, that they give the tags accepted and the bits of an element. -/
theorem unaryAndBitMembersCompute : Obligations.UnaryAndBitMembersCompute := by
  unfold Obligations.UnaryAndBitMembersCompute
  constructor
  · intro s g vd va sat r t one
    have hone : ∀ {i cls r sat rounds accepts ok int num},
        exec i s = unaryMember s i { cls := cls, accepts := accepts, sat := sat, rounds := rounds, int := fun _ x _ _ => int x,
                                     num := fun _ x _ _ => num x } g vd va r →
        accepts t = ok → one i cls r sat rounds ok int num := by
      rintro i cls r sat rounds accepts ok int num he rfl hok ho hl hadm
      rw [he, unaryMember_done hadm rfl hok ho hl]
      rfl
    exact ⟨hone rfl rfl, hone rfl rfl, hone rfl rfl, hone rfl rfl, hone rfl rfl, hone rfl rfl, hone rfl rfl, hone rfl rfl⟩
  · intro s g vd va b flag t tb w x gives two one shift
    have htwo : ∀ {i cls} (accepts : Tag → Tag → Bool) (f : Tag → Nat → Nat → Nat),
        exec i s = bitMember s i cls g vd va (some b) accepts (fun t x y => (f t x y, 0)) →
        two i cls (accepts t tb) (f t) := by
      intro i cls accepts f he hok ho hl hadm
      rw [he, bitMember_two hadm rfl hok ho hl]
    have hone : ∀ {i cls} (accepts : Tag → Tag → Bool) (f : Tag → Nat → Nat),
        exec i s = bitMember s i cls g vd va none accepts (fun t x _ => (f t x, 0)) →
        one i cls (accepts t t) (f t) := by
      intro i cls accepts f he hok ho hl hadm
      rw [he, bitMember_one hadm rfl hok ho hl]
      rfl
    have hshift : ∀ {i} (f : Tag → Nat → Nat → Nat × FpFlags), exec i s = shiftMember s i g vd va b f → shift i (f t) := by
      intro i f he hok ho hl hadm
      rw [he, shiftMember_done hadm rfl hok ho hl]
    exact ⟨htwo bitTags (fun _ => (· &&& ·)) rfl, htwo bitTags (fun _ => (· ||| ·)) rfl, htwo bitTags (fun _ => (· ^^^ ·)) rfl,
      htwo (fun t tb => t == tb && tagInt t && !tagSigned t && t != .uint4) (fun t x y =>
        if flag then clmul (tagWidth t) x y / 2 ^ tagWidth t else clmul (tagWidth t) x y % 2 ^ tagWidth t) rfl,
      hone bitTags (fun t x => 2 ^ tagWidth t - 1 - x) rfl,
      hone intTags (fun t x => if x = 0 then tagWidth t else tagWidth t - 1 - Nat.log2 x) rfl,
      hone intTags (fun t x => onesOf x (tagWidth t)) rfl,
      hshift (fun t x k => encInt t flag ((intVal t x).1 * (2 ^ Nat.min k 128 : Nat))) rfl,
      hshift (fun t x k => encInt t false ((intVal t x).1 / (2 ^ Nat.min k 128 : Nat))) rfl,
      hshift (fun t x k => (rotl (tagWidth t) x (if flag then tagWidth t - k % tagWidth t else k), 0)) rfl⟩

/-! ## Conversion, scaling and quantisation (R157 to R159) -/

theorem tagFloat_of_tagMx {t : Tag} (h : tagMx t = true) : tagFloat t = false := by
  cases t with
  | mxe2m1 | mxe4m3 | mxe5m2 | mxint8 => rfl
  | _ => cases h

/-- Widths within four times each other pass the width-change check (R61). -/
theorem widthChange_of_fits {a d : Tag} (ha : tagWidth a ≤ 4 * tagWidth d) (hd : tagWidth d ≤ 4 * tagWidth a) (k : Res State) :
    widthChange s a d k = k := by
  simp [widthChange, check, ha, hd]

/-- Raised flags leave the lanes sound. -/
theorem lanesSound_raise {cls : Nat} (h : LanesSound s cls) (f : FpFlags) : LanesSound (s.raise f) cls := h

/-- The block of an element is among the blocks of its list (R51). -/
theorem div_mem_blocksOf {es : List Nat} {e : Nat} (h : e ∈ es) : e / 32 ∈ blocksOf es :=
  List.mem_eraseDups.mpr (List.mem_map_of_mem h)

/-- A function that is tabled on a list of keys is found again at each of them. -/
theorem find?_map_key {β : Type} {ks : List Nat} {k : Nat} (f : Nat → β) (h : k ∈ ks) :
    (ks.map fun j => (j, f j)).find? (fun x => x.1 == k) = some (k, f k) := by
  induction ks with
  | nil => cases h
  | cons j ks ih =>
    by_cases hj : j = k
    · simp [hj]
    · simpa [hj] using ih ((List.mem_cons.mp h).resolve_left (Ne.symm hj))

/-! ## Comparison, selection, conversion, moves and fills (R155 to R162) -/

/-- Settles O21: with its tags accepted and its checks passed, each member finishes its elements on sound lanes. VCMP and the
MX members table a result for each element or block, and VQNT finds in its table the scale of an element's block. -/
theorem compareSelectAndConvertMembers : Obligations.CompareSelectAndConvertMembers := by
  unfold Obligations.CompareSelectAndConvertMembers
  constructor
  · intro s g pd va b c t ra tb reads value other act flags ht hf hn hr hl hadm
    rw [exec_vcmp, execVcmp, member_of_admitted hadm]
    dsimp only
    rw [withTag_some ht, formats_of_admitted hf, lengths_of_fit hn, parity_of_sound hr, checkedBy_of_sound hl]
    have hbit : ∀ v : Bool, ((if v then 1 else 0) == 1) = v := by decide
    simp only [List.foldl_map, List.map_map, Function.comp_def, hbit]
    rfl
  intro s g vd va vb pc ss b d t sat r ra rb l act
  refine ⟨?vsel, ?vcvt, ?vscaleFloat, ?vscaleMx, ?vqnt, ?vmov, ?vsplat, ?viota⟩
  case vsel =>
    intro reads ht ho hl hadm
    rw [exec_vsel, execVsel, member_of_admitted hadm]
    dsimp only
    rw [withTag_some ht, stage2_of_admitted ho, finishV_of_sound hl]
    rfl
  case vcvt =>
    intro rounds hd hw hw' ho hl hadm
    rw [exec_vcvt, execVcvt, member_of_admitted hadm]
    dsimp only
    rw [withTag_some (if_neg (by simp [hd])), widthChange_of_fits hw hw', stage2_of_admitted ho, finishV_of_sound hl]
    rfl
  case vscaleFloat =>
    intro reads m hf hb ho hl hadm
    rw [exec_vscale, execVscale, member_of_admitted hadm]
    dsimp only
    rw [withTag_some (if_pos ?takes)]
    case takes => exact Bool.and_eq_true_iff.mpr ⟨hb, by rw [hf, Bool.true_or]⟩
    rw [hf, stage2_of_admitted ho, if_pos rfl, finishV_of_sound hl]
    rfl
  case vscaleMx =>
    intro bs scaled hmx hb ho hl hadm
    have hf : tagFloat (s.src.rv va).tag = false := tagFloat_of_tagMx hmx
    rw [exec_vscale, execVscale, member_of_admitted hadm]
    dsimp only
    rw [withTag_some (if_pos ?takes)]
    case takes => exact Bool.and_eq_true_iff.mpr ⟨hb, by rw [hmx, Bool.or_true]⟩
    rw [hf, stage2_of_admitted ho, if_neg Bool.false_ne_true, finishV_of_sound (lanesSound_raise hl _)]
    simp only [List.foldl_map, List.map_map]
    rfl
  case vqnt =>
    intro m x es block nan sig hd hq hw hw' ho hl hadm
    rw [exec_vqnt, execVqnt, member_of_admitted hadm]
    dsimp only
    rw [withTag_some (if_pos (Bool.and_eq_true_iff.mpr ⟨hd, hq⟩)), widthChange_of_fits hw hw', stage2_of_admitted ho,
      finishV_of_sound (lanesSound_raise hl _)]
    simp only [List.any_map, List.map_map]
    refine congrArg (fun u : State => Host.Outcome.next u.memberDone) (elementsDone_congr (fun e he u => ?_) _)
    rw [find?_map_key block (div_mem_blocksOf he)]
    rcases block (e / 32) with ⟨sc, _ | _⟩ <;> rfl
  case vmov =>
    intro ho hl hadm
    rw [exec_vmov, execVmov, member_of_admitted hadm]
    dsimp only
    rw [stage2_of_admitted ho, finishV_of_sound hl]
    rfl
  case vsplat =>
    intro hd ho hl hadm
    rw [exec_vsplat, execVsplat, member_of_admitted hadm]
    dsimp only
    rw [withTag_some (if_neg (by simp [hd])), stage2_of_admitted ho, finishV_of_sound hl]
    rfl
  case viota =>
    intro hd ho hl hadm
    rw [exec_viota, execViota, member_of_admitted hadm]
    dsimp only
    rw [withTag_some (if_pos hd), stage2_of_admitted ho, finishV_of_sound hl]
    rfl

end Sys2Proof.VectorArithmetic

/-! Cross-lane members: the live positions that a move reads, the winners of a scatter, the elements packed, spread, read and
written one by one (R169 to R174, R179). -/

namespace Sys2Proof.CrossLane

open Sys2Proof.Machine Sys2Proof.BitFields Sys2Proof.ElementMerge

variable {s : State} {i : Instr}

/-! ## Lists built from their end -/

/-- Induction on a list whose last item comes last: what a fold over the list has met before it. -/
theorem snocInduction {α : Type} {p : List α → Prop} (nil : p []) (snoc : ∀ xs x, p xs → p (xs ++ [x])) (xs : List α) : p xs := by
  have hrev : ∀ ys : List α, p ys.reverse := fun ys => by
    induction ys with
    | nil => exact nil
    | cons y ys ih => exact List.reverse_cons ▸ snoc _ y ih
  exact List.reverse_reverse xs ▸ hrev xs.reverse

/-! ## Active elements (R78) -/

theorem pairwise_actives (s : State) (g : Gov) (ws : List Nat) : (s.actives g ws).Pairwise (· < ·) :=
  List.pairwise_lt_range.filter _

theorem isActive_of_mem_actives {g : Gov} {ws : List Nat} {e : Nat} (h : e ∈ s.actives g ws) : s.isActive g e = true :=
  (List.mem_filter.mp h).2

theorem lt_of_isActive {g : Gov} {e : Nat} (h : s.isActive g e = true) : e < Nat.min s.hart.regs.vlen s.hart.regs.ftrim.toNat := by
  simp only [State.isActive, Bool.and_eq_true, decide_eq_true_eq] at h
  exact Nat.lt_min.mpr h.1

theorem anyActive_of_isActive {g : Gov} {e : Nat} (h : s.isActive g e = true) : s.anyActive g = true :=
  List.any_eq_true.mpr ⟨e, List.mem_range.mpr (lt_of_isActive h), h⟩

theorem anyActive_of_actives_ne_nil {g : Gov} {ws : List Nat} (h : s.actives g ws ≠ []) : s.anyActive g = true := by
  obtain ⟨e, he⟩ := List.exists_mem_of_ne_nil _ h
  exact anyActive_of_isActive (isActive_of_mem_actives he)

/-! ## Members whose checks pass -/

theorem memberGives_of_ok {body : State → Res State} {u : State} (he : exec i s = member s i body) (hb : body s = .ok u) :
    MemberGives i s u := fun h => he.trans (member_done h hb)

/-- A member that matrix mode has not runs in vector mode (R94). -/
theorem vectorMode_of_admitted (h : MemberAdmitted s i) (hm : (Instr.memberInfo i).matrix = false) : s.hart.regs.mode = false := by
  obtain ⟨-, -, hmode, -, -⟩ := h
  cases hx : s.hart.regs.mode with
  | false => rfl
  | true =>
    rw [if_pos hx, hm] at hmode
    cases hmode

/-- In vector mode VLEN is within the positions of every register that a member names (R124). -/
theorem vlen_le_of_fit {rs : List (VReg × Nat)} (h : LengthsFit s rs) (hm : s.hart.regs.mode = false) {v : VReg} {t : Tag}
    (hv : (v, tagWidth t) ∈ rs) : s.hart.regs.vlen ≤ s.hart.lanes * (1024 / tagWidth t) := by
  rcases h with h | h
  · cases hm.symm.trans h
  · have hwidth : tagWidth t ∣ 1024 := by cases t <;> decide
    exact Nat.mul_div_assoc _ hwidth ▸ h _ hv

/-! ## Moves (R169 to R172) -/

/-- A move whose tags are accepted writes what each active element receives. -/
theorem moveMember_done {g : Gov} {vd va : VReg} {vb : Option VReg} {ok : Tag → Tag → Bool} {keep : Bool}
    {f : State → Nat → Option Nat} {t : Tag} (h : MemberAdmitted s i) (ht : (s.src.rv va).tag = t)
    (hk : ok t (vb.elim t fun v => (s.src.rv v).tag) = true)
    (ho : OperandsAdmitted s ((va :: vb.toList).map fun r => (r, (s.src.rv r).tag)) vd t false .dyn) (hl : LanesSound s 41) :
    moveMember s i g vd va vb ok keep f = .next (elementsDone s g vd t
      (s.actives g (tagWidth t :: ((va :: vb.toList).map fun r => (r, (s.src.rv r).tag)).map fun x => tagWidth x.2)) false
      fun e _ => (s.received vd t keep e (f s e), 0)).memberDone := by
  unfold moveMember
  refine member_done h ?_
  dsimp only
  rw [ht, withTag_some (if_pos ?accepted), stage2_of_admitted ho, finishV_of_sound hl]
  case accepted => cases vb <;> exact hk

/-- A position that is not live gives way to the element's own bits under .keep, or to zero (R169). -/
theorem received_source (g : Gov) (vd v : VReg) (t : Tag) (keep : Bool) (e : Nat) (j : Int) :
    s.received vd t keep e (s.source g v j) =
      if 0 ≤ j ∧ j < s.vlenOf (tagWidth (s.src.rv v).tag) ∧ s.isActive g j.toNat = true then
        (s.src.rv v).elem s.hart.lanes (tagWidth (s.src.rv v).tag) j.toNat
      else if keep = true ∧ tagWidth (s.src.rv vd).tag = tagWidth t then (s.src.rv vd).elem s.hart.lanes (tagWidth t) e else 0 := by
  simp only [State.source, State.isLive, Bool.and_eq_true, decide_eq_true_eq, and_assoc]
  split
  · rfl
  · simp only [State.received, Bool.and_eq_true, beq_iff_eq]

/-! ## Scatter (R173) -/

section
variable {idx : Nat → Int} {n : Nat}

theorem winners_append (act : List Nat) (e : Nat) : winners idx n (act ++ [e]) =
    if 0 ≤ idx e ∧ idx e < n then ((idx e).toNat, e) :: (winners idx n act).filter (fun x => !(x.1 == (idx e).toNat))
    else winners idx n act := by
  simp [winners, List.foldl_append]

/-- The winners are the placed elements that no later element replaces: in rising order, each element that takes a position drops
the one that held it. -/
theorem mem_winners {act : List Nat} (hs : act.Pairwise (· < ·)) {x : Nat × Nat} : x ∈ winners idx n act ↔
    x.2 ∈ act ∧ (0 ≤ idx x.2 ∧ idx x.2 < n) ∧ (¬ ∃ d ∈ act, x.2 < d ∧ idx d = idx x.2) ∧ x.1 = (idx x.2).toNat := by
  induction act using snocInduction with
  | nil => simp [winners]
  | snoc act e ih =>
    obtain ⟨hact, -, hbelow⟩ := List.pairwise_append.mp hs
    have hlt : ∀ d ∈ act, d < e := fun d hd => hbelow d hd e (List.mem_singleton_self e)
    obtain ⟨j, m⟩ := x
    have hlater : (∃ d ∈ act ++ [e], m < d ∧ idx d = idx m) ↔ (∃ d ∈ act, m < d ∧ idx d = idx m) ∨ m < e ∧ idx e = idx m := by
      simp only [List.mem_append, List.mem_singleton, or_and_right, exists_or, exists_eq_left]
    rw [winners_append, hlater, List.mem_append, List.mem_singleton]
    by_cases hm : m = e
    · have hout : e ∉ act := fun h => Nat.lt_irrefl e (hlt e h)
      have hnone : ¬ ∃ d ∈ act, e < d ∧ idx d = idx e := fun ⟨d, hd, h, _⟩ => Nat.lt_asymm h (hlt d hd)
      subst hm
      split
      next hp => simp [hp, hout, hnone, ih hact]
      next hp => simp [hp, ih hact]
    · have hme : m ∈ act → m < e := hlt m
      split
      next hp =>
        rw [List.mem_cons, List.mem_filter, ih hact]
        simp only [Prod.mk.injEq, hm, and_false, false_or, or_false]
        grind
      next hp =>
        rw [ih hact]
        grind

theorem nodup_winners (act : List Nat) : ((winners idx n act).map Prod.fst).Nodup := by
  induction act using snocInduction with
  | nil => exact List.nodup_nil
  | snoc act e ih =>
    rw [winners_append]
    split
    · refine List.nodup_cons.mpr ⟨fun h => ?_, ih.sublist (List.filter_sublist.map _)⟩
      obtain ⟨x, hx, he⟩ := List.mem_map.mp h
      simpa [he] using (List.mem_filter.mp hx).2
    · exact ih

end

/-- Bits set one after the other. -/
theorem getLsbD_setBits {k : Nat} (es : List Nat) (b : BitVec k) {e : Nat} (he : e < k) :
    (es.foldl (fun b e => putBits b e 1 1) b).getLsbD e = (decide (e ∈ es) || b.getLsbD e) := by
  induction es generalizing b with
  | nil => simp
  | cons d es ih =>
    rw [List.foldl_cons, ih, getLsbD_putBits]
    by_cases h : e = d
    · subst h; simp [he]
    · rw [if_neg (by omega)]
      simp [h]

/-- The elements that name a position which a later element takes. -/
def collided (idx : Nat → Int) (n : Nat) (act : List Nat) : List Nat :=
  (List.range n).filter fun e =>
    act.contains e && decide (0 ≤ idx e ∧ idx e < n) && !(winners idx n act).contains ((idx e).toNat, e)

theorem mem_collided {idx : Nat → Int} {n : Nat} {act : List Nat} (hs : act.Pairwise (· < ·)) (hn : ∀ e ∈ act, e < n) {e : Nat} :
    e ∈ collided idx n act ↔ e ∈ act ∧ (0 ≤ idx e ∧ idx e < n) ∧ ∃ d ∈ act, e < d ∧ idx d = idx e := by
  simp only [collided, List.mem_filter, List.mem_range, Bool.and_eq_true, Bool.not_eq_true', List.contains_iff_mem,
    decide_eq_true_eq, ← Bool.not_eq_true, mem_winners hs, and_true]
  constructor
  · rintro ⟨-, ⟨he, hp⟩, hlost⟩
    exact ⟨he, hp, Classical.not_not.mp fun h => hlost ⟨he, hp, h⟩⟩
  · rintro ⟨he, hp, hlost⟩
    exact ⟨hn e he, ⟨he, hp⟩, fun ⟨_, _, h⟩ => h hlost⟩

/-- The state after a scatter of the elements `act` to the positions `idx` below `n`. -/
def scattered (s : State) (g : Gov) (vd va : VReg) (px : PReg) (t : Tag) (idx : Nat → Int) (n : Nat) (act : List Nat) : State :=
  let u := s.writeV g vd t
    ((winners idx n act).map fun x => (x.1, (s.src.rv va).elem s.hart.lanes (tagWidth t) x.2)) keepScales
  if px = 0 then u
  else u.modRegs fun r => r.wp px ((collided idx n act).foldl (fun b e => putBits b e 1 1) 0)

theorem rv_wp (r : Regs) (p : PReg) (x : BitVec 16384) (v : VReg) : (r.wp p x).rv v = r.rv v := by
  unfold Regs.wp; split <;> rfl

section
variable {g : Gov} {vd va vb : VReg} {px : PReg} {t : Tag} {idx : Nat → Int} {n : Nat} {act : List Nat}

theorem rv_scattered (v : VReg) : (scattered s g vd va px t idx n act).hart.regs.rv v =
    (s.writeV g vd t ((winners idx n act).map fun x => (x.1, (s.src.rv va).elem s.hart.lanes (tagWidth t) x.2))
      keepScales).hart.regs.rv v := by
  unfold scattered
  split
  · rfl
  · rw [State.modRegs_regs, rv_wp]

/-- The collision predicate of a scatter holds the collided elements in every position. -/
theorem getLsbD_scattered (hp : px ≠ 0) {e : Nat} (he : e < 16384) :
    ((scattered s g vd va px t idx n act).hart.regs.rp px).bits.getLsbD e = decide (e ∈ collided idx n act) := by
  unfold scattered
  rw [if_neg hp, State.modRegs_regs, rp_wp_same _ _ hp, getLsbD_setBits _ _ he]
  simp

theorem rp_scattered {p : PReg} (hp : p ≠ px) : (scattered s g vd va px t idx n act).hart.regs.rp p = s.hart.regs.rp p := by
  have hsame : ∀ xs, (s.writeV g vd t xs keepScales).hart.regs.rp p = s.hart.regs.rp p := fun xs => by
    rcases writeV_cases s g vd t xs keepScales with h | ⟨x, h⟩ <;> rw [h]
    rfl
  unfold scattered
  split
  · exact hsame _
  · rw [State.modRegs_regs, Regs.rp_wp_other _ _ hp, hsame]

theorem rv_scattered_other {v : VReg} (hv : v ≠ vd) : (scattered s g vd va px t idx n act).hart.regs.rv v = s.hart.regs.rv v := by
  rw [rv_scattered]
  rcases writeV_cases s g vd t _ keepScales with h | ⟨x, h⟩ <;> rw [h]
  exact Regs.rv_wv_other _ x hv

/-- A scatter whose checks pass, with an active element. -/
theorem vput_done (hadm : MemberAdmitted s (.vput g vd va vb px)) (hmx : tagMx (s.src.rv va).tag = false)
    (hint : tagInt (s.src.rv vb).tag = true)
    (ho : OperandsAdmitted s [(va, (s.src.rv va).tag), (vb, (s.src.rv vb).tag)] vd (s.src.rv va).tag false .dyn)
    (hl : LanesSound s 41)
    (hact : act = s.actives g [tagWidth (s.src.rv va).tag, tagWidth (s.src.rv va).tag, tagWidth (s.src.rv vb).tag])
    (hne : act ≠ []) :
    exec (.vput g vd va vb px) s = .next (scattered s g vd va px (s.src.rv va).tag (s.index vb)
      (Nat.min s.hart.regs.vlen s.hart.regs.ftrim.toNat) act).memberDone := by
  have hbit : ∀ b : Bool, ((if b then 1 else 0) == 1) = b := by decide
  rw [exec_vput]
  refine member_done hadm ?_
  dsimp only
  rw [withTag_some (if_pos (by simp [hmx, hint])), stage2_of_admitted ho, checkedBy_of_sound hl]
  simp only [List.map_cons, List.map_nil, ← hact, List.isEmpty_eq_false_iff.mpr hne, Bool.or_false, hbit]
  simp only [decide_eq_true_eq]
  rfl

end

theorem elem_lt (r : VRegS) (l w e : Nat) : r.elem l w e < 2 ^ w := Nat.mod_lt _ (Nat.two_pow_pos w)

/-- What the elements of a scatter hold afterwards, for an index below every position of the register (R173). -/
theorem elem_scattered {g : Gov} {vd va : VReg} {px : PReg} {t : Tag} {idx : Nat → Int} {n : Nat} {act : List Nat}
    (hl : 0 < s.hart.lanes) (hl' : s.hart.lanes ≤ 64) (hn : n ≤ s.hart.lanes * (1024 / tagWidth t)) (ha : s.anyActive g = true)
    (hs : act.Pairwise (· < ·)) :
    ((scattered s g vd va px t idx n act).hart.regs.rv vd).tag = t ∧
    (∀ e ∈ act, 0 ≤ idx e ∧ idx e < n → ¬ (∃ d ∈ act, e < d ∧ idx d = idx e) →
      ((scattered s g vd va px t idx n act).hart.regs.rv vd).elem s.hart.lanes (tagWidth t) (idx e).toNat =
        (s.src.rv va).elem s.hart.lanes (tagWidth t) e) ∧
    ∀ j, j < s.hart.lanes * (1024 / tagWidth t) → (∀ e ∈ act, 0 ≤ idx e ∧ idx e < n → (idx e).toNat ≠ j) →
      ((scattered s g vd va px t idx n act).hart.regs.rv vd).elem s.hart.lanes (tagWidth t) j =
        if g.z = true ∨ tagWidth (s.src.rv vd).tag ≠ tagWidth t then 0
        else (s.src.rv vd).elem s.hart.lanes (tagWidth t) j := by
  rw [rv_scattered]
  generalize hxs : ((winners idx n act).map fun x => (x.1, (s.src.rv va).elem s.hart.lanes (tagWidth t) x.2)) = xs
  have hkeys : xs.map Prod.fst = (winners idx n act).map Prod.fst := by simp [← hxs]
  have hbound : ∀ y ∈ xs, y.1 < s.hart.lanes * (1024 / tagWidth t) ∧ y.2 < 2 ^ tagWidth t := by
    intro y hy
    obtain ⟨x, hx, rfl⟩ := List.mem_map.mp (hxs ▸ hy)
    obtain ⟨-, hp, -, hx⟩ := (mem_winners hs).mp hx
    exact ⟨by dsimp only; omega, elem_lt _ _ _ _⟩
  obtain ⟨-, hwrote, -⟩ := resultsMergeByElement.1 s g vd t xs keepScales hl hl' (hkeys ▸ nodup_winners act) hbound
  obtain ⟨htag, hmem, hrest⟩ := hwrote ha
  refine ⟨htag, fun e he hp hb => ?_, fun j hj hnone => hrest j hj fun hj => ?_⟩
  · exact hmem ((idx e).toNat, (s.src.rv va).elem s.hart.lanes (tagWidth t) e)
      (hxs ▸ List.mem_map.mpr ⟨((idx e).toNat, e), (mem_winners hs).mpr ⟨he, hp, hb, rfl⟩, rfl⟩)
  · obtain ⟨x, hx, rfl⟩ := List.mem_map.mp (hkeys ▸ hj)
    obtain ⟨he, hp, -, hx⟩ := (mem_winners hs).mp hx
    exact hnone _ he hp hx.symm

/-! ## Counts of the active elements (R174, R178) -/

section
variable {sd : SReg} {x : Word} {act : List Nat}

/-- No count is written to s0, or with no active element. -/
theorem count_none (h : sd = 0 ∨ act = []) (k : State → Res State) :
    (if sd = 0 || act.isEmpty then .ok s else s.memberS sd x).then k = k s := by
  rw [if_pos (by simpa using h)]; rfl

theorem count_some (hsd : sd ≠ 0) (hact : act ≠ []) (hb : s.belowLimit sd x = false) (k : State → Res State) :
    (if sd = 0 || act.isEmpty then .ok s else s.memberS sd x).then k = k (s.effect (.scalar sd x false)) := by
  rw [if_neg (by simpa [hact] using hsd), memberS_of_ok hb]; rfl

end

section
variable {g : Gov} {vd va : VReg} {t : Tag} {act : List Nat}

/-- A pack whose checks pass writes its count, where it has one, and the active elements from position 0 on. -/
theorem vcomp_gives {sd : SReg} {u : State} (ht : (s.src.rv va).tag = t) (hact : s.actives g [tagWidth t, tagWidth t] = act)
    (hmx : tagMx t = false) (ho : OperandsAdmitted s [(va, t)] vd t false .dyn) (hl : LanesSound s 41)
    (hu : ((if sd = 0 || act.isEmpty then .ok s else s.memberS sd (BitVec.ofNat 64 act.length)).then fun s' =>
      .ok (s'.writeV g vd t (act.mapIdx fun k e => (k, (s.src.rv va).elem s'.hart.lanes (tagWidth t) e)) keepScales)) = .ok u) :
    MemberGives (.vcomp g vd va sd) s u := by
  subst ht hact
  refine memberGives_of_ok (exec_vcomp s g vd va sd) ?_
  dsimp only
  rw [withTag_some (if_neg (ne_true_of_eq_false hmx)), stage2_of_admitted ho, checkedRes_of_sound hl]
  exact hu

/-- A spread whose checks pass writes the elements from position 0 on at the active positions. -/
theorem vexpd_gives (ht : (s.src.rv va).tag = t) (hact : s.actives g [tagWidth t, tagWidth t] = act) (hmx : tagMx t = false)
    (ho : OperandsAdmitted s [(va, t)] vd t false .dyn) (hl : LanesSound s 41) :
    MemberGives (.vexpd g vd va) s
      (s.writeV g vd t (act.mapIdx fun k e => (e, (s.src.rv va).elem s.hart.lanes (tagWidth t) k)) keepScales) := by
  subst ht hact
  refine memberGives_of_ok (exec_vexpd s g vd va) ?_
  dsimp only
  rw [withTag_some (if_neg (ne_true_of_eq_false hmx)), stage2_of_admitted ho, checkedBy_of_sound hl]
  rfl

end

/-! ## Single elements (R179) -/

/-- A register with the bits of one element replaced (R179). -/
def withElem (r : VRegS) (l w k x : Nat) : VRegS :=
  { r with
    bits := putBits r.bits (elemPos l w k) w x, dirty := true
    segs := Nat.max r.segs (ceilDiv ((k / l + 1) * w) 256) }

section
variable {l w k : Nat} (r : VRegS) (x : Nat)

theorem elem_withElem_same (hl : 0 < l) (hl' : l ≤ 64) (hk : k < l * (1024 / w)) : (withElem r l w k x).elem l w k = x % 2 ^ w :=
  bitsAt_putBits_same _ _ (elemPos_bound hl hl' hk)

theorem elem_withElem_other {e : Nat} (hk : k < l * (1024 / w)) (he : e < l * (1024 / w)) (hne : e ≠ k) :
    (withElem r l w k x).elem l w e = r.elem l w e :=
  bitsAt_putBits_apart _ _ (elemPos_apart hk he hne.symm)

end

/-- A position given by a register is live below VLEN where its element is active. -/
theorem isLive_natCast (g : Gov) (w k : Nat) : s.isLive g w k = true ↔ k < s.vlenOf w ∧ s.isActive g k = true := by
  simp [State.isLive]

theorem source_live {g : Gov} {v : VReg} {k : Nat} {w : Nat} (hw : tagWidth (s.src.rv v).tag = w)
    (h : k < s.vlenOf w ∧ s.isActive g k = true) : s.source g v k = some ((s.src.rv v).elem s.hart.lanes w k) := by
  subst hw
  exact if_pos ((isLive_natCast g _ k).mpr h)

theorem source_not_live {g : Gov} {v : VReg} {k : Nat} {w : Nat} (hw : tagWidth (s.src.rv v).tag = w)
    (h : ¬ (k < s.vlenOf w ∧ s.isActive g k = true)) : s.source g v k = none := by
  subst hw
  exact if_neg (mt (isLive_natCast g _ k).mp h)

/-- What a scalar gives an element of a tag: two bits for tern, else as many as the width. -/
theorem scalar_mod_lt (t : Tag) (x : Nat) : x % 2 ^ (if t = .tern then 2 else tagWidth t) < 2 ^ tagWidth t := by
  have hwidth : (if t = .tern then 2 else tagWidth t) ≤ tagWidth t := by cases t <;> decide
  exact Nat.lt_of_lt_of_le (Nat.mod_lt _ (Nat.two_pow_pos _)) (Nat.pow_le_pow_right Nat.two_pos hwidth)

/-- A read of one element whose checks pass writes its scalar, or, with no live element, zero or nothing. -/
theorem vexts_gives {t : Tag} {g : Gov} {sd : SReg} {va : VReg} {sk : SReg} {keep : Bool} {u : State}
    (ht : (s.src.rv va).tag = t) (hmx : tagMx t = false) (hf : FormatsAdmitted s [t])
    (hn : LengthsFit s [(va, tagWidth t)]) (hr : RegistersSound s [va]) (hl : LanesSound s 41)
    (hu : (if !s.anyActive g then .ok s
      else (s.source g va (s.src.rs sk).toNat).elim (if keep then .ok s else s.memberS sd 0)
        fun x => s.memberS sd (scalarOf t x)) = .ok u) : MemberGives (.vexts g sd va sk keep) s u := by
  subst ht
  refine memberGives_of_ok (exec_vexts s g sd va sk keep) ?_
  dsimp only
  rw [withTag_some (if_neg (ne_true_of_eq_false hmx)), formats_of_admitted hf, lengths_of_fit hn, parity_of_sound hr]
  simp only [checkedRes_of_sound hl]
  generalize s.source g va (s.src.rs sk).toNat = o at hu ⊢
  cases o with
  | none => exact hu
  | some x => exact hu

/-- A write of one element whose checks pass replaces it where it is live. -/
theorem vinss_gives {t : Tag} {g : Gov} {vd : VReg} {ss sk : SReg} {u : State} (ht : (s.src.rv vd).tag = t) (hmx : tagMx t = false)
    (hf : FormatsAdmitted s [t]) (hn : LengthsFit s [(vd, tagWidth t)]) (hl : LanesSound s 41)
    (hu : (if s.isLive g (tagWidth t) (s.src.rs sk).toNat then
      s.modRegs fun r => r.wv vd (withElem (s.src.rv vd) s.hart.lanes (tagWidth t) (s.src.rs sk).toNat
        ((s.src.rs ss).toNat % 2 ^ (if t = .tern then 2 else tagWidth t)))
      else s) = u) : MemberGives (.vinss g vd ss sk) s u := by
  subst ht
  refine memberGives_of_ok (exec_vinss s g vd ss sk) ?_
  dsimp only
  rw [withTag_some (if_neg (ne_true_of_eq_false hmx)), formats_of_admitted hf, lengths_of_fit hn, checkedBy_of_sound hl, ← hu]
  cases s.isLive g (tagWidth (s.src.rv vd).tag) (s.src.rs sk).toNat with
  | false => rfl
  | true => rfl

/-! ## The statement -/

/-- Settles O24: each move writes what its source position gives; the winners of a scatter lie at positions of their own; the
elements packed, spread, read and written are named one by one. -/
theorem crossLaneMovesAndSingleElements : Obligations.CrossLaneMovesAndSingleElements := by
  unfold Obligations.CrossLaneMovesAndSingleElements
  constructor
  · intro s g vd va vb sk flag keep ra rb old l t w n k own from_ gives hmx
    have hfrom : ∀ v j e, s.received vd t keep e (s.source g v j) = from_ (s.src.rv v) j e :=
      fun v j e => received_source g vd v t keep e j
    have hmove : ∀ {i vb ok f F}, exec i s = moveMember s i g vd va vb ok keep f →
        ok t (vb.elim t fun v => (s.src.rv v).tag) = true → (∀ e, s.received vd t keep e (f s e) = F e) →
        gives i (va :: vb.toList) F := by
      intro i vb ok f F he hok hf ho hl hadm
      rw [he, moveMember_done hadm rfl hok ho hl]
      exact congrArg (fun u : State => Host.Outcome.next u.memberDone)
        (elementsDone_congr (fun e _ _ => congrArg (·, 0) (hf e)) _)
    have hok : (!tagMx t) = true := by rw [hmx]; rfl
    have heq : rb.tag = t → (!tagMx t && t == rb.tag) = true := fun ht => by rw [hok, ht, beq_self_eq_true]; rfl
    refine ⟨fun hint => ?perm, ?slu, ?sld, ?bcast, fun ht => ?zip, fun ht => ?unzip⟩
    case perm =>
      exact hmove (vb := some vb) (exec_vperm s g vd va vb keep) (Bool.and_eq_true_iff.mpr ⟨hok, hint⟩) fun e => hfrom _ _ _
    case slu => exact hmove (vb := none) (exec_vslu s g vd va sk keep) hok fun e => hfrom _ _ _
    case sld => exact hmove (vb := none) (exec_vsld s g vd va sk keep) hok fun e => hfrom _ _ _
    case bcast => exact hmove (vb := none) (exec_vbcast s g vd va sk keep) hok fun e => hfrom _ _ _
    case zip =>
      refine hmove (vb := some vb) (exec_vzip s g vd va vb flag keep) (heq ht) fun e => ?_
      rw [hfrom, apply_ite s.src.rv]
    case unzip =>
      refine hmove (vb := some vb) (exec_vunzip s g vd va vb flag keep) (heq ht) fun e => ?_
      rw [apply_ite (s.received vd t keep e), hfrom, hfrom]
  · intro s g vd va vb px sd ss sk keep ra rb old l t w reads act two at_ n placed beaten count k live hmx hmx'
    have hlive : live w → s.source g va k = some (ra.elem l w k) := source_live rfl
    have hdead : ¬ live w → s.source g va k = none := source_not_live rfl
    refine ⟨?vput, fun ho hlanes => ?packed, fun hf hn hr hlanes => ?vexts, fun hf hn hlanes => ?vinss⟩
    case vput =>
      intro hint ho hlanes hadm hne hl hl'
      have hs : two.Pairwise (· < ·) := pairwise_actives s g _
      have ⟨_, _, hfit, _⟩ := ho
      have hn : n ≤ l * (1024 / w) := Nat.le_trans (Nat.min_le_left _ _)
        (vlen_le_of_fit hfit (vectorMode_of_admitted hadm rfl) List.mem_cons_self)
      have hin : ∀ e ∈ two, e < n := fun e he => lt_of_isActive (isActive_of_mem_actives he)
      obtain ⟨htag, hwon, hrest⟩ := elem_scattered (g := g) (vd := vd) (va := va) (px := px) (idx := at_) hl hl' hn
        (anyActive_of_actives_ne_nil hne) hs
      refine ⟨_, vput_done hadm hmx hint ho hlanes rfl hne, htag, fun e he hp _ hb => hwon e he hp hb, hrest, fun hp e he => ?_,
        fun v hv => rv_scattered_other hv, fun p hp => rp_scattered hp⟩
      rw [getLsbD_scattered hp he, decide_eq_true_eq]
      exact mem_collided hs hin
    case packed =>
      have hcomp := fun {u : State} => vcomp_gives (g := g) (sd := sd) (u := u) rfl rfl hmx ho hlanes
      exact ⟨fun hnone => hcomp (count_none hnone _), fun hsd hact hb => hcomp (count_some hsd hact hb _),
        vexpd_gives rfl rfl hmx ho hlanes⟩
    case vexts =>
      have hexts := fun {u : State} => vexts_gives (g := g) (sd := sd) (keep := keep) (sk := sk) (u := u) rfl hmx hf hn hr hlanes
      refine ⟨fun ha hk hb => hexts ?_, fun ha hk hkeep hb => hexts ?_, fun h => hexts ?_⟩
      · rw [if_neg (by simp [ha]), hlive hk]
        exact memberS_of_ok hb
      · rw [if_neg (by simp [ha]), hdead hk, hkeep]
        exact memberS_of_ok hb
      · rcases h with ha | ⟨hk, hkeep⟩
        · exact if_pos (by simp [ha])
        · rw [hdead hk, hkeep]
          exact ite_self _
    case vinss =>
      have hinss := fun {u : State} => vinss_gives (g := g) (ss := ss) (sk := sk) (u := u) rfl hmx' hf hn hlanes
      refine ⟨fun hk => hinss (if_neg (mt (isLive_natCast g _ k).mp hk)), fun hk hl hl' hk' hadm => ?_⟩
      refine ⟨_, hinss (if_pos ((isLive_natCast g _ k).mpr hk)) hadm, ?_⟩
      rw [State.modRegs_regs, Regs.rv_wv_same, elem_withElem_same _ _ hl hl' hk', Nat.mod_eq_of_lt (scalar_mod_lt _ _)]
      exact ⟨rfl, rfl, fun e he hne => elem_withElem_other _ _ hk' he hne, fun v hv => Regs.rv_wv_other _ _ hv⟩

end Sys2Proof.CrossLane

/-! Reductions and scans across a vector: the combination of the active elements, the first element of each value and the count
of values (R175 to R178). -/

namespace Sys2Proof.Reductions

open Sys2Proof.Machine Sys2Proof.CrossLane

variable {s : State}

/-! ## The first element of each value (R178) -/

/-- No active element below this one holds its value. -/
def isFirst (value : Nat → Nat) (act : List Nat) (e : Nat) : Bool := decide (∀ c ∈ act, c < e → value c ≠ value e)

/-- What a conflict search carries: the values seen and the first elements that held them. -/
def seek (value : Nat → Nat) (act : List Nat) : List Nat × List Nat :=
  act.foldl (fun l e => if l.1.contains (value e) then l else (value e :: l.1, e :: l.2)) ([], [])

section
variable {value : Nat → Nat} {act : List Nat}

theorem seek_append (act : List Nat) (e : Nat) : seek value (act ++ [e]) =
    if (seek value act).1.contains (value e) then seek value act
    else (value e :: (seek value act).1, e :: (seek value act).2) := by
  simp [seek, List.foldl_append]

theorem mem_seek_values {v : Nat} : v ∈ (seek value act).1 ↔ ∃ e ∈ act, value e = v := by
  induction act using snocInduction with
  | nil => simp [seek]
  | snoc act e ih =>
    have hsplit : (∃ d ∈ act ++ [e], value d = v) ↔ (∃ d ∈ act, value d = v) ∨ value e = v := by
      simp only [List.mem_append, List.mem_singleton, or_and_right, exists_or, exists_eq_left]
    rw [seek_append, hsplit, ← ih]
    split
    next h => exact ⟨.inl, fun hv => hv.elim id fun hv => hv ▸ List.contains_iff_mem.mp h⟩
    next => rw [List.mem_cons, or_comm, eq_comm]

/-- The elements found are the first ones of their values, the last found foremost. -/
theorem seek_firsts (hs : act.Pairwise (· < ·)) : (seek value act).2 = (act.filter (isFirst value act)).reverse := by
  induction act using snocInduction with
  | nil => rfl
  | snoc act e ih =>
    obtain ⟨hact, -, hbelow⟩ := List.pairwise_append.mp hs
    have hlt : ∀ d ∈ act, d < e := fun d hd => hbelow d hd e (List.mem_singleton_self e)
    have hold : act.filter (isFirst value (act ++ [e])) = act.filter (isFirst value act) := by
      refine List.filter_congr fun d hd => decide_eq_decide.mpr ?_
      have hnot : ¬ e < d := Nat.lt_asymm (hlt d hd)
      simp [or_imp, forall_and, hnot]
    have hnew : isFirst value (act ++ [e]) e = !(seek value act).1.contains (value e) := by
      rw [Bool.eq_iff_iff, Bool.not_eq_true', ← Bool.not_eq_true, List.contains_iff_mem, mem_seek_values, isFirst,
        decide_eq_true_eq]
      constructor
      · rintro h ⟨c, hc, hv⟩
        exact h c (List.mem_append_left _ hc) (hlt c hc) hv
      · intro h c hc hce hv
        exact h ⟨c, (List.mem_append.mp hc).resolve_right fun hc => Nat.ne_of_lt hce (List.mem_singleton.mp hc), hv⟩
    rw [seek_append, List.filter_append, hold, List.reverse_append, ← ih hact]
    cases h : (seek value act).1.contains (value e) <;> rw [h] at hnew
    · rw [if_neg Bool.false_ne_true, List.filter_cons_of_pos hnew]; rfl
    · rw [if_pos rfl, List.filter_cons_of_neg (Bool.not_eq_true _ ▸ hnew)]; rfl

/-- The marks of a conflict search are those of the first elements. -/
theorem seek_marks (hs : act.Pairwise (· < ·)) :
    (act.map fun e => (e, (if (seek value act).2.contains e then 1 else 0) == 1)) = act.map fun e => (e, isFirst value act e) := by
  have hbit : ∀ b : Bool, ((if b then 1 else 0) == 1) = b := by decide
  refine List.map_congr_left fun e he => congrArg (e, ·) ?_
  rw [hbit, seek_firsts hs, List.contains_reverse, Bool.eq_iff_iff, List.contains_iff_mem, List.mem_filter]
  exact and_iff_right he

end

/-! ## Accumulation tags (R176) -/

/-- An ordered reduction takes its accumulation tag where vb has it (R176). -/
theorem accTag_accepted {op : RedOp} {ord : Bool} {t a b : Tag} (h : accTag op t = some a) (hb : ord = true → b = a) :
    (accTag op t).filter (fun a => !ord || b == a) = some a := by
  rw [h, Option.filter_some, if_pos]
  cases ord with
  | false => rfl
  | true => exact beq_iff_eq.mpr (hb rfl)

/-! ## The statement -/

/-- Settles O25: a reduction combines the converted elements in its chain or its tree, a scan gives what it carries at each element,
and the elements that a conflict search finds are the first of their values. -/
theorem reductionsAndScans : Obligations.ReductionsAndScans := by
  unfold Obligations.ReductionsAndScans
  intro s g op ord sat ex r vd va vb pd sd a ra rb l t w act m draws f input start d res wrote admitted
  have hred : ∀ {u : State}, admitted →
      (if act.isEmpty then .ok s
        else (if sd = 0 then .ok s else s.memberS sd (scalarOf a res.1)).then fun s => .ok (wrote s)) = .ok u →
      MemberGives (.vred g op ord sat r vd va vb sd) s u := by
    rintro u ⟨ht, hf, hm, hn, hr, hl, hord⟩ hu
    refine memberGives_of_ok (exec_vred s g op ord sat r vd va vb sd) ?_
    dsimp only
    rw [withTag_some (accTag_accepted ht hord), formats_of_admitted hf, withMode_of_given hm, lengths_of_fit hn,
      parity_of_sound hr, checkedRes_of_sound hl]
    simp only [List.map_map, List.foldl_map]
    exact hu
  refine ⟨fun ho hnone => ?unreduced, fun ho hact hsd => ?vector, fun ho hact hsd hb => ?both, ?vscan, ?vconf⟩
  case unreduced => exact hred ho (if_pos (List.isEmpty_iff.mpr hnone))
  case vector =>
    refine hred ho ?_
    rw [if_neg (mt List.isEmpty_iff.mp hact), if_pos hsd]
    rfl
  case both =>
    refine hred ho ?_
    rw [if_neg (mt List.isEmpty_iff.mp hact), if_neg hsd, memberS_of_ok hb]
    rfl
  case vscan =>
    intro act start values res ht ho hl
    refine memberGives_of_ok (exec_vscan s g op ex sat r vd va) ?_
    dsimp only
    rw [withTag_some ht, stage2_of_admitted ho, checkedBy_of_sound hl]
    simp only [List.map_map, List.foldl_map, List.map_id']
    rfl
  case vconf =>
    intro first count marks hmx hf hn hr hl
    have hs : act.Pairwise (· < ·) := pairwise_actives s g [w]
    have hcount : BitVec.ofNat 64 (seek (ra.elem l w) act).2.length = count := by rw [seek_firsts hs, List.length_reverse]; rfl
    have hmarks : _ = marks := seek_marks hs
    have hconf : ∀ {u : State},
        ((if sd = 0 || act.isEmpty then .ok s else s.memberS sd count).then fun s => .ok (s.writeP g pd marks)) = .ok u →
        MemberGives (.vconf g pd va sd) s u := by
      intro u hu
      refine memberGives_of_ok (exec_vconf s g pd va sd) ?_
      dsimp only
      rw [withTag_some (if_neg (ne_true_of_eq_false hmx)), formats_of_admitted hf, lengths_of_fit hn, parity_of_sound hr,
        checkedRes_of_sound hl]
      rw [← hcount, ← hmarks] at hu
      exact hu
    exact ⟨fun hnone => hconf (count_none hnone _), fun hsd hact hb => hconf (count_some hsd hact hb _)⟩

end Sys2Proof.Reductions

/-! Tile control, and rows of a tile moved from and to vectors: the elements that MXEXT reads and MXINS writes, and what the tile
holds afterwards (R185, R190, R194 to R197). -/

namespace Sys2Proof.TileMoves

open Sys2Proof.Machine Sys2Proof.BitFields Sys2Proof.MatrixMultiply Sys2Proof.CrossLane

variable {s : State} {i : Instr}

theorem memberTraps_of_trap {body : State → Res State} {c : Nat} {v : Word} (he : exec i s = member s i body)
    (hb : body s = .trap c v) (hadm : MemberAdmitted s i) : exec i s = .next (s.takeTrap c v s.hart.pc) := by
  rw [he, member_of_admitted hadm, hb]; rfl

/-! ## A tile that is zeroed (R194) -/

/-- The registers with tile `n` zero and sound. -/
def zeroed (n : BitVec 2) (r : Regs) : Regs :=
  { r with acc := Tbl.drop r.acc n.toNat, badAcc := r.badAcc.filter fun x => !(x.1 == n) }

theorem tileElem_zeroed (n : BitVec 2) (r : Regs) (i j : Nat) : (zeroed n r).tileElem n i j = 0 := by
  have htile : (zeroed n r).tile n = 0 := Tbl.look_drop_same _ _ _
  rw [Regs.tileElem, htile, bitsAt_zero]

theorem tile_zeroed_other {n b : BitVec 2} (r : Regs) (h : b ≠ n) : (zeroed n r).tile b = r.tile b :=
  Tbl.look_drop_other _ _ fun e => h (BitVec.eq_of_toNat_eq e)

/-- The uncorrectable row slices that are left are those of the other tiles. -/
theorem mem_badAcc_zeroed {n b : BitVec 2} (r : Regs) (i j : Nat) :
    (b, i, j) ∈ (zeroed n r).badAcc ↔ (b, i, j) ∈ r.badAcc ∧ b ≠ n := by
  simp [zeroed]

/-! ## Single elements written into a tile -/

section
variable (r : Regs) (n : BitVec 2) {xs : List (Nat × Nat × Nat)}

/-- A written element holds its value, where no other item writes it. -/
theorem tileElem_putTile_written {x : Nat × Nat × Nat} (hb : ∀ y ∈ xs, y.1 < 32 ∧ y.2.1 < 1024) (hx : x ∈ xs)
    (hone : ∀ y ∈ xs, y.1 = x.1 ∧ y.2.1 = x.2.1 → y = x) : (r.putTile n xs).tileElem n x.1 x.2.1 = x.2.2 % 2 ^ 32 := by
  obtain ⟨hrow, hcol⟩ := hb x hx
  rw [Regs.tileElem, tile_putTile_same]
  refine bitsAt_putAll_mem _ (tilePos_bound hrow hcol) (fun y hy => ?_) ⟨x, hx, rfl, rfl⟩
  by_cases h : y.1 = x.1 ∧ y.2.1 = x.2.1
  · rw [hone y hy h]
    exact .inl ⟨rfl, rfl⟩
  · exact .inr (tilePos_apart (hb y hy).2 hcol h)

/-- An element that no item writes stays. -/
theorem tileElem_putTile_unwritten {i j : Nat} (hb : ∀ y ∈ xs, y.2.1 < 1024) (hj : j < 1024)
    (h : ∀ y ∈ xs, ¬ (y.1 = i ∧ y.2.1 = j)) : (r.putTile n xs).tileElem n i j = r.tileElem n i j := by
  rw [Regs.tileElem, tile_putTile_same]
  exact bitsAt_putAll_apart _ fun y hy => tilePos_apart (hb y hy) hj (h y hy)

end

/-! ## The tile elements of vector positions (R195, R196) -/

/-- The row of the tile element that position `e` stands for: rows lie one after the other from the row base `sr`. -/
def rowAt (s : State) (sr : SReg) (e : Nat) : Nat := (s.src.rs sr).toNat + e / s.columns

/-- Its column. -/
def colAt (s : State) (e : Nat) : Nat := e % s.columns

/-- It lies inside the tile shape. -/
def inShape (s : State) (sr : SReg) (e : Nat) : Bool :=
  decide (rowAt s sr e < s.hart.regs.tshm) && decide (colAt s e < s.hart.regs.tshn)

theorem inShape_iff {sr : SReg} {e : Nat} :
    inShape s sr e = true ↔ rowAt s sr e < s.hart.regs.tshm ∧ colAt s e < s.hart.regs.tshn := by
  simp [inShape]

/-- Positions stand for different elements. -/
theorem position_unique {sr : SReg} {e f : Nat} (hrow : rowAt s sr e = rowAt s sr f) (hcol : colAt s e = colAt s f) : e = f :=
  Nat.ext_div_mod (Nat.add_left_cancel hrow) hcol

/-! ## MXEXT (R195) -/

section
variable (s) (g : Gov) (vd : VReg) (acc : BitVec 2) (sr : SReg) (d : Tag) (int sat : Bool) (r : Rnd)

/-- The active positions whose elements MXEXT reads. -/
def extPositions : List Nat := (s.actives g [tagWidth d]).filter (inShape s sr)

/-- MXEXT rounds unless it gives integers from integers. -/
def extRounds (int : Bool) (d : Tag) : Bool := !int || tagFloat d

/-- The converted elements, their flags and RNGS after their draws. -/
def extracted : List (Nat × Nat) × FpFlags × Word :=
  let m := roundingOf s (extRounds int d) r
  runElems (m == .sr && extRounds int d)
    (fun e u => extElem s.ctl int sat d m (s.hart.regs.tileElem acc (rowAt s sr e) (colAt s e)) u) (extPositions s g sr d) s.hart.regs.rngs

/-- The state with the converted elements written. -/
def afterExt : State :=
  let x := extracted s g acc sr d int sat r
  ((s.raise x.2.1).modRegs fun r => { r with rngs := x.2.2 }).writeV g vd d x.1 keepScales

/-- Position `e` stands for an element of an uncorrectable row slice (R185). -/
def InDamagedSlice (e : Nat) : Prop := (acc, rowAt s sr e, colAt s e % s.hart.lanes) ∈ s.hart.regs.badAcc

variable {s g vd acc sr d int sat r}

theorem damagedSlice_iff (es : List Nat) :
    (∃ x ∈ es.map fun e => (rowAt s sr e, colAt s e), s.hart.regs.rowSlice acc x.1 x.2 ∈ s.hart.regs.badAcc) ↔
      ∃ e ∈ es, InDamagedSlice s acc sr e := by
  constructor
  · rintro ⟨x, hx, hbad⟩
    obtain ⟨e, he, rfl⟩ := List.mem_map.mp hx
    exact ⟨e, he, hbad⟩
  · rintro ⟨e, he, hbad⟩
    exact ⟨_, List.mem_map_of_mem he, hbad⟩

/-- What an accepted MXEXT does, the check of the row slices that it reads being left. -/
theorem mxext_accepted (hd : extTag int d = true) (hf : FormatsAdmitted s [if int then .int32 else .fp32, d])
    (hm : RoundingGiven s (extRounds int d) r) (hl : LanesSound s 47) :
    ∃ body, exec (.mxext g vd acc sr d int sat r) s = member s (.mxext g vd acc sr d int sat r) body ∧
      body s = tileParity s acc ((extPositions s g sr d).map fun e => (rowAt s sr e, colAt s e))
        (.ok (afterExt s g vd acc sr d int sat r)) := by
  refine ⟨_, exec_mxext s g vd acc sr d int sat r, ?_⟩
  dsimp only
  rw [withTag_some (if_pos hd), formats_of_admitted hf]
  refine (withMode_of_given hm _).trans ?_
  rw [checkedBy_of_sound hl, List.map_id']
  rfl

end

/-! ## MXINS (R196) -/

section
variable (s) (g : Gov) (va : VReg) (sr : SReg)

/-- The active positions of two rows whose elements MXINS writes. -/
def insPositions : List Nat := (s.activeBelow g (2 * s.columns)).filter (inShape s sr)

/-- The tile elements that MXINS writes, each with its value. -/
def inserted : List (Nat × Nat × Nat) :=
  (insPositions s g sr).map fun e => (rowAt s sr e, colAt s e, (s.src.rv va).elem s.hart.lanes 32 e)

variable {s g va sr}

theorem lt_shape_of_mem_inserted {y : Nat × Nat × Nat} (hy : y ∈ inserted s g va sr) :
    y.1 < s.hart.regs.tshm ∧ y.2.1 < s.hart.regs.tshn := by
  obtain ⟨e, he, rfl⟩ := List.mem_map.mp hy
  exact inShape_iff.mp (List.mem_filter.mp he).2

/-- Each written element holds the element of va of its position. -/
theorem tileElem_inserted (q : Regs) (acc : BitVec 2) (hm : s.hart.regs.tshm ≤ 32) (hn : s.hart.regs.tshn ≤ 1024) {e : Nat}
    (he : e ∈ insPositions s g sr) : (q.putTile acc (inserted s g va sr)).tileElem acc (rowAt s sr e) (colAt s e) =
      (s.src.rv va).elem s.hart.lanes 32 e := by
  have hb : ∀ y ∈ inserted s g va sr, y.1 < 32 ∧ y.2.1 < 1024 := fun y hy =>
    (lt_shape_of_mem_inserted hy).imp (Nat.lt_of_lt_of_le · hm) (Nat.lt_of_lt_of_le · hn)
  have hput := tileElem_putTile_written q acc hb (List.mem_map_of_mem he) fun y hy h => by
    obtain ⟨f, -, rfl⟩ := List.mem_map.mp hy
    rw [position_unique h.1 h.2]
  exact hput.trans (Nat.mod_mod _ _)

/-- Every other element stays. -/
theorem tileElem_not_inserted (q : Regs) (acc : BitVec 2) (hn : s.hart.regs.tshn ≤ 1024) {i j : Nat} (hj : j < 1024)
    (h : ∀ e ∈ insPositions s g sr, ¬ (rowAt s sr e = i ∧ colAt s e = j)) :
    (q.putTile acc (inserted s g va sr)).tileElem acc i j = q.tileElem acc i j :=
  tileElem_putTile_unwritten q acc (fun _ hy => Nat.lt_of_lt_of_le (lt_shape_of_mem_inserted hy).2 hn) hj
    (List.forall_mem_map.mpr h)

theorem mxins_gives {acc : BitVec 2} {t : Tag} (hv : (s.src.rv va).tag = t) (ht : t = .fp32 ∨ t = .int32 ∨ t = .uint32)
    (hf : FormatsAdmitted s [t]) (hr : RegistersSound s [va]) (hl : LanesSound s 47) :
    MemberGives (.mxins g acc va sr) s (s.modRegs fun r => r.putTile acc (inserted s g va sr)) := by
  refine memberGives_of_ok (exec_mxins s g acc va sr) ?_
  have hok : (t == .fp32 || t == .int32 || t == .uint32) = true := by rcases ht with rfl | rfl | rfl <;> rfl
  dsimp only
  rw [hv, withTag_some (if_pos hok), formats_of_admitted hf, parity_of_sound hr, checkedBy_of_sound hl]
  rfl

end

/-! ## The statement -/

/-- Settles O28: the control members set their registers and nothing else; a position of the vector stands for one element of the
tile, so the rows that are read and written do not overlap. -/
theorem tileControlAndRows : Obligations.TileControlAndRows := by
  unfold Obligations.TileControlAndRows
  constructor
  · intro s sd sm sn sk sa f acc l m n k u shape x
    refine ⟨fun hf => ⟨fun hsd => ?plain, fun hsd hb => ?given⟩, fun hadm => ?zero, fun hx => ?arm, fun hx => ?illegal⟩
    case plain =>
      refine memberGives_of_ok (exec_tshape s sd sm sn sk f) ?_
      dsimp only
      rw [formats_of_admitted hf]
      exact if_pos hsd
    case given =>
      refine memberGives_of_ok (exec_tshape s sd sm sn sk f) ?_
      dsimp only
      rw [formats_of_admitted hf, if_neg hsd]
      exact memberS_of_ok hb
    case zero =>
      refine ⟨s.modRegs (zeroed acc), memberGives_of_ok (exec_mxzero s acc) rfl hadm, fun i j => ⟨tileElem_zeroed acc _ i j, fun h => ?sound⟩,
        fun b hb => ⟨tile_zeroed_other _ hb, fun i j => (mem_badAcc_zeroed _ i j).trans (and_iff_left hb)⟩, rfl, rfl, rfl⟩
      case sound =>
        obtain ⟨-, hne⟩ := (mem_badAcc_zeroed _ i j).mp h
        exact hne rfl
    case arm => exact memberGives_of_ok (exec_mxpert s sa) (if_pos (beq_iff_eq.mpr hx))
    case illegal => exact memberTraps_of_trap (exec_mxpert s sa) (if_neg (mt beq_iff_eq.mp hx))
  · intro s g vd va acc sr d int sat r q c base src a inside rounds m out x rows damaged
    refine ⟨fun hd hf hm hl => ?mxext, fun ht hf hr hl hadm hm hn _ => ?mxins⟩
    case mxext =>
      obtain ⟨body, he, hb⟩ := mxext_accepted (g := g) (vd := vd) (acc := acc) (sr := sr) (sat := sat) hd hf hm hl
      refine ⟨fun hs => memberGives_of_ok he (hb.trans (tileParity_sound _ ?sound)),
        fun hbad => memberTraps_of_trap he (hb.trans (tileParity_damaged _ ((damagedSlice_iff _).mpr hbad)))⟩
      case sound =>
        intro hbad
        obtain ⟨e, he, hde⟩ := (damagedSlice_iff _).mp hbad
        exact hs e he hde
    case mxins =>
      exact ⟨_, mxins_gives rfl ht hf hr hl hadm, fun e he => tileElem_inserted q acc hm hn he,
        fun i j _ hj h => tileElem_not_inserted q acc hn hj h, fun b hb => tile_putTile_other q acc _ hb, rfl, rfl, rfl⟩

end Sys2Proof.TileMoves

/-! The canonical form of home memory (O60): the writers of memory keep it, two memories in it that read alike are equal, and
the notions in which the later sections say that a state, a result and an outcome keep it. -/

namespace Sys2Proof.HomeMemory

open Sys2Proof.Machine

/-! ## Two canonical memories that read alike are equal -/

theorem cellRead_of_lt {z : Nat → Byte} {lo a : Nat} {m : Memory} (h : cellsWf z lo m = true) (ha : a < lo) (y : Byte) :
    cellRead y m a = y := by
  induction m generalizing lo with
  | nil => rfl
  | cons e r ih =>
    obtain ⟨b, x⟩ := e
    simp only [cellsWf, Bool.and_eq_true, decide_eq_true_eq] at h
    obtain ⟨⟨hlo, _⟩, hr⟩ := h
    rw [cellRead, if_neg (by omega)]
    exact ih hr (by omega)

/-- The first cell of a canonical memory says how it differs from a memory without that cell. -/
theorem cellRead_head_ne {z : Nat → Byte} {lo a : Nat} {b : Byte} {r m : Memory} (h : cellsWf z lo ((a, b) :: r) = true)
    (hm : cellsWf z (a + 1) m = true) : cellRead (z a) ((a, b) :: r) a ≠ cellRead (z a) m a := by
  simp only [cellsWf, Bool.and_eq_true, decide_eq_true_eq, Bool.not_eq_true', beq_eq_false_iff_ne] at h
  rw [cellRead_of_lt hm (by omega), cellRead, if_pos rfl]
  exact h.1.2

theorem cells_ext {z : Nat → Byte} {lo : Nat} {m n : Memory} (hm : cellsWf z lo m = true) (hn : cellsWf z lo n = true)
    (e : ∀ a, cellRead (z a) m a = cellRead (z a) n a) : m = n := by
  induction m generalizing lo n with
  | nil =>
    cases n with
    | nil => rfl
    | cons c t => exact absurd (e c.1).symm (cellRead_head_ne (m := []) hn rfl)
  | cons c r ih =>
    obtain ⟨a, b⟩ := c
    have hr := hm
    simp only [cellsWf, Bool.and_eq_true, decide_eq_true_eq] at hr
    obtain ⟨⟨hlo, hb⟩, hr⟩ := hr
    cases n with
    | nil => exact absurd (e a) (cellRead_head_ne (m := []) hm rfl)
    | cons d t =>
      obtain ⟨c, x⟩ := d
      have ht := hn
      simp only [cellsWf, Bool.and_eq_true, decide_eq_true_eq] at ht
      obtain ⟨⟨hlo', hx⟩, ht⟩ := ht
      rcases Nat.lt_trichotomy a c with hac | rfl | hca
      · refine absurd (e a) (cellRead_head_ne hm ?_)
        simp only [cellsWf, Bool.and_eq_true, decide_eq_true_eq]
        exact ⟨⟨hac, hx⟩, ht⟩
      · have hbx : b = x := by simpa [cellRead] using e a
        refine hbx ▸ congrArg _ (ih hr ht fun k => ?_)
        by_cases hk : k = a
        · rw [hk, cellRead_of_lt hr (by omega), cellRead_of_lt ht (by omega)]
        · simpa [cellRead, Ne.symm hk] using e k
      · refine absurd (e c).symm (cellRead_head_ne hn ?_)
        simp only [cellsWf, Bool.and_eq_true, decide_eq_true_eq]
        exact ⟨⟨hca, hb⟩, hr⟩

theorem memory_ext {m n : Memory} (hm : Memory.wf m = true) (hn : Memory.wf n = true) (e : ∀ a, m.read a = n.read a) : m = n :=
  cells_ext hm hn e

/-! ## The writers of memory -/

theorem cellsWf_filter {z : Nat → Byte} (p : Nat × Byte → Bool) {lo : Nat} {m : Memory} (h : cellsWf z lo m = true) :
    cellsWf z lo (m.filter p) = true := by
  induction m generalizing lo with
  | nil => rfl
  | cons e r ih =>
    simp only [cellsWf, Bool.and_eq_true, decide_eq_true_eq] at h
    obtain ⟨he, hr⟩ := h
    rw [List.filter_cons]
    split
    · simp only [cellsWf, Bool.and_eq_true, decide_eq_true_eq]
      exact ⟨he, ih hr⟩
    · exact cellsWf_lower (ih hr) (by omega)

theorem wf_foldl {α : Type} {f : Memory → α → Memory} (hf : ∀ m x, Memory.wf m = true → Memory.wf (f m x) = true)
    (xs : List α) {m : Memory} (h : Memory.wf m = true) : Memory.wf (xs.foldl f m) = true := by
  induction xs generalizing m with
  | nil => exact h
  | cons x xs ih => exact ih (hf m x h)

theorem wf_ringWrite {m : Memory} (h : Memory.wf m = true) (l : Log) (lid seq source : Nat) (key : Key) (b : RecBody) (now : Word) :
    Memory.wf (ringWrite m l lid seq source key b now) = true := by
  unfold ringWrite
  refine Memory.wf_writeN _ _ _ _ (Memory.wf_writeN _ _ _ _ (Memory.wf_writeN _ _ _ _ (Memory.wf_writeN _ _ _ _
    (Memory.wf_writeList _ _ _ ?_))))
  split
  · exact Memory.wf_writeList _ _ _ h
  · exact h

theorem wf_setRow {m : Memory} (h : Memory.wf m = true) (stk f : Nat) (x : Row) : Memory.wf (m.setRow stk f x) = true :=
  Memory.wf_writeN _ _ _ _ h

theorem wf_storeElem {m : Memory} (h : Memory.wf m = true) (at_ : Nat → Nat) (w e v : Nat) :
    Memory.wf (storeElem m at_ w e v) = true := by
  unfold storeElem
  split
  · exact Memory.wf_write _ _ _ h
  · exact wf_foldl (fun _ _ h => Memory.wf_write _ _ _ h) _ h

/-! ## What keeps the canonical form -/

/-- Home memory of a state is in its canonical form. -/
abbrev Canon (s : State) : Prop := Memory.wf s.mem = true

/-- A result that leaves only what has `P`, and only canonical states where it faults. -/
def Leaves {α : Type} (P : α → Prop) : Res α → Prop
  | .ok a | .late a _ | .wait a _ => P a
  | .fault s _ _ => Canon s
  | .trap _ _ => True

/-- An outcome whose next state, if it has one, is canonical. -/
def NextCanon : Host.Outcome State Fault Refusal → Prop
  | .next t => Canon t
  | _ => True

@[simp] theorem leaves_ok {α : Type} {P : α → Prop} {a : α} : Leaves P (.ok a) ↔ P a := Iff.rfl
@[simp] theorem leaves_late {α : Type} {P : α → Prop} {a : α} {x : Word} : Leaves P (.late a x) ↔ P a := Iff.rfl
@[simp] theorem leaves_wait {α : Type} {P : α → Prop} {a : α} {p : Phase} : Leaves P (.wait a p) ↔ P a := Iff.rfl
@[simp] theorem leaves_fault {α : Type} {P : α → Prop} {s : State} {c : Nat} {v : Word} :
    Leaves P (.fault s c v : Res α) ↔ Canon s := Iff.rfl
@[simp] theorem leaves_trap {α : Type} {P : α → Prop} {c : Nat} {v : Word} : Leaves P (.trap c v : Res α) := trivial

@[simp] theorem nextCanon_next {t : State} : NextCanon (.next t) ↔ Canon t := Iff.rfl

theorem canon_of_mem {s t : State} (e : t.mem = s.mem) (h : Canon s) : Canon t := (congrArg Memory.wf e).trans h

theorem canon_ite {p : Prop} [Decidable p] {a b : State} (ha : Canon a) (hb : Canon b) : Canon (if p then a else b) := by
  split <;> assumption

theorem leaves_ite {α : Type} {P : α → Prop} {p : Prop} [Decidable p] {a b : Res α} (ha : Leaves P a) (hb : Leaves P b) :
    Leaves P (if p then a else b) := by
  split <;> assumption

theorem foldl_canon {α : Type} {f : State → α → State} (hf : ∀ s x, Canon s → Canon (f s x)) (xs : List α) {s : State}
    (h : Canon s) : Canon (xs.foldl f s) := by
  induction xs generalizing s with
  | nil => exact h
  | cons x xs ih => exact ih (hf s x h)

theorem andThen_leaves {α β : Type} {P : α → Prop} {Q : β → Prop} {r : Res α} {hold : α → β} {f : α → Res β} (hr : Leaves P r)
    (hh : ∀ a, P a → Q (hold a)) (hf : ∀ a, P a → Leaves Q (f a)) : Leaves Q (r.andThen hold f) := by
  cases r with
  | ok a => exact hf a hr
  | trap c v => trivial
  | fault s c v => exact hr
  | late a x => exact hh a hr
  | wait a p => exact hh a hr

theorem then_leaves {α : Type} {P : α → Prop} {r : Res α} {f : α → Res α} (hr : Leaves P r) (hf : ∀ a, P a → Leaves P (f a)) :
    Leaves P (r.then f) :=
  andThen_leaves hr (fun _ h => h) hf

theorem check_leaves {α : Type} {P : α → Prop} {c : Bool} {n : Nat} {v : Word} {k : Res α} (hk : Leaves P k) :
    Leaves P (check c n v k) :=
  leaves_ite hk trivial

theorem keepWalks_leaves {α : Type} {P : α → Prop} {s : State} {r : Res α} (hs : Canon s) (hr : Leaves P r) :
    Leaves P (r.keepWalks s) := by
  cases r with
  | trap c v => exact hs
  | ok _ | fault _ _ _ | late _ _ | wait _ _ => exact hr

theorem rephase_leaves {α : Type} {P : α → Prop} {p : Phase} {r : Res α} (hr : Leaves P r) : Leaves P (r.rephase p) := by
  cases r <;> exact hr

theorem ifUnit_canon {c : Bool} {s : State} (h : Canon s) : NextCanon (ifUnit c s) := by
  unfold ifUnit
  split
  · exact h
  · trivial

end Sys2Proof.HomeMemory

/-! Frames of memory: what the operations of the model that never write home memory leave of it. -/

namespace Sys2Proof.HomeMemory

open Sys2Proof.Machine

@[simp] theorem ite_mem (p : Prop) [Decidable p] (a b : State) :
    (if p then a else b).mem = if p then a.mem else b.mem := apply_ite State.mem p a b

/-- A fold keeps what each of its steps keeps. -/
theorem foldl_keeps {α β γ : Type} (m : β → γ) {f : β → α → β} (hf : ∀ b x, m (f b x) = m b) (xs : List α) (b : β) :
    m (xs.foldl f b) = m b := by
  induction xs generalizing b with
  | nil => rfl
  | cons x xs ih => exact (ih _).trans (hf b x)

theorem foldl_mem {α : Type} {f : State → α → State} (hf : ∀ s x, (f s x).mem = s.mem) (xs : List α) (s : State) :
    (xs.foldl f s).mem = s.mem :=
  foldl_keeps State.mem hf xs s

theorem getD_mem {o : Option State} {s : State} {m : Memory} (ho : ∀ t, o = some t → t.mem = m) (hs : s.mem = m) :
    (o.getD s).mem = m := by
  cases o with
  | none => exact hs
  | some t => exact ho t rfl

@[simp] theorem modCtx_mem (s : State) (k : Nat) (f : Hart → Hart) : (s.modCtx k f).mem = s.mem := by simp [State.modCtx]
@[simp] theorem select_mem (s : State) (k : Nat) : (s.select k).mem = s.mem := by
  unfold State.select
  split
  · simp
  · split <;> simp
@[simp] theorem free_mem (s : State) : s.free.2.mem = s.mem := rfl
@[simp] theorem countCore_mem (s : State) (g i : Nat) : (s.countCore g i).mem = s.mem := by simp [State.countCore]
@[simp] theorem pfb_mem (s : State) (k ty agent slot lg hart : Nat) (a b : Word) :
    (s.pfb k ty agent slot lg hart a b).mem = s.mem := by
  simp [State.pfb]
@[simp] theorem pfbHart_mem (s : State) (h : Hart) (ty : Nat) (a b : Word) : (s.pfbHart h ty a b).mem = s.mem := by
  simp [State.pfbHart]
@[simp] theorem signal_mem (s : State) (c : Hart → Bool) : (s.signal c).mem = s.mem := rfl
@[simp] theorem freeze_mem (s : State) (k cause detail : Nat) (tell : Bool) : (s.freeze k cause detail tell).mem = s.mem := by
  simp [State.freeze]
@[simp] theorem freezeAll_mem (s : State) (k cause detail : Nat) : (s.freezeAll k cause detail).mem = s.mem := by
  simp [State.freezeAll]
@[simp] theorem cacheRead_mem (s : State) (sec : Nat) : (s.cacheRead sec).mem = s.mem := rfl
@[simp] theorem readHome_mem (s : State) (secs : List Nat) : (s.readHome secs).mem = s.mem := by
  unfold State.readHome
  exact foldl_mem (fun _ _ => by simp) _ _
@[simp] theorem cacheWrite_mem (s : State) (sec : Nat) : (s.cacheWrite sec).mem = s.mem := rfl
@[simp] theorem cacheWritten_mem (s : State) (a n : Nat) : (s.cacheWritten a n).mem = s.mem := by
  unfold State.cacheWritten
  exact foldl_mem (fun _ _ => by simp) _ _
@[simp] theorem setWalks_mem (s : State) (g : Nat) (w : Walks) : (s.setWalks g w).mem = s.mem := by
  unfold State.setWalks
  exact foldl_mem (fun _ _ => by simp) _ _
@[simp] theorem setTlb_mem (s : State) (w : Walks) : (s.setTlb w).mem = s.mem := by simp [State.setTlb]
@[simp] theorem refreshAll_mem (s : State) (g : Nat) (k : Key) : (s.refreshAll g k).mem = s.mem := rfl
@[simp] theorem deferFull_mem (s : State) (stk : Nat) : (s.deferFull stk).mem = s.mem := by simp [State.deferFull]
@[simp] theorem hold_mem (s : State) (stk : Nat) (d : DEntry) : (s.hold stk d).mem = s.mem := by simp [State.hold]
@[simp] theorem holdLoad_mem (s : State) (sec : Nat) : (s.holdLoad sec).mem = s.mem := by simp [State.holdLoad]
@[simp] theorem countView_mem (s : State) (key : Nat) (hit : Bool) : (s.countView key hit).mem = s.mem := by
  simp [State.countView]
@[simp] theorem fill_mem (s : State) (g sec : Nat) (res : Bool) : (s.fill g sec res).mem = s.mem := by simp [State.fill]
@[simp] theorem repay_mem (s : State) (sec : Nat) : (s.repay sec).mem = s.mem := by simp [State.repay]
@[simp] theorem fetchAhead_mem (s : State) (g : Nat) (a : Ahead) : (s.fetchAhead g a).mem = s.mem := by
  unfold State.fetchAhead
  dsimp only
  repeat' split
  all_goals simp
@[simp] theorem fetchLater_mem (s : State) (g : Nat) : (s.fetchLater g).mem = s.mem := by
  unfold State.fetchLater
  exact foldl_mem (fun _ _ => by simp) _ _
@[simp] theorem raiseFloor_mem (s : State) (k : Key) : (s.raiseFloor k).mem = s.mem := rfl
@[simp] theorem modConn_mem (s : State) (peer : Nat) (f : Conn → Conn) : (s.modConn peer f).mem = s.mem := rfl
@[simp] theorem sendFrame_mem (s : State) (peer : Nat) (bs : List Byte) : (s.sendFrame peer bs).mem = s.mem := rfl
@[simp] theorem sendPacket_mem (s : State) (path : Nat) (p : Packet) : (s.sendPacket path p).mem = s.mem := by
  simp [State.sendPacket]
@[simp] theorem modPast_mem (s : State) (l : Nat) (f : Past → Past) : (s.modPast l f).mem = s.mem := rfl
@[simp] theorem freeLog_mem (s : State) (k : Nat) : (s.freeLog k).mem = s.mem := by simp [State.freeLog]
@[simp] theorem fold_mem (s : State) : s.fold.mem = s.mem := rfl
@[simp] theorem takeKey_mem (s : State) : s.takeKey.mem = s.mem := by simp [State.takeKey]
@[simp] theorem notePublication_mem (s : State) (k : Key) : (s.notePublication k).mem = s.mem := by
  simp [State.notePublication]
@[simp] theorem deliver_mem (s : State) (es : List (Nat × MEntry)) : (s.deliver es).mem = s.mem := by
  unfold State.deliver
  exact foldl_mem (fun _ _ => by simp) _ _
@[simp] theorem publishRecords_mem (s : State) (l : Nat) (k : Key) (st : List (Nat × BitVec 64 × BitVec 512)) :
    (s.publishRecords l k st).mem = s.mem := by
  simp [State.publishRecords]
@[simp] theorem takeSourceKey_mem (s : State) (stk agent sub : Nat) : (s.takeSourceKey stk agent sub).mem = s.mem := rfl
@[simp] theorem dropPassed_mem (s : State) (g : Nat) : (s.dropPassed g).mem = s.mem := rfl
@[simp] theorem regrant_mem (s : State) (k : Nat) (g : BitVec 16) : (s.regrant k g).mem = s.mem := by
  unfold State.regrant
  split <;> simp

@[simp] theorem checkGrant_mem (s : State) (g : Nat) : (s.checkGrant g).mem = s.mem := by
  unfold State.checkGrant
  dsimp only
  split
  · rfl
  · refine (foldl_mem (fun _ _ => modCtx_mem ..) _ _).trans ((foldl_mem (fun s h => ?_) _ _).trans (foldl_mem (fun s h => ?_) _ _))
    · split <;> simp
    · split <;> simp

@[simp] theorem signalGang_mem (s : State) (g : Nat) : (s.signalGang g).mem = s.mem := rfl
@[simp] theorem checkBarrier_mem (s : State) (g : Nat) : (s.checkBarrier g).mem = s.mem := by simp [State.checkBarrier]

@[simp] theorem leaveGang_mem (s : State) (h : Hart) : (s.leaveGang h).mem = s.mem := by
  unfold State.leaveGang
  rw [checkGrant_mem, checkBarrier_mem, ite_mem, signalGang_mem, ite_self, State.modGang_mem]

@[simp] theorem endGang_mem (s : State) (stk g : Nat) (tear : Bool) (launch : Option (Nat × Nat)) :
    (s.endGang stk g tear launch).mem = s.mem := rfl
@[simp] theorem dropChunk_mem (s : State) (serial j : Nat) : (s.dropChunk serial j).mem = s.mem := rfl
@[simp] theorem cutCopy_mem (s : State) (g : Nat) (c : CopyCmd) : (s.cutCopy g c).mem = s.mem := by
  unfold State.cutCopy
  exact foldl_mem (fun _ _ => by simp) _ _
@[simp] theorem abortCopy_mem (s : State) (g : Nat) (c : CopyCmd) : (s.abortCopy g c).mem = s.mem := by simp [State.abortCopy]
@[simp] theorem abortCopies_mem (s : State) (g : Nat) (c : CopyCmd → Bool) : (s.abortCopies g c).mem = s.mem := by
  unfold State.abortCopies
  exact foldl_mem (fun _ _ => by simp) _ _

@[simp] theorem discard_mem (s : State) (h : Hart) : (s.discard h).mem = s.mem := by
  unfold State.discard
  rw [ite_mem, State.count_mem, pfb_mem, State.modLog_mem, ite_self]

@[simp] theorem sweepLaunch_mem (s : State) (home idx : Nat) : (s.sweepLaunch home idx).mem = s.mem := rfl
@[simp] theorem modLaunch_mem (s : State) (h : Hart) (home memb : Launch → Launch) : (s.modLaunch h home memb).mem = s.mem := by
  simp [State.modLaunch]
@[simp] theorem unbind_mem (s : State) (h : Hart) (held : Bool) : (s.unbind h held).mem = s.mem := rfl
@[simp] theorem freeLanes_mem (s : State) (h : Hart) : (s.freeLanes h).mem = s.mem := by simp [State.freeLanes]
@[simp] theorem dropCtx_mem (s : State) (k : Nat) : (s.dropCtx k).mem = s.mem := by simp [State.dropCtx]
@[simp] theorem askPreempt_mem (s : State) (h : Nat) (replace : Bool) : (s.askPreempt h replace).mem = s.mem := by
  unfold State.askPreempt
  split <;> rfl
@[simp] theorem park_mem (s : State) (p : Phase) : (s.park p).mem = s.mem := by
  unfold State.park
  split <;> simp
@[simp] theorem memberDone_mem (s : State) : s.memberDone.mem = s.mem := rfl
@[simp] theorem effect_mem (s : State) (e : Effect) : (s.effect e).mem = s.mem := rfl
@[simp] theorem raise_mem (s : State) (f : BitVec 6) : (s.raise f).mem = s.mem := rfl
@[simp] theorem memberLate_mem (s : State) (sd : SReg) (x : Word) : (s.memberLate sd x).mem = s.mem := rfl
@[simp] theorem fenceEvent_mem (s : State) (stk agent slot lg hart src core : Nat) (bits : Word) :
    (s.fenceEvent stk agent slot lg hart src core bits).mem = s.mem := by
  simp [State.fenceEvent]
@[simp] theorem clearCaps_mem (s : State) (g : Nat) (bits : Word) : (s.clearCaps g bits).mem = s.mem := rfl
@[simp] theorem writeCapmask_mem (s : State) (stk g : Nat) (v : Word) : (s.writeCapmask stk g v).mem = s.mem := by
  simp [State.writeCapmask]
@[simp] theorem writeFwCapmask_mem (s : State) (stk g : Nat) (v : Word) : (s.writeFwCapmask stk g v).mem = s.mem := by
  simp [State.writeFwCapmask]
@[simp] theorem releaseHalts_mem (s : State) (g : Nat) (v : Word) : (s.releaseHalts g v).mem = s.mem := rfl
@[simp] theorem stackInvalidate_mem (s : State) (stk : Nat) (v : Word) : (s.stackInvalidate stk v).mem = s.mem := rfl
@[simp] theorem bindChannel_mem (s : State) (stk n : Nat) (v : Word) : (s.bindChannel stk n v).mem = s.mem := by
  simp [State.bindChannel]
@[simp] theorem writeKwk_mem (s : State) (stk w : Nat) (v : Word) : (s.writeKwk stk w v).mem = s.mem := rfl
@[simp] theorem writeVAny_mem (s : State) (any : Bool) (g : Gov) (vd : VReg) (t : Tag) (xs : List (Nat × Nat)) (scale : VRegS → BitVec 4096) :
    (s.writeVAny any g vd t xs scale).mem = s.mem := by
  simp [State.writeVAny]
@[simp] theorem writeV_mem (s : State) (g : Gov) (vd : VReg) (t : Tag) (xs : List (Nat × Nat)) (scale : VRegS → BitVec 4096) :
    (s.writeV g vd t xs scale).mem = s.mem := by
  simp [State.writeV]
@[simp] theorem writeP_mem (s : State) (g : Gov) (pd : PReg) (xs : List (Nat × Bool)) : (s.writeP g pd xs).mem = s.mem := by
  simp [State.writeP]
@[simp] theorem suspectReport_mem (s : State) (g : Nat) (failed : Word) : (s.suspectReport g failed).mem = s.mem := by
  simp [State.suspectReport]
@[simp] theorem spend_mem (s : State) (ds : List Defect) : (s.spend ds).mem = s.mem := rfl
@[simp] theorem recordFaults_mem (s : State) (ds : List Defect) : (s.recordFaults ds).mem = s.mem := rfl

@[simp] theorem loseChecks_mem (s : State) (cls : Nat) (lanes : List Nat) : (s.loseChecks cls lanes).1.mem = s.mem := by
  unfold State.loseChecks
  refine foldl_keeps (fun r : State × List Nat => r.1.mem) (fun r c => ?_) _ _
  dsimp only
  split
  · rfl
  · split <;> simp

@[simp] theorem reply_mem (s : State) (stk req idx : Nat) (x : Word) : (s.reply stk req idx x).mem = s.mem := by
  unfold State.reply
  split <;> simp
@[simp] theorem sendHome_mem (s : State) (els : List HomeEl) : (s.sendHome els).mem = s.mem := by simp [State.sendHome]
@[simp] theorem btovWrite_mem (s : State) (vd : VReg) (t : Tag) : (s.btovWrite vd t).mem = s.mem := by simp [State.btovWrite]
@[simp] theorem enqueueBank_mem (s : State) (c : BankCmd) (kept : Bool) : (s.enqueueBank c kept).mem = s.mem := rfl
@[simp] theorem bankGrant_mem (s : State) (c : BankCmd) : (s.bankGrant c).mem = s.mem := rfl
@[simp] theorem announceRelease_mem (s : State) (c : BankCmd) : (s.announceRelease c).mem = s.mem := by
  unfold State.announceRelease
  split <;> rfl

@[simp] theorem sendRead_mem (s : State) (r : Reader) (bs : List Byte) (bad : Bool) : (s.sendRead r bs bad).mem = s.mem := by
  cases r with
  | port p => rfl
  | far path serial chunk =>
    simp only [State.sendRead]
    split
    · exact sendPacket_mem ..
    · exact foldl_mem (fun _ _ => sendPacket_mem ..) _ _

@[simp] theorem answerRead_mem (s : State) (r : Reader) (pa n : Nat) : (s.answerRead r pa n).mem = s.mem :=
  (sendRead_mem ..).trans (readHome_mem ..)

@[simp] theorem gather_mem (s : State) (id sec : Nat) (data : BitVec 512) (bad : Bool) : (s.gather id sec data bad).mem = s.mem := by
  unfold State.gather
  split
  · rfl
  · dsimp only
    split
    · exact sendRead_mem ..
    · rfl

@[simp] theorem sendSector_mem (s : State) (stk id sec : Nat) (data : BitVec 512) (bad : Bool) :
    (s.sendSector stk id sec data bad).mem = s.mem := by
  unfold State.sendSector
  split
  · rfl
  · rw [ite_mem, gather_mem, keepArrival_mem, ite_self]

@[simp] theorem readSector_mem (s : State) (id sec : Nat) : (s.readSector id sec).mem = s.mem :=
  (sendSector_mem ..).trans (readHome_mem ..)

@[simp] theorem askSector_mem (s : State) (id sec : Nat) : (s.askSector id sec).mem = s.mem := by
  unfold State.askSector
  split
  · rfl
  · rw [ite_mem, hold_mem, readSector_mem, ite_self]

@[simp] theorem outsideRead_mem (s : State) (r : Reader) (pa n : Nat) : (s.outsideRead r pa n).mem = s.mem := by
  unfold State.outsideRead
  dsimp only
  split
  · exact answerRead_mem ..
  · refine foldl_mem (fun s sec => ?_) _ _
    rw [ite_mem, askSector_mem, deliver_mem, ite_self]

@[simp] theorem keyChunk_mem (s : State) (serial j : Nat) : (s.keyChunk serial j).mem = s.mem := by
  unfold State.keyChunk
  split
  · simp
  · split <;> simp
@[simp] theorem keyChunks_mem (s : State) : s.keyChunks.mem = s.mem := by
  unfold State.keyChunks
  exact foldl_mem (fun _ _ => by simp) _ _
@[simp] theorem markApplied_mem (s : State) (l q : Nat) : (s.markApplied l q).mem = s.mem := by simp [State.markApplied]
@[simp] theorem damage_mem (s : State) (stk l q : Nat) : (s.damage stk l q).mem = s.mem := by
  unfold State.damage
  simp [foldl_mem]
@[simp] theorem bankStatus_mem (s : State) (l : Nat) (f : BitVec 6) : (s.bankStatus l f).mem = s.mem := by
  simp [State.bankStatus]
@[simp] theorem markWritten_mem (s : State) (stk gang f : Nat) : (s.markWritten stk gang f).mem = s.mem := rfl
@[simp] theorem tear_mem (s : State) (stk gang log : Nat) (fs : List Nat) : (s.tear stk gang log fs).mem = s.mem := by
  simp [State.tear]
@[simp] theorem dropRows_mem (s : State) (stk gang : Nat) (fs : List Nat) : (s.dropRows stk gang fs).mem = s.mem := rfl
@[simp] theorem groupStatus_mem (s : State) (c : BankCmd) (f : BitVec 6) : (s.groupStatus c f).mem = s.mem := by
  simp [State.groupStatus]
@[simp] theorem sealGroup_mem (c : BankCmd) (s : State) (i : Nat) : (s.sealGroup c i).mem = s.mem := rfl
@[simp] theorem finishBank_mem (s : State) (c : BankCmd) (f : BitVec 6) (xs : List Word) :
    (s.finishBank c f xs).mem = s.mem := by
  unfold State.finishBank
  split <;> simp

@[simp] theorem retireGroup_mem (s : State) (stk g : Nat) : (s.retireGroup stk g).mem = s.mem := by
  unfold State.retireGroup
  refine (foldl_mem (fun s e => ?_) _ _).trans ?_
  · rw [State.modGang_mem, State.modStack_mem]
  · rw [State.count_mem, pfb_mem, State.modStack_mem]

@[simp] theorem checkFails_mem (c : BankCmd) (first : Nat) (s : State) (g : Nat) : (s.checkFails c first g).mem = s.mem := by
  unfold State.checkFails
  rw [ite_mem, retireGroup_mem, ite_self, State.modStack_mem, State.count_mem, pfb_mem, bankStatus_mem, tear_mem]

@[simp] theorem checkBank_mem (s : State) (c : BankCmd) (bad : List Nat) : (s.checkBank c bad).mem = s.mem := by
  unfold State.checkBank
  exact foldl_mem (fun _ _ => checkFails_mem ..) _ _

@[simp] theorem takeBankKey_mem (s : State) (stk : Nat) : (s.takeBankKey stk).mem = s.mem := rfl
@[simp] theorem fillView_mem (s : State) (core sec : Nat) : (s.fillView core sec).mem = s.mem := by simp [State.fillView]

@[simp] theorem serveRead_mem (s : State) (d : DEntry) : (s.serveRead d).mem = s.mem := by
  cases d with
  | entry _ => rfl
  | read id sec _ => exact readSector_mem ..
  | load core ctx sec _ => exact (modCtx_mem ..).trans (fillView_mem ..)
  | prefetch core sec _ => exact fillView_mem ..
  | copyRead core serial _ sec _ =>
    simp only [State.serveRead]
    split <;> simp

@[simp] theorem drainBacklog_mem (s : State) (stk : Nat) : (s.drainBacklog stk).mem = s.mem := by
  unfold State.drainBacklog
  refine foldl_mem (fun s d => ?_) _ _
  split
  · exact serveRead_mem ..
  · split <;> simp

@[simp] theorem hangChannel_mem (s : State) (stk die : Nat) : (s.hangChannel stk die).mem = s.mem := rfl
@[simp] theorem modBlock_mem (s : State) (c : CopyCmd) (f : CopyStatus → CopyStatus) : (s.modBlock c f).mem = s.mem := by
  simp [State.modBlock]
@[simp] theorem modCopy_mem (s : State) (g serial : Nat) (f : CopyCmd → CopyCmd) : (s.modCopy g serial f).mem = s.mem := rfl
@[simp] theorem endCopy_mem (s : State) (g : Nat) (c : CopyCmd) (st : Nat) (f : BitVec 6) (va : Option Word) :
    (s.endCopy g c st f va).mem = s.mem := by
  simp [State.endCopy]
@[simp] theorem resolve_mem (s : State) (g : Nat) (c : CopyCmd) (j n : Nat) : (s.resolve g c j n).mem = s.mem := by
  unfold State.resolve
  dsimp only
  split <;> simp
@[simp] theorem noteChunk_mem (s : State) (c : CopyCmd) (j : Nat) (k : Key) : (s.noteChunk c j k).mem = s.mem := by
  simp [State.noteChunk]
@[simp] theorem copyAddr_mem (s : State) (g : Nat) (c : CopyCmd) (k : Access) (a : Nat) :
    (s.copyAddr g c k a).2.mem = s.mem := by
  simp [State.copyAddr]

@[simp] theorem copyPages_mem (s : State) (g : Nat) (c : CopyCmd) (k : Access) (a n : Nat) :
    (s.copyPages g c k a n).2.mem = s.mem := by
  unfold State.copyPages
  refine foldl_keeps (fun r : Except (MemFault × Nat) (List (Nat × Nat × Nat)) × State => r.2.mem) (fun r x => ?_) _ _
  split
  · rfl
  · dsimp only
    split <;> exact copyAddr_mem ..

/-- Memory after a part of a chunk that does not wait. -/
def ChunkMem {α : Type} (m : Memory) : Chunk α → Prop
  | .ok _ t | .stop _ _ t => t.mem = m
  | .wait _ => True

theorem copyStop_mem {α : Type} (f : MemFault) (dom : Bool) (va : Nat) (s : State) :
    ChunkMem s.mem (copyStop f dom va s : Chunk α) := by
  cases f <;> simp [copyStop, ChunkMem]

theorem copyRead_mem (s : State) (g : Nat) (c : CopyCmd) (a n : Nat) : ChunkMem s.mem (s.copyRead g c a n) := by
  have hp := copyPages_mem s g c .read a n
  unfold State.copyRead
  split
  · next e => rw [e] at hp; exact hp ▸ copyStop_mem ..
  · next e =>
    rw [e] at hp
    dsimp only
    split
    · trivial
    · split
      · exact hp ▸ copyStop_mem ..
      · exact (foldl_mem (fun _ _ => cacheRead_mem ..) _ _).trans hp

theorem copyPlace_mem (s : State) (g : Nat) (c : CopyCmd) (dom : Bool) (a : Nat) (bs : List Byte)
    (r : List (Nat × BitVec 64 × BitVec 512)) : ChunkMem s.mem (s.copyPlace g c dom a bs r) := by
  have hp := copyPages_mem s g c .write a bs.length
  unfold State.copyPlace
  split
  · next e => rw [e] at hp; exact hp ▸ copyStop_mem ..
  · next e => rw [e] at hp; exact hp

theorem copyParts_mem (s : State) (g : Nat) (c : CopyCmd) (ps : List (Nat × Nat × Nat)) (r : List (Nat × BitVec 64 × BitVec 512)) :
    ChunkMem s.mem (s.copyParts g c ps r) := by
  induction ps generalizing s r with
  | nil => rfl
  | cons p ps ih =>
    obtain ⟨a, d, n⟩ := p
    have hr := copyRead_mem s g c a n
    unfold State.copyParts
    split
    · trivial
    · next e => rw [e] at hr; exact hr
    · next bs t e =>
      rw [e] at hr
      have hw := copyPlace_mem t g c false d bs r
      split
      · trivial
      · next e => rw [e] at hw; exact Eq.trans hw hr
      · next r u e =>
        rw [e] at hw
        exact (Eq.trans hw hr) ▸ ih u r

@[simp] theorem sendChunk_mem (s : State) (g : Nat) (c : CopyCmd) (j : Nat) (r : List (Nat × BitVec 64 × BitVec 512)) :
    (s.sendChunk g c j r).mem = s.mem := by
  simp [State.sendChunk]
@[simp] theorem stopCopy_mem (s : State) (g : Nat) (c : CopyCmd) (j : Nat) (f : BitVec 6) (va : Option Word) :
    (s.stopCopy g c j f va).mem = s.mem := by
  simp [State.stopCopy]
@[simp] theorem startCopy_mem (s : State) (g : Nat) (c : CopyCmd) : (s.startCopy g c).mem = s.mem := by
  unfold State.startCopy
  simp [foldl_mem]
@[simp] theorem beginChunk_mem (s : State) (g : Nat) (c : CopyCmd) (j : Nat) : (s.beginChunk g c j).mem = s.mem := by
  simp [State.beginChunk]
@[simp] theorem setKeySlot_mem (s : State) (stk n : Nat) (f : KeySlot → KeySlot) : (s.setKeySlot stk n f).mem = s.mem := rfl
@[simp] theorem clearKeySlot_mem (s : State) (stk n : Nat) : (s.clearKeySlot stk n).mem = s.mem := rfl
@[simp] theorem modWalker_mem (s : State) (stk w : Nat) (f : Walker → Walker) : (s.modWalker stk w f).mem = s.mem := rfl
@[simp] theorem modMember_mem (s : State) (stk home idx : Nat) (f : Launch → Launch) :
    (s.modMember stk home idx f).mem = s.mem := by
  simp [State.modMember]
@[simp] theorem modHome_mem (s : State) (home idx : Nat) (f : Launch → Launch) : (s.modHome home idx f).mem = s.mem := rfl
@[simp] theorem newInstance_mem (s : State) (stk w home idx first stop : Nat) (serial : BitVec 16) (counted : Bool) :
    (s.newInstance stk w home idx first stop serial counted).mem = s.mem := by
  simp [State.newInstance]
@[simp] theorem takeSerial_mem (s : State) (home idx : Nat) : (s.takeSerial home idx).2.mem = s.mem := rfl
@[simp] theorem modHolds_mem (s : State) (stk home idx : Nat) (k : Key) (f : Nat → Nat) :
    (s.modHolds stk home idx k f).mem = s.mem := rfl
@[simp] theorem dropTile_mem (s : State) : s.dropTile.mem = s.mem := by
  unfold State.dropTile
  dsimp only
  repeat' split
  all_goals simp
@[simp] theorem advanceCounter_mem (s : State) (stk c : Nat) (n : Word) (k : Key) :
    (s.advanceCounter stk c n k).mem = s.mem := rfl
@[simp] theorem enterLaunch_mem (s : State) (stk idx : Nat) (ws : List Word) (k : Key) (dom : BitVec 6) :
    (s.enterLaunch stk idx ws k dom).mem = s.mem := rfl

theorem holdEntry_mem {s t : State} {stk home idx : Nat} (e : s.holdEntry stk home idx = some t) : t.mem = s.mem := by
  unfold State.holdEntry at e
  split at e
  · exact Option.some.inj e ▸ rfl
  · split at e
    · exact nomatch e
    · exact Option.some.inj e ▸ rfl

theorem makePiece_mem {s t : State} {home idx : Nat} {p : Nat × Nat × Nat} (e : s.makePiece home idx p = some t) : t.mem = s.mem := by
  unfold State.makePiece at e
  split at e
  · next he =>
    rw [Option.ite_none_right_eq_some] at he
    exact Option.some.inj e ▸ (newInstance_mem ..).trans ((takeSerial_mem ..).trans (holdEntry_mem he.2))
  · exact nomatch e

@[simp] theorem makePieces_mem (s : State) (home idx : Nat) (ps : List (Nat × Nat × Nat)) : (s.makePieces home idx ps).mem = s.mem := by
  unfold State.makePieces
  refine foldl_keeps (fun r : State × List (Nat × Nat × Nat) => r.1.mem) (fun r p => ?_) _ _
  split
  · next e => exact makePiece_mem e
  · rfl

@[simp] theorem takeServiceKey_mem (s : State) (stk : Nat) : (s.takeServiceKey stk).mem = s.mem := rfl
@[simp] theorem addCtx_mem (s : State) (h : Hart) : (s.addCtx h).mem = s.mem := by simp [State.addCtx]
@[simp] theorem restoreInstance_mem (s : State) (stk n : Nat) : (s.restoreInstance stk n).mem = s.mem := by
  unfold State.restoreInstance
  split <;> rfl
@[simp] theorem clearDomainKeys_mem (s : State) (d : Nat) : (s.clearDomainKeys d).mem = s.mem := by
  unfold State.clearDomainKeys
  exact foldl_mem (fun _ _ => by simp) _ _
@[simp] theorem setTdi_mem (s : State) (d : Nat) (x : TdiState) : (s.setTdi d x).mem = s.mem := by simp [State.setTdi]
@[simp] theorem takePortKey_mem (s : State) (p : Nat) : (s.takePortKey p).2.mem = s.mem := rfl
@[simp] theorem ringDoorbells_mem (s : State) (p : Nat) (k : Key) (bs : List (Nat × Byte)) :
    (s.ringDoorbells p k bs).mem = s.mem := rfl
@[simp] theorem publishWrite_mem (s : State) (p : Nat) (bs : List (Nat × Byte)) : (s.publishWrite p bs).mem = s.mem := by
  simp [State.publishWrite]
@[simp] theorem portWrite_mem (s : State) (p d pa : Nat) (bytes : List Byte) : (s.portWrite p d pa bytes).mem = s.mem := by
  unfold State.portWrite
  split <;> simp
@[simp] theorem modChan_mem (s : State) (stk ch : Nat) (f : Chan → Chan) : (s.modChan stk ch f).mem = s.mem := rfl
@[simp] theorem channelWrite_mem (s : State) (stk : Nat) (bs : List (Nat × Byte)) : (s.channelWrite stk bs).mem = s.mem := by
  simp [State.channelWrite]
@[simp] theorem readDown_mem (s : State) (stk ch : Nat) : (s.readDown stk ch).mem = s.mem := by
  unfold State.readDown
  split <;> simp
@[simp] theorem consume_mem (s : State) (stk ch : Nat) (c : ChanView) (m : Nat) : (s.consume stk ch c m).mem = s.mem := by
  simp [State.consume]
@[simp] theorem queueUp_mem (s : State) (stk ch : Nat) (m : List Byte) : (s.queueUp stk ch m).mem = s.mem := rfl
@[simp] theorem failDown_mem (s : State) (stk ch : Nat) (c : ChanView) (m q reason : Nat) :
    (s.failDown stk ch c m q reason).mem = s.mem := by
  simp [State.failDown]
@[simp] theorem farPut_mem (s : State) (stk : Nat) (path : Nat) (src : Nat × Nat) (add : Bool) (bs : List (Nat × Byte)) :
    (s.farPut stk path src add bs).2.mem = s.mem := by
  simp [State.farPut]
@[simp] theorem takePut_mem (s : State) (stk path serial chunk : Nat) (add : Bool) (bs : List (Nat × Byte)) :
    (s.takePut stk path serial chunk add bs).mem = s.mem := by
  simp [State.takePut]
@[simp] theorem arrivePut_mem (s : State) (stk path serial chunk : Nat) (add : Bool) (bs : List (Nat × Byte)) :
    (s.arrivePut stk path serial chunk add bs).mem = s.mem := by
  simp [State.arrivePut]

theorem remoteAnswer_mem {s t : State} {serial j : Nat} {flag : Option (BitVec 6)} {bytes : List Byte}
    (e : s.remoteAnswer serial j flag bytes = some t) : t.mem = s.mem := by
  unfold State.remoteAnswer at e
  split at e
  · exact Option.some.inj e ▸ rfl
  · next g c _ =>
    split at e
    · exact Option.some.inj e ▸ rfl
    · dsimp only at e
      split at e
      · exact nomatch e
      split at e
      · exact Option.some.inj e ▸ rfl
      split at e
      · exact Option.some.inj e ▸ stopCopy_mem ..
      split at e
      · split at e
        · exact Option.some.inj e ▸ rfl
        · next f _ _ _ _ _ _ =>
          have hp := copyPlace_mem s g c false (c.dst.toNat + j * c.size)
            ((f.data ++ bytes).take (Nat.min c.size (c.len.toNat - j * c.size))) []
          split at e
          · next q => rw [q] at hp; exact Option.some.inj e ▸ (sendChunk_mem ..).trans hp
          · next q => rw [q] at hp; exact Option.some.inj e ▸ (stopCopy_mem ..).trans hp
          · exact nomatch e
      · exact Option.some.inj e ▸ by simp

@[simp] theorem arriveAnswer_mem (s : State) (stk serial chunk : Nat) (flag : Option (BitVec 6)) (bytes : List Byte) :
    (s.arriveAnswer stk serial chunk flag bytes).mem = s.mem := by
  unfold State.arriveAnswer
  rw [ite_mem, keepArrival_mem, getD_mem (fun _ => remoteAnswer_mem) (keepArrival_mem ..), ite_self]

@[simp] theorem gatherPut_mem (s : State) (path : Nat) (p : Packet) : (s.gatherPut path p).2.mem = s.mem := by
  unfold State.gatherPut
  dsimp only
  repeat' split
  all_goals simp

@[simp] theorem deliverPacket_mem (s : State) (path : Nat) (p : Packet) : (s.deliverPacket path p).mem = s.mem := by
  unfold State.deliverPacket
  dsimp only
  split
  iterate 4 exact arriveAnswer_mem ..
  · split <;> simp
  · have hg := gatherPut_mem s path p
    split
    · next e => rw [e] at hg; exact hg
    · next e =>
      rw [e] at hg
      split <;> simpa using hg

@[simp] theorem peerPacket_mem (s : State) (port : Nat) (bytes : List Byte) : (s.peerPacket port bytes).mem = s.mem := by
  unfold State.peerPacket
  split
  · rfl
  · split <;> simp

@[simp] theorem serveArrivals_mem (s : State) (stk : Nat) : (s.serveArrivals stk).mem = s.mem := by
  unfold State.serveArrivals
  refine foldl_mem (fun s a => ?_) _ _
  cases a <;> simp

@[simp] theorem reportPuts_mem (s : State) : s.reportPuts.mem = s.mem := by
  unfold State.reportPuts
  exact foldl_mem (fun _ _ => by simp) _ _
@[simp] theorem modLink_mem (s : State) (stk edge m : Nat) (f : Link → Link) : (s.modLink stk edge m f).mem = s.mem := rfl
@[simp] theorem linkEvent_mem (s : State) (stk edge m old : Nat) : (s.linkEvent stk edge m old).mem = s.mem := by
  simp [State.linkEvent]
@[simp] theorem linkState_mem (s : State) (stk edge m new : Nat) : (s.linkState stk edge m new).mem = s.mem := by
  simp [State.linkState]
@[simp] theorem startRetrain_mem (s : State) (stk edge m : Nat) : (s.startRetrain stk edge m).mem = s.mem := by
  simp [State.startRetrain]
@[simp] theorem clearRetry_mem (s : State) (stk edge m : Nat) : (s.clearRetry stk edge m).mem = s.mem := rfl
@[simp] theorem armInjector_mem (s : State) (stk edge m : Nat) (v : Word) : (s.armInjector stk edge m v).mem = s.mem := rfl
@[simp] theorem unpause_mem (s : State) (stk edge m : Nat) : (s.unpause stk edge m).mem = s.mem := by simp [State.unpause]
@[simp] theorem writeLkctl_mem (s : State) (stk : Nat) (v : Word) : (s.writeLkctl stk v).mem = s.mem := by
  simp [State.writeLkctl]
@[simp] theorem linkWrite_mem (s : State) (stk n : Nat) (v : Word) : (s.linkWrite stk n v).mem = s.mem := by
  unfold State.linkWrite
  repeat' split
  all_goals simp
@[simp] theorem countReplay_mem (s : State) (stk edge m : Nat) (crc : Bool) : (s.countReplay stk edge m crc).mem = s.mem := by
  simp [State.countReplay]
@[simp] theorem injectFlit_mem (s : State) (stk edge m : Nat) : (s.injectFlit stk edge m).mem = s.mem := by
  simp [State.injectFlit]
@[simp] theorem csrWrite_mem (s : State) (n : Nat) (x : Word) : (s.csrWrite n x).mem = s.mem := by simp [State.csrWrite]
@[simp] theorem stretchBy_mem (s : State) (gs : List Nat) : (s.stretchBy gs).mem = s.mem := by
  unfold State.stretchBy
  exact foldl_mem (fun _ _ => by simp) _ _
@[simp] theorem relax_mem (s : State) (gs : List Nat) : (s.relax gs).mem = s.mem := by
  unfold State.relax
  exact foldl_mem (fun _ _ => by simp) _ _
@[simp] theorem engage_mem (s : State) : s.engage.mem = s.mem := rfl
@[simp] theorem migrateHot_mem (s : State) (stk : Nat) : (s.migrateHot stk).mem = s.mem := by
  unfold State.migrateHot
  exact foldl_mem (fun _ _ => by split <;> simp) _ _
@[simp] theorem setAlert_mem (s : State) : s.setAlert.mem = s.mem := by simp [State.setAlert]
@[simp] theorem sensor_mem (s : State) (n : Nat) (high : Bool) : (s.sensor n high).mem = s.mem := by simp [State.sensor]
@[simp] theorem trainLinks_mem (s : State) : s.trainLinks.mem = s.mem := by
  unfold State.trainLinks
  exact foldl_mem (fun _ _ => by simp) _ _

@[simp] theorem firmwareSetup_mem (s : State) : s.firmwareSetup.mem = s.mem := by
  unfold State.firmwareSetup
  dsimp only
  exact foldl_mem (fun s k => State.modStack_mem ..) allStacks s

@[simp] theorem testCores_mem (s : State) : s.testCores.mem = s.mem := by simp [State.testCores]
@[simp] theorem repairBonds_mem (s : State) : s.repairBonds.mem = s.mem := rfl
@[simp] theorem openBond_mem (s : State) (stk channel signal bond : Nat) :
    (s.openBond stk channel signal bond).mem = s.mem := by
  simp [State.openBond]
@[simp] theorem failBringUp_mem (s : State) : s.failBringUp.mem = s.mem := rfl
@[simp] theorem arrive_mem (s : State) : s.arrive.mem = s.mem := by simp [State.arrive]
@[simp] theorem markSlices_mem (s : State) (m : BitVec 16) : (s.markSlices m).mem = s.mem := rfl

@[simp] theorem writeScalars_mem (s : State) (fail : Option Word) (es : List Effect) : (writeScalars s fail es).1.mem = s.mem := by
  induction es generalizing s fail with
  | nil => rfl
  | cons e es ih =>
    cases e with
    | scalar sd x late =>
      simp only [writeScalars]
      split <;> simp [ih]
    | _ => exact ih ..

@[simp] theorem holdConvoy_mem (s : State) (left : List Effect) : (s.holdConvoy left).mem = s.mem := rfl
@[simp] theorem reportHalt_mem (s : State) : s.reportHalt.mem = s.mem := by simp [State.reportHalt]
@[simp] theorem fenceOwn_mem (s : State) (src : Nat) (bits : Word) : (s.fenceOwn src bits).mem = s.mem := by
  simp [State.fenceOwn]
@[simp] theorem endTest_mem (s : State) (g : Nat) (h : Option Hart) (bits failed : Word) :
    (s.endTest g h bits failed).mem = s.mem := by
  simp [State.endTest]
@[simp] theorem setLength_mem (s : State) (sd : SReg) (x : Nat) : (s.setLength sd x).mem = s.mem := rfl
@[simp] theorem advanceTime_mem (s : State) : s.advanceTime.mem = s.mem := rfl
@[simp] theorem ageCores_mem (s : State) : s.ageCores.mem = s.mem := by
  unfold State.ageCores
  exact foldl_mem (fun _ _ => by simp) _ _
@[simp] theorem viewError_mem (s : State) (g sec : Nat) : (s.viewError g sec).mem = s.mem := by simp [State.viewError]
@[simp] theorem cacheError_mem (s : State) (k sec : Nat) : (s.cacheError k sec).mem = s.mem := by
  unfold State.cacheError
  dsimp only
  split <;> simp
@[simp] theorem firmwareRetire_mem (s : State) (k g : Nat) : (s.firmwareRetire k g).mem = s.mem := by
  simp [State.firmwareRetire]
@[simp] theorem configRequest_mem (s : State) (p : Nat) : (s.configRequest p).mem = s.mem := by simp [State.configRequest]
@[simp] theorem probed_mem (s : State) (p : Probed) : (s.probed p).mem = s.mem := by simp [State.probed]

@[simp] theorem chunkRefresh_mem (s : State) (g : Gov) (good : List (Item × Nat × Bool)) : (s.chunkRefresh g good).mem = s.mem := by
  unfold State.chunkRefresh
  exact foldl_mem (fun _ _ => foldl_mem (fun _ _ => State.modCore_mem ..) _ _) _ _

@[simp] theorem beginConvoy_mem (s : State) (h : Header) : (s.beginConvoy h).mem = s.mem := rfl

@[simp] theorem keepRan_mem (s t : State) (i : Instr) : (s.keepRan t i).mem = t.mem := by
  unfold State.keepRan
  split <;> rfl

@[simp] theorem redo_mem (s : State) (r : Ran) : (s.redo r).mem = s.mem := rfl
@[simp] theorem markIssue_mem (s : State) : s.markIssue.mem = s.mem := by simp [State.markIssue]
@[simp] theorem sample_mem (s : State) : s.sample.mem = s.mem := by simp [State.sample]

end Sys2Proof.HomeMemory

/-! Canonical memory through the operations of the model that write home memory, and through those that call them. -/

namespace Sys2Proof.HomeMemory

open Sys2Proof.Machine

variable {s : State}

/-! ## Stores and publications -/

theorem putHome_canon (h : Canon s) (a : Nat) (bs : List Byte) : Canon (s.putHome a bs) := by
  unfold State.putHome
  split
  · exact h
  · exact canon_of_mem (cacheWritten_mem ..) (Memory.wf_writeList _ _ _ h)

theorem append_mem (s : State) (key : Option Key) (b : RecBody) : (s.append key b).mem =
    ringWrite s.mem (s.log s.hart.key) s.hart.key (s.log s.hart.key).wt s.hart.source (key.getD 0) b s.now := by
  simp [State.append]

theorem append_canon (h : Canon s) (key : Option Key) (b : RecBody) : Canon (s.append key b) := by
  rw [Canon, append_mem]
  exact wf_ringWrite h ..

theorem closeStaging_canon (h : Canon s) : Canon s.closeStaging :=
  foldl_canon (fun _ _ h => append_canon h ..) s.hart.staging h

theorem storeByte_leaves (h : Canon s) (p : Nat) (b : Byte) : Leaves Canon (s.storeByte p b) := by
  unfold State.storeByte
  dsimp only
  split
  · exact h
  · split
    · exact h
    · split
      · exact append_canon h ..
      · exact h

theorem storeBytes_leaves (h : Canon s) (bs : List (Nat × Byte)) : Leaves Canon (s.storeBytes bs) := by
  induction bs generalizing s with
  | nil => exact h
  | cons x bs ih => exact then_leaves (storeByte_leaves h ..) fun _ h => ih h

theorem publish_leaves (h : Canon s) (scope : Nat) (reserve : Bool) : Leaves Canon (s.publish scope reserve) := by
  have hf : Canon s.fold := canon_of_mem (fold_mem s) h
  have ha := append_canon (canon_of_mem (takeKey_mem _) (closeStaging_canon hf))
  unfold State.publish
  split
  · exact h
  · dsimp only
    split
    · exact hf
    · refine canon_of_mem ?_ (ha (some s.fold.closeStaging.nextKey) (.publish scope (s.fold.closeStaging.log s.fold.closeStaging.hart.key).floor
        (s.fold.closeStaging.log s.fold.closeStaging.hart.key).acquired))
      simp

theorem forcedPublish_canon (h : Canon s) : Canon s.forcedPublish := by
  have hp := publish_leaves h 0 false
  unfold State.forcedPublish
  split
  · exact h
  · split
    · next e => rw [e] at hp; exact hp
    · exact h

/-! ## Contexts that are lost, and traps -/

theorem writeFrozen_canon (h : Canon s) (stk : Nat) (x : Walker) : Canon (s.writeFrozen stk x) := by
  unfold State.writeFrozen
  dsimp only
  split
  · exact putHome_canon h ..
  · exact h

theorem freezeSaved_canon (h : Canon s) (stk : Nat) : Canon (s.freezeSaved stk) := by
  unfold State.freezeSaved
  exact foldl_canon (fun s e h => canon_of_mem (State.modStack_mem ..) (writeFrozen_canon h stk e.2)) _ h

theorem lose_canon (h : Canon s) (k cause : Nat) (epc : Word) : Canon (s.lose k cause epc) := by
  unfold State.lose
  split
  · exact h
  · refine canon_of_mem (freeLog_mem ..) (freezeSaved_canon ?_ _)
    refine canon_of_mem ?_ h
    simp [foldl_mem]

theorem startCoreReset_canon (h : Canon s) (g cause : Nat) (epc : Word) : Canon (s.startCoreReset g cause epc) := by
  unfold State.startCoreReset
  exact canon_of_mem (abortCopies_mem ..) (foldl_canon (fun _ _ h => lose_canon h ..) _ h)

theorem crash_canon (h : Canon s) (cause : Nat) (epc : Word) : Canon (s.crash cause epc) := by
  unfold State.crash
  dsimp only
  have hp : ∀ ty a b, Canon (s.pfbHart s.hart ty a b) := fun _ _ _ => canon_of_mem (pfbHart_mem ..) h
  split
  · exact canon_of_mem (freeze_mem ..) (hp ..)
  · have hl := lose_canon (hp 0x06 (BitVec.ofNat 64 (s.hart.trap1.cause.toNat + s.hart.trap2.cause.toNat * 256 + cause * 65536)) epc)
      s.hart.key cause epc
    split
    · exact hl
    · split
      · exact startCoreReset_canon hl ..
      · exact foldl_canon (fun _ _ h => canon_of_mem (askPreempt_mem ..) h) _ hl

theorem takeTrap_canon (h : Canon s) (c : Nat) (v epc : Word) : Canon (s.takeTrap c v epc) := by
  unfold State.takeTrap
  refine canon_ite (canon_of_mem ?_ h) (crash_canon (canon_of_mem ?_ h) ..)
  · rw [State.modHart_mem]
    simp
  · simp

theorem settleWord_canon (h : Canon s) {r : Res State} (hr : Leaves Canon r) : Canon (settleWord s r) := by
  cases r with
  | ok t => exact hr
  | trap c v => exact takeTrap_canon h ..
  | fault t c v => exact takeTrap_canon hr ..
  | late t x => exact takeTrap_canon hr ..
  | wait t p => exact canon_of_mem (park_mem ..) hr

theorem settleMember_canon (h : Canon s) {r : Res State} (hr : Leaves Canon r) : Canon (settleMember s r) := by
  cases r with
  | ok t => exact hr
  | trap c v => exact takeTrap_canon h ..
  | fault t c v => exact takeTrap_canon hr ..
  | late t x => exact hr
  | wait t p => exact canon_of_mem (park_mem ..) hr

theorem word_canon (h : Canon s) {i : Instr} {body : State → Res State} {legal : Bool} (hb : Leaves Canon (body s)) :
    NextCanon (word s i body legal) := by
  unfold word
  split
  · exact takeTrap_canon h ..
  · exact settleWord_canon h hb

theorem member_canon (h : Canon s) {i : Instr} {body : State → Res State} (hb : Leaves Canon (body s)) :
    NextCanon (member s i body) := by
  unfold member
  split
  · exact takeTrap_canon h ..
  · exact settleMember_canon h hb

/-! ## The checking lanes (R166) -/

/-- Memory after the checking lanes. -/
def LaneCheckMem (m : Memory) : LaneCheck → Prop
  | .fine t _ _ | .fenced t => t.mem = m

theorem laneGroup_mem {m : Memory} {cls : Nat} {lost : List Nat} {tree : Bool} {odd : Option Nat} {a : LaneCheck} {g : List Nat}
    (ha : LaneCheckMem m a) : LaneCheckMem m (laneGroup cls lost tree odd a g) := by
  cases a with
  | fenced t => exact ha
  | fine t flips again =>
    unfold laneGroup
    dsimp only
    split
    · split
      · exact (suspectReport_mem ..).trans ((fenceEvent_mem ..).trans ((clearCaps_mem ..).trans ha))
      · exact (raise_mem ..).trans ((pfbHart_mem ..).trans ha)
    · exact (raise_mem ..).trans ha

theorem checkLanes_mem (s : State) (cls : Nat) (tree outs : List Nat) (odd : Option Nat) :
    LaneCheckMem s.mem (s.checkLanes cls tree outs odd) := by
  have hfold : ∀ (gs : List (List Nat)) {a : LaneCheck}, LaneCheckMem s.mem a →
      LaneCheckMem s.mem (gs.foldl (laneGroup cls (s.loseChecks cls (tree ++ outs)).2 false odd) a) := by
    intro gs
    induction gs with
    | nil => exact fun h => h
    | cons g gs ih => exact fun h => ih (laneGroup_mem h)
  unfold State.checkLanes
  refine hfold _ ?_
  have hl : LaneCheckMem s.mem (.fine (s.loseChecks cls (tree ++ outs)).1 [] []) := loseChecks_mem ..
  split
  · exact hl
  · exact laneGroup_mem hl

theorem laneCheck_mem (s : State) (cls : Nat) (act : List Nat) (always : Bool) : LaneCheckMem s.mem (s.laneCheck cls act always) := by
  unfold State.laneCheck
  split
  · rfl
  · dsimp only
    split <;> exact checkLanes_mem ..

theorem checkTile_mem (s : State) (n : BitVec 2) (int : Bool) (cls : Nat) (js : List Nat) (xs : List (Nat × Nat × Nat)) :
    LaneCheckMem s.mem (s.checkTile n int cls js xs) := by
  have hc : ∀ odd, LaneCheckMem s.mem
      (if s.lanesSound cls && odd.isNone then .fine s [] [] else s.checkLanes cls [] (s.lanesOf js) odd) := by
    intro odd
    split
    · rfl
    · exact checkLanes_mem ..
  unfold State.checkTile
  dsimp only
  generalize (if s.hart.perturbed int (s.hart.perturbs js) xs == xs then none
    else (s.hart.perturbs js).map fun p => p.2 % s.hart.lanes) = odd
  have hl := hc odd
  generalize (if s.lanesSound cls && odd.isNone then .fine s [] [] else s.checkLanes cls [] (s.lanesOf js) odd : LaneCheck) = a at hl ⊢
  cases a with
  | fenced t => exact hl
  | fine t flips again =>
    dsimp only
    split <;> exact hl

theorem checkedRes_leaves (h : Canon s) {cls : Nat} {act : List Nat} {always : Bool} {k : State → (Nat → Nat → Nat → Nat) → Res State}
    (hk : ∀ t f, Canon t → Leaves Canon (k t f)) : Leaves Canon (checkedRes s cls act always k) := by
  have hl := laneCheck_mem s cls act always
  unfold checkedRes
  split
  · next e => rw [e] at hl; exact hk _ _ (canon_of_mem hl h)
  · next e => rw [e] at hl; exact takeTrap_canon (canon_of_mem hl h) ..

theorem checkedBy_leaves (h : Canon s) {cls : Nat} {act : List Nat} {always : Bool} {k : State → (Nat → Nat → Nat → Nat) → State}
    (hk : ∀ t f, Canon t → Canon (k t f)) : Leaves Canon (checkedBy s cls act k always) :=
  checkedRes_leaves h hk

/-! ## Translation, loads and stores -/

/-- Memory of the state that an optional step leaves. -/
def SomeMem (m : Memory) (o : Option State) : Prop := ∀ t, o = some t → t.mem = m

@[simp] theorem someMem_none {m : Memory} : SomeMem m none := fun _ e => nomatch e

@[simp] theorem someMem_some {m : Memory} {t : State} : SomeMem m (some t) ↔ t.mem = m :=
  ⟨fun h => h t rfl, fun h _ e => Option.some.inj e ▸ h⟩

@[simp] theorem someMem_ite {m : Memory} {p : Prop} [Decidable p] {a b : Option State} :
    SomeMem m (if p then a else b) ↔ (p → SomeMem m a) ∧ (¬p → SomeMem m b) := by
  split <;> simp [*]

theorem translateAll_leaves (h : Canon s) (k : Access) (as : List (Nat × Word)) (t : Walks) :
    Leaves (fun _ => True) (translateAll s k as t) := by
  induction as generalizing t with
  | nil => trivial
  | cons a as ih =>
    unfold translateAll
    split
    · trivial
    · exact canon_of_mem (setTlb_mem ..) h
    · exact andThen_leaves (ih _) (fun _ _ => trivial) fun _ _ => trivial

theorem access_leaves (h : Canon s) (k : Access) (a : Word) : Leaves (fun x => Canon x.1) (s.access k a) := by
  unfold State.access
  split
  · split
    · exact h
    · trivial
  · exact andThen_leaves (translateAll_leaves h ..) (fun _ _ => h) fun _ _ => canon_of_mem (setTlb_mem ..) h

theorem ensure_leaves (h : Canon s) (sec : Nat) (res : Bool) : Leaves Canon (s.ensure sec res) := by
  have hv : ∀ hit, Canon (s.countView sec hit) := fun _ => canon_of_mem (countView_mem ..) h
  unfold State.ensure
  split
  · split
    iterate 5 exact h
    · exact canon_of_mem (cacheRead_mem ..) h
    · exact h
  · split
    iterate 3 exact h
    split
    · exact hv _
    · split
      · exact hv _
      · split
        iterate 3 exact hv _
        · exact canon_of_mem (fill_mem ..) (canon_of_mem (repay_mem ..) (hv _))

theorem ensureAll_leaves (h : Canon s) (xs : List (Nat × Bool)) : Leaves Canon (s.ensureAll xs) := by
  induction xs generalizing s with
  | nil => exact h
  | cons x xs ih => exact then_leaves (ensure_leaves h ..) fun _ h => ih h

theorem ensureFetch_leaves (h : Canon s) (sec : Nat) (res : Bool) : Leaves Canon (s.ensureFetch sec res) := by
  have hv : ∀ hit, Canon (s.countView (sec + 1) hit) := fun _ => canon_of_mem (countView_mem ..) h
  unfold State.ensureFetch
  split
  iterate 3 exact h
  split
  · exact hv _
  · split
    iterate 3 exact hv _
    · exact canon_of_mem (fill_mem ..) (hv _)

theorem windowRead_leaves (s : State) (a : Word) (n : Nat) : Leaves (fun _ => True) (s.windowRead a n) := by
  unfold State.windowRead
  extract_lets o
  clear_value o
  refine leaves_ite leaves_trap (leaves_ite (leaves_ok.mpr True.intro) (leaves_ite ?_ leaves_trap))
  split
  · exact leaves_ok.mpr True.intro
  · exact leaves_trap

theorem load_leaves (h : Canon s) (a : Word) (n : Nat) : Leaves (fun x => Canon x.1) (s.load a n) := by
  unfold State.load
  refine check_leaves (leaves_ite (andThen_leaves (windowRead_leaves ..) (fun _ _ => h) fun _ _ => h) ?_)
  refine andThen_leaves (access_leaves h ..) (fun _ h => h) fun x hx => ?_
  refine andThen_leaves (keepWalks_leaves hx (leaves_ite (ensure_leaves hx ..) hx)) (fun _ h => h) fun _ h => h

theorem loadWords_leaves (h : Canon s) (a : Word) (n : Nat) : Leaves (fun x => Canon x.1) (s.loadWords a n) := by
  induction n generalizing s a with
  | zero => exact h
  | succ n ih =>
    exact andThen_leaves (load_leaves h ..) (fun _ h => h) fun _ h => andThen_leaves (ih h _) (fun _ h => h) fun _ h => h

theorem controlWrite_mem (s : State) (stk off : Nat) (v : Word) : SomeMem s.mem (s.controlWrite stk off v) := by
  simp [State.controlWrite]

theorem windowStore_leaves (h : Canon s) (a : Word) (n : Nat) (x : Word) : Leaves Canon (s.windowStore a n x) := by
  unfold State.windowStore
  dsimp only
  split
  · split
    · next e => exact canon_of_mem (controlWrite_mem _ _ _ _ _ e) h
    · trivial
  · trivial

theorem serviceStore_leaves (h : Canon s) (bs : List (Nat × Byte)) : Leaves Canon (s.serviceStore bs) := by
  unfold State.serviceStore
  split
  · exact h
  · exact canon_of_mem (publishRecords_mem ..) h

theorem storeAt_leaves (h : Canon s) (p n : Nat) (x : Word) : Leaves Canon (s.storeAt p n x) := by
  unfold State.storeAt
  dsimp only
  split
  · exact serviceStore_leaves h _
  · exact storeBytes_leaves h _

theorem store_leaves (h : Canon s) (a : Word) (n : Nat) (x : Word) : Leaves Canon (s.store a n x) := by
  unfold State.store
  exact check_leaves (leaves_ite (windowStore_leaves h ..)
    (andThen_leaves (access_leaves h ..) (fun _ h => h) fun _ h => storeAt_leaves h ..))

/-! ## Results -/

theorem setS_leaves (h : Canon s) (sd : SReg) (x : Word) : Leaves Canon (s.setS sd x) := leaves_ite trivial h
theorem setLate_leaves (h : Canon s) (sd : SReg) (x : Word) : Leaves Canon (s.setLate sd x) := leaves_ite h h
theorem memberS_leaves (h : Canon s) (sd : SReg) (x : Word) : Leaves Canon (s.memberS sd x) := leaves_ite trivial h
theorem setF_leaves (h : Canon s) (sd : SReg) (x : Word) (f : FpFlags) : Leaves Canon (s.setF sd x f) := leaves_ite trivial h
theorem jump_leaves (h : Canon s) (sd : SReg) (t : Word) : Leaves Canon (s.jump sd t) := leaves_ite trivial h
theorem resolveAt_leaves (h : Canon s) (pc : Word) : Leaves Canon (s.resolveAt pc) := h

theorem finishV_leaves (h : Canon s) {g : Gov} {vd : VReg} {t : Tag} {cls : Nat} {act : List Nat} {draws : Bool}
    {f : Nat → Nat → Nat × FpFlags} {scale : VRegS → BitVec 4096} : Leaves Canon (s.finishV g vd t cls act draws f scale) :=
  checkedBy_leaves h fun _ _ h => canon_of_mem (writeV_mem ..) h

/-! ## The checks of members (R96, R97, R99, R124) -/

section
variable {α : Type} {P : α → Prop}

theorem withTag_leaves {t : Option Tag} {a b c : Nat} {k : Tag → Res α} (hk : ∀ t, Leaves P (k t)) :
    Leaves P (withTag s t a b c k) := by
  cases t with
  | some t => exact hk t
  | none => trivial

theorem formats_leaves {ts : List Tag} {k : Res α} (hk : Leaves P k) : Leaves P (formats s ts k) := by
  unfold formats
  split
  · trivial
  · split
    · trivial
    · exact hk

theorem withMode_leaves {rounds : Bool} {r : Rnd} {k : Rnd → Res α} (hk : ∀ m, Leaves P (k m)) :
    Leaves P (withMode s rounds r k) := by
  unfold withMode
  split
  · split
    · exact hk _
    · trivial
  · exact hk _

theorem lengths_leaves {rs : List (VReg × Nat)} {k : Res α} (hk : Leaves P k) : Leaves P (lengths s rs k) := by
  unfold lengths
  split
  · trivial
  · exact hk

theorem parity_leaves {rs : List VReg} {k : Res α} (hk : Leaves P k) : Leaves P (parity s rs k) := by
  unfold parity
  split
  · trivial
  · exact hk

theorem tileParity_leaves {n : BitVec 2} {reads : List (Nat × Nat)} {k : Res α} (hk : Leaves P k) :
    Leaves P (tileParity s n reads k) :=
  check_leaves hk

theorem sdmCheck_leaves {o : Word} {k : Res α} (hk : Leaves P k) : Leaves P (sdmCheck o k) :=
  check_leaves (check_leaves hk)

theorem vmTags_leaves {t : Tag} {f : Form} {ok : Bool} {k : Res α} (hk : Leaves P k) : Leaves P (vmTags s t f ok k) :=
  check_leaves hk

theorem vmRegs_leaves {v : VReg} {w : Nat} {f : Form} {k : Res α} (hk : Leaves P k) : Leaves P (vmRegs s v w f k) :=
  lengths_leaves (parity_leaves hk)

end

theorem stage2_leaves {g : Gov} {reads : List (VReg × Tag)} {vd : VReg} {t : Tag} {rounds : Bool} {r : Rnd}
    {k : Rnd → List Nat → Res State} (hk : ∀ m act, Leaves Canon (k m act)) : Leaves Canon (stage2 s g reads vd t rounds r k) :=
  formats_leaves (withMode_leaves fun m => lengths_leaves (parity_leaves (hk m _)))

theorem widthChange_leaves {a d : Tag} {k : Res State} (hk : Leaves Canon k) : Leaves Canon (widthChange s a d k) :=
  check_leaves hk

theorem fragCheck_leaves {want : Nat} {k : Res State} (hk : Leaves Canon k) : Leaves Canon (fragCheck s want k) :=
  check_leaves hk

theorem copyChecks_leaves {rs : List (Bool × Nat)} {k : Res State} (hk : Leaves Canon k) : Leaves Canon (copyChecks s rs k) := by
  unfold copyChecks
  split
  · trivial
  · exact hk

theorem bankChecks_leaves (h : Canon s) {rs : List (Bool × Nat)} {k : Res State} (hk : Leaves Canon k) :
    Leaves Canon (bankChecks s rs k) := by
  unfold bankChecks
  split
  · unfold State.bankFault
    split
    · exact takeTrap_canon (s := State.modGang s _ _) h ..
    · trivial
  · exact hk

theorem vmAddrs_leaves (h : Canon s) {cls : Nat} {f : Form} {b : Word} {w : Nat} {act : List Nat}
    {k : State → List (Nat × Word) → Res State} (hk : ∀ t as, Canon t → Leaves Canon (k t as)) :
    Leaves Canon (vmAddrs s cls f b w act k) :=
  checkedRes_leaves h fun _ _ h => hk _ _ h

theorem afterProbe_leaves (h : Canon s) {ff : Bool} {act : List Nat} {p : Probed}
    {k : State → List (Item × Nat × Bool) → Res State} (hk : ∀ t xs, Canon t → Leaves Canon (k t xs)) :
    Leaves Canon (afterProbe s ff act p k) := by
  have ht : Canon (s.setTlb p.walks) := canon_of_mem (setTlb_mem ..) h
  have hp : Canon (s.probed p) := canon_of_mem (probed_mem ..) h
  unfold afterProbe
  split
  · exact keepWalks_leaves ht (hk _ _ hp)
  · split
    · exact ht
    · split
      · exact keepWalks_leaves ht (hk _ _ hp)
      · exact ht

theorem finishLoad_leaves (h : Canon s) {any : Bool} {g : Gov} {vd : VReg} {t : Tag} {good : List (Item × Nat × Bool)} :
    Leaves Canon (s.finishLoad any g vd t good) := by
  unfold State.finishLoad
  exact then_leaves (ensureAll_leaves h _) fun _ h => canon_of_mem (writeVAny_mem ..) h

theorem activeScalar_leaves (h : Canon s) (g : Gov) (sd : SReg) (pa : PReg) (x : List Nat → Word) :
    Leaves Canon (activeScalar s g sd pa x) :=
  checkedRes_leaves h fun _ _ h => leaves_ite (memberS_leaves h ..) (leaves_ite (memberS_leaves h ..) h)

/-! ## Acquiring and publishing words, home operations -/

theorem replay_mem (s : State) (q : Tbl Nat) (sec : Nat) : SomeMem s.mem (s.replay q sec) := by
  simp [State.replay]

theorem replayAll_mem {t : State} {q : Tbl Nat} {secs : List Nat} (e : s.replayAll q secs = .ok t) : t.mem = s.mem := by
  induction secs generalizing s with
  | nil => exact Except.ok.inj e ▸ rfl
  | cons x secs ih =>
    unfold State.replayAll at e
    split at e
    · next he => exact (ih e).trans (replay_mem _ _ _ _ he)
    · exact nomatch e

theorem acquire_leaves (h : Canon s) (logs : List Nat) : Leaves Canon (s.acquire logs) := by
  unfold State.acquire
  dsimp only
  generalize (s.dropPassed s.hart.core).closeSet _ _ _ = r
  obtain ⟨q, f⟩ := r
  dsimp only
  split
  · exact h
  split
  · exact leaves_ite h (by refine canon_of_mem ?_ h; simp)
  · split
    · next e =>
      refine canon_of_mem ((countCore_mem ..).trans ((replayAll_mem e).trans ?_)) h
      exact (foldl_mem (fun _ _ => State.modCore_mem ..) _ _).trans (foldl_mem (fun _ _ => State.modCore_mem ..) _ _)
    · refine canon_of_mem ((holdLoad_mem ..).trans ?_) h
      simp

theorem acquireThen_leaves (h : Canon s) (k : LogSet) (a b : Word) : Leaves Canon (acquireThen s k a b) :=
  then_leaves (rephase_leaves (acquire_leaves h _)) fun _ h => h

theorem publishThen_leaves (h : Canon s) {sc : Scope} {k : State → Res State} (hk : ∀ t, Canon t → Leaves Canon (k t)) :
    Leaves Canon (publishThen s sc k) := by
  unfold publishThen
  split
  · exact leaves_ite (hk _ h) h
  · exact then_leaves (publish_leaves h ..) fun _ h => leaves_ite (hk _ h) h

theorem acquireKey_mem {t : State} {acq : Bool} {k : Key} (e : s.acquireKey acq k = some t) : t.mem = s.mem := by
  unfold State.acquireKey at e
  split at e
  · exact Option.some.inj e ▸ rfl
  · split at e
    · exact Option.some.inj e ▸ rfl
    · exact nomatch e

theorem release_leaves (h : Canon s) {rel : Bool} {place : Option Nat} {r : Res State} (e : s.release rel place = some r) :
    Leaves Canon r := by
  unfold State.release at e
  split at e
  · exact nomatch e
  · exact nomatch e
  · exact Option.some.inj e ▸ then_leaves (publish_leaves h ..) fun _ h => h

theorem commitHome_leaves (h : Canon s) (rel : Bool) (els : List HomeEl) : Leaves Canon (s.commitHome rel els) := by
  unfold State.commitHome
  split
  · next e => exact release_leaves h e
  · split
    · exact h
    · exact canon_of_mem (sendHome_mem ..) h

/-! ## The commit point (R208) -/

theorem commitCopy_leaves (h : Canon s) (c : CopyCmd) : Leaves Canon (s.commitCopy c) := leaves_ite h h

theorem commitBank_leaves (h : Canon s) (c : BankCmd) : Leaves Canon (s.commitBank c) := by
  unfold State.commitBank
  split
  · exact h
  · split
    · exact canon_of_mem (enqueueBank_mem ..) (canon_of_mem (bankGrant_mem ..) h)
    · exact canon_of_mem (enqueueBank_mem ..) h
    · split
      · exact h
      · split
        · exact h
        · exact canon_of_mem (enqueueBank_mem ..) (canon_of_mem (takeKey_mem s) h)
    · exact then_leaves (publish_leaves h ..) fun _ h => canon_of_mem (enqueueBank_mem ..) (canon_of_mem (announceRelease_mem ..) h)
    · exact canon_of_mem (enqueueBank_mem ..) h

/-- What the commit point leaves is canonical. -/
def CommitCanon : Commit → Prop
  | .done t _ _ | .held t _ => Canon t
  | .wait _ => True

theorem commitAcquire_canon (h : Canon s) (k : Key) (sent : Bool) : CommitCanon (s.commitAcquire k sent) := by
  unfold State.commitAcquire
  split
  · next e => exact canon_of_mem (acquireKey_mem e) h
  · split
    · exact h
    · trivial

theorem commitSend_canon (h : Canon s) (els : List HomeEl) (acq w sent : Bool) : CommitCanon (s.commitSend els acq w sent) := by
  have hs : Canon (s.sendHome els) := canon_of_mem (sendHome_mem ..) h
  unfold State.commitSend
  split
  · split
    · exact h
    · trivial
  · dsimp only
    split
    · exact commitAcquire_canon hs ..
    · exact hs

theorem commit_canon (h : Canon s) (e : Effect) : CommitCanon (s.commit e) := by
  unfold State.commit
  split
  · exact h
  · have hr := storeByte_leaves h
    split
    · next q => exact (q ▸ hr _ _ :)
    · trivial
  · exact h
  · exact h
  · exact commitAcquire_canon h ..
  · exact foldl_canon (fun _ _ h => canon_of_mem (fetchAhead_mem ..) h) _ h
  · split
    · have hp := publish_leaves h 0 false
      split
      · next q => exact commitSend_canon (q ▸ hp :) ..
      · trivial
      · trivial
    · exact commitSend_canon h ..
  · have hb := commitBank_leaves h
    split
    · next q =>
      have ht := q ▸ hb _
      dsimp only
      split <;> exact ht
    · trivial
    · trivial
  · have hc := commitCopy_leaves h
    split
    · next q => exact (q ▸ hc _ :)
    · trivial

theorem commitAll_canon (h : Canon s) (sent : Bool) (out es : List Effect) : Canon (commitAll s sent out es).1 := by
  induction es generalizing s sent out with
  | nil => exact h
  | cons e es ih =>
    have hc := commit_canon h e
    unfold commitAll
    split
    · next q => rw [q] at hc; exact ih hc _ _
    · next q => rw [q] at hc; exact hc
    · exact h

theorem finishConvoy_canon (h : Canon s) (out : List Effect) : Canon (s.finishConvoy out) := by
  unfold State.finishConvoy
  dsimp only
  split
  · refine canon_of_mem ?_ h
    simp
  · refine takeTrap_canon (canon_of_mem ?_ h) ..
    simp

end Sys2Proof.HomeMemory

/-! Canonical memory through the engines of a stack: the merge engine, the bank processor, launches, saves and resets. -/

namespace Sys2Proof.HomeMemory

open Sys2Proof.Machine

variable {s : State}

theorem canon_with_mem {m : Memory} (h : Memory.wf m = true) : Canon { s with mem := m } := h

/-! ## The merge engine and row locks -/

theorem applyEl_canon (h : Canon s) (el : HomeEl) : Canon (s.applyEl el).1 := by
  unfold State.applyEl
  dsimp only
  split
  · exact canon_of_mem ((State.count_mem ..).trans (pfb_mem ..)) h
  · exact Memory.wf_writeN _ _ _ _ h

theorem applyEls_canon (h : Canon s) (req : Nat) (els : List HomeEl) : Canon (s.applyEls req els) := by
  induction els generalizing s with
  | nil => exact h
  | cons el els ih =>
    have ha := applyEl_canon h el
    exact ih (canon_ite ha (canon_of_mem (reply_mem ..) ha))

/-- What a record writes: its masked bytes, unless a row release supersedes it (R260, R268). -/
theorem applyEntry_record_mem (s : State) (stk : Nat) {e : MEntry} {sec : Nat} {mask : BitVec 64} {d : BitVec 512}
    (hb : e.body = .record sec mask d) :
    (s.applyEntry stk e).mem = if (s.stack stk).supersedes e.key sec then s.mem else s.mem.writeMasked sec mask d 64 := by
  have ht : ∀ t : State, (match e.origin with | .publication l q => (t.markApplied l q).freeLog l | _ => t).mem = t.mem := by
    intro t
    split <;> simp
  unfold State.applyEntry
  rw [hb]
  exact (ht _).trans (by split <;> rfl)

theorem applyEntry_canon (h : Canon s) (stk : Nat) (e : MEntry) : Canon (s.applyEntry stk e) := by
  cases hb : e.body with
  | op req els =>
    unfold State.applyEntry
    rw [hb]
    exact applyEls_canon (s := s.count stk 0x100 1) h ..
  | release r =>
    unfold State.applyEntry
    rw [hb]
    exact h
  | get id sec =>
    unfold State.applyEntry
    rw [hb]
    exact h
  | record sec mask d =>
    rw [Canon, applyEntry_record_mem s stk hb]
    split
    · exact h
    · exact Memory.wf_writeMasked _ _ _ _ _ h

theorem setAside_canon (h : Canon s) (stk : Nat) {drop : State → State} (hd : Canon (drop s)) (x : MEntry) (rest : Option MEntry) :
    Canon (s.setAside stk drop x rest) := by
  unfold State.setAside
  dsimp only
  split
  · exact canon_of_mem (deferFull_mem ..) h
  · split
    · exact applyEntry_canon (s := State.count (State.modStack _ _ _) _ _ _) hd ..
    · exact hd

theorem serveDeferred_canon (h : Canon s) (stk : Nat) (l : RowLock) : Canon (s.serveDeferred stk l) := by
  unfold State.serveDeferred
  refine canon_of_mem (drainBacklog_mem ..) (foldl_canon (fun _ _ h => canon_of_mem (serveRead_mem ..) h) _ ?_)
  exact foldl_canon (fun _ _ h => applyEntry_canon h ..) _ h

theorem releaseLock_canon (h : Canon s) (stk n : Nat) (k : Key) (torn : Bool) : Canon (s.releaseLock stk n k torn) := by
  unfold State.releaseLock
  split
  · exact h
  · next l _ =>
    dsimp only
    split
    · refine canon_of_mem (State.modStack_mem ..) (serveDeferred_canon (canon_of_mem ?_ h) ..)
      simp
    · refine canon_of_mem ((State.modStack_mem ..).trans (State.modStack_mem ..)) (serveDeferred_canon (canon_of_mem ?_ h) ..)
      simp

/-! ## The bank processor -/

theorem writeRows_canon (h : Canon s) (stk gang g r : Nat) (xs : List Row) : Canon (s.writeRows stk gang g r xs) := by
  induction xs generalizing s r with
  | nil => exact h
  | cons x xs ih =>
    unfold State.writeRows
    exact ih (canon_of_mem (markWritten_mem ..) (canon_with_mem (wf_setRow h ..))) _

theorem runGroup_canon (h : Canon s) (c : BankCmd) (first : Nat) (xs : List (Nat × BitVec 6)) (i : Nat) :
    Canon (s.runGroup c first xs i) := by
  unfold State.runGroup
  dsimp only
  have hw := fun g rs => writeRows_canon h c.stk c.gang g (planeBase c.d) rs
  refine canon_ite (canon_of_mem (groupStatus_mem ..) (hw ..)) (canon_of_mem ((tear_mem ..).trans (groupStatus_mem ..)) (hw ..))

theorem storeGroup_canon (h : Canon s) (c : BankCmd) (sgn : Bool) (i : Nat) : Canon (s.storeGroup c sgn i) := by
  unfold State.storeGroup
  dsimp only
  have hm := wf_foldl (f := fun m e => storeElem m (granuleByte c.elems c.x.toNat) (tagWidth (planeTag c.a)) e
    (ofPlane (planeTag c.a) (planeWidth c.a) sgn (columnOf (s.bankPlane c c.a i).1 (e % groupCols))))
    (fun _ _ h => wf_storeElem h ..)
    ((List.range (Nat.min groupCols (c.y.toNat - i * groupCols))).map fun k => i * groupCols + k) h
  have hf : ∀ (fs : List Nat) {t : State}, Canon t → Canon (fs.foldl (fun s f => s.markWritten c.stk c.gang f) t) := fun fs _ h =>
    canon_of_mem (foldl_mem (fun _ _ => markWritten_mem ..) fs _) h
  exact canon_ite (canon_of_mem (groupStatus_mem ..) (hf _ hm)) (canon_of_mem ((tear_mem ..).trans (groupStatus_mem ..)) (hf _ hm))

theorem runBank_canon (h : Canon s) (c : BankCmd) : Canon (s.runBank c) := by
  have hs : Canon ((List.range c.grant).foldl (fun s i => s.groupStatus c (s.bankPlane c c.a i).2) s) :=
    foldl_canon (fun _ _ h => canon_of_mem (groupStatus_mem ..) h) _ h
  unfold State.runBank
  dsimp only
  split
  · exact hs
  · exact hs
  · exact foldl_canon (fun _ _ h => canon_of_mem (sealGroup_mem ..) h) _ h
  · exact foldl_canon (fun _ _ h => storeGroup_canon h ..) _ h
  · exact foldl_canon (fun _ _ h => runGroup_canon h ..) _ h

theorem abortBank_canon (h : Canon s) (c : BankCmd) : Canon (s.abortBank c) := by
  unfold State.abortBank
  dsimp only
  refine canon_of_mem (finishBank_mem ..) ?_
  split
  · split
    · exact serveDeferred_canon (s := State.modStack (State.modStack s _ _) _ _) h ..
    · exact h
  · exact h
  · exact h

theorem resetBcp_canon (h : Canon s) (stk stuck : Nat) : Canon (s.resetBcp stk stuck) := by
  unfold State.resetBcp
  refine foldl_canon (fun t c ht => canon_of_mem (finishBank_mem ..) (foldl_canon (fun _ _ h => releaseLock_canon h ..) _
    (canon_of_mem (tear_mem ..) ht))) _ ?_
  refine canon_of_mem ?_ (foldl_canon (f := fun s c => s.abortBank c) (fun _ _ h => abortBank_canon h _) (s.stack stk).bcpq h)
  simp

/-! ## Launches and walkers -/

theorem logRun_canon (h : Canon s) (g slot : Nat) (id : BitVec 16) (n : Nat) : Canon (s.logRun g slot id n) := by
  unfold State.logRun
  dsimp only
  split
  · exact putHome_canon h ..
  · exact h

theorem takeTile_canon (h : Canon s) : Canon s.takeTile.1 := by
  unfold State.takeTile
  dsimp only
  split
  · exact h
  · split
    · exact h
    · split
      · exact canon_of_mem (modWalker_mem ..) h
      · exact logRun_canon (canon_of_mem ((State.modHart_mem ..).trans (modWalker_mem ..)) h) ..

theorem rebind_canon (h : Canon s) (x : Hart) (w : Nat) (serial : BitVec 16) : Canon (s.rebind x w serial) := by
  unfold State.rebind
  refine freezeSaved_canon (canon_of_mem ?_ h) _
  simp

theorem splitInto_mem (s : State) (own w stk free : Nat) : SomeMem s.mem (s.splitInto own w stk free) := by
  simp [State.splitInto]

theorem askSplit_mem {t : State} {stk free : Nat} {x : Nat × Nat × Launch × Walker} {who : Nat}
    (e : s.askSplit stk free x who = some t) : t.mem = s.mem := by
  unfold State.askSplit at e
  obtain ⟨u, hu, rfl⟩ := Option.map_eq_some_iff.mp e
  exact (State.post_mem ..).trans ((State.modStack_mem ..).trans ((modHolds_mem ..).trans (holdEntry_mem hu)))

theorem splitFor_canon (h : Canon s) {t : State} {b : Bool} (e : s.splitFor = some (t, b)) : Canon t := by
  unfold State.splitFor at e
  dsimp only at e
  split at e
  · split at e
    · obtain ⟨u, hu, he⟩ := Option.map_eq_some_iff.mp e
      exact (Prod.mk.inj he).1 ▸ rebind_canon (canon_of_mem (splitInto_mem _ _ _ _ _ _ hu) h) ..
    · obtain ⟨u, hu, he⟩ := Option.map_eq_some_iff.mp e
      exact (Prod.mk.inj he).1 ▸ canon_of_mem ((State.modHart_mem ..).trans (askSplit_mem hu)) h
  · exact nomatch e

theorem leave_canon (h : Canon s) : Canon s.leave := by
  unfold State.leave
  refine canon_of_mem (freeLog_mem ..) (freezeSaved_canon (canon_of_mem ?_ h) _)
  simp

theorem placeHart_canon (h : Canon s) {t : State} {g slot w : Nat} {x : Walker} {gang : Option (Nat × Nat × Nat)}
    (e : s.placeHart g slot w x gang = some t) : Canon t := by
  unfold State.placeHart at e
  dsimp only at e
  split at e
  · refine Option.some.inj e ▸ logRun_canon (canon_of_mem ?_ h) ..
    simp
  · exact nomatch e

theorem placeAll_canon (h : Canon s) {t : State} {w : Nat} {x : Walker} {gang : Option (Nat × Nat)} {rank : Nat}
    {ps : List (Nat × Nat)} (e : s.placeAll w x gang rank ps = some t) : Canon t := by
  induction ps generalizing s rank with
  | nil => exact Option.some.inj e ▸ h
  | cons p ps ih =>
    unfold State.placeAll at e
    split at e
    · next he => exact ih (placeHart_canon h he) e
    · exact nomatch e

theorem placeNext_canon (h : Canon s) {t : State} {stk w : Nat} (e : s.placeNext stk w = some t) : Canon t := by
  unfold State.placeNext at e
  dsimp only at e
  split at e
  · exact nomatch e
  split at e
  · exact nomatch e
  split at e
  · split at e
    · refine placeAll_canon ?_ e
      exact h
    · exact nomatch e
  · exact placeAll_canon h e

theorem splitHeard_canon (h : Canon s) (hold : Walker) (free : Nat) (r : Option Walker) : Canon (s.splitHeard hold free r) := by
  unfold State.splitHeard
  dsimp only
  split
  · exact h
  · split
    · exact h
    · split
      · exact h
      · refine canon_of_mem (modCtx_mem ..) ?_
        split
        · exact rebind_canon h ..
        · exact h

theorem splitAnswered_canon (h : Canon s) (stk free : Nat) (r : Option Walker) : Canon (s.splitAnswered stk free r) := by
  unfold State.splitAnswered
  dsimp only
  split
  · exact h
  · refine splitHeard_canon (canon_of_mem ?_ h) ..
    split <;> simp

theorem splitReplied_canon (h : Canon s) (own stk : Nat) : Canon (s.splitReplied own stk) := by
  unfold State.splitReplied
  split
  · exact splitAnswered_canon h ..
  · exact h

/-! ## Preemption -/

theorem drained_canon (h : Canon s) {t : State} {x : Nat} (e : s.drained x = some t) : Canon t := by
  unfold State.drained at e
  dsimp only at e
  split at e
  · exact nomatch e
  · exact Option.some.inj e ▸ closeStaging_canon (canon_of_mem (select_mem ..) h)

theorem writeImage_canon (h : Canon s) (x : Hart) (held : BitVec 16) : Canon (s.writeImage x held) := by
  unfold State.writeImage
  dsimp only
  refine canon_of_mem ((State.modCore_mem ..).trans (foldl_mem (fun _ _ => cacheWritten_mem ..) _ _)) ?_
  refine canon_with_mem (wf_foldl (fun _ _ h => Memory.wf_writeN _ _ _ _ h) _ ?_)
  exact cellsWf_filter _ h

theorem saved_canon (h : Canon s) (x : Hart) : Canon (s.saved x) := by
  unfold State.saved
  dsimp only
  refine canon_ite (startCoreReset_canon ?_ ..) ?_
  all_goals
    exact freezeSaved_canon (canon_of_mem ((modCtx_mem ..).trans (State.modCore_mem ..)) (writeImage_canon h ..)) _

/-! ## Resets and bring-up -/

theorem shutdown_canon (h : Canon s) : Canon s.shutdown := by
  unfold State.shutdown
  split
  · exact h
  · rfl

theorem coldReset_canon (s : State) : Canon s.coldReset := by
  unfold State.coldReset
  dsimp only
  refine canon_ite (shutdown_canon (canon_ite ?_ ?_)) (canon_ite ?_ ?_) <;> rfl

theorem holdReset_canon (h : Canon s) (modrst powerLow : Bool) : Canon (s.holdReset modrst powerLow) :=
  canon_ite (coldReset_canon _) h

theorem mergeRest_canon (h : Canon s) (stk : Nat) : Canon (s.mergeRest stk) := by
  unfold State.mergeRest
  refine foldl_canon (fun s e h => ?_) _ h
  have ha := applyEntry_canon h stk e
  split
  · exact canon_ite ha (canon_of_mem (damage_mem ..) h)
  · exact canon_ite h ha
  · exact ha

theorem dropLocks_canon (h : Canon s) (stk : Nat) : Canon (s.dropLocks stk) := by
  unfold State.dropLocks
  exact foldl_canon (fun _ _ h => releaseLock_canon (canon_of_mem (takeBankKey_mem ..) h) ..) _ h

theorem warmReset_canon (h : Canon s) : Canon s.warmReset := by
  unfold State.warmReset
  extract_lets s₁ s₂ s₃ s₄ none_
  have h₁ : Canon s₁ := foldl_canon (fun _ _ h => canon_of_mem (abortCopies_mem ..) h) _ h
  have h₂ : Canon s₂ := foldl_canon (fun _ _ h => dropLocks_canon h _) _ h₁
  have h₃ : Canon s₃ := foldl_canon (fun _ _ h => mergeRest_canon h _) _ h₂
  have h₄ : Canon s₄ := foldl_canon (fun _ _ h => canon_of_mem (discard_mem ..) h) _ h₃
  clear_value s₄
  exact h₄

theorem canon_with_bringUp (h : Canon s) (n : Nat) : Canon { s with bringUp := n } := h

theorem endStep_canon (h : Canon s) : Canon s.endStep := by
  have hf : Canon s.failBringUp := canon_of_mem (failBringUp_mem s) h
  unfold State.endStep
  split
  · exact canon_with_bringUp (canon_of_mem (trainLinks_mem s) h) _
  · split
    · exact h
    · exact hf
  · split
    · exact hf
    · split
      · exact hf
      · dsimp only
        split
        · simpa [Canon] using h
        · exact h
  · split
    · exact hf
    · rfl
  · exact h
  · simpa [Canon] using h
  · exact h

theorem dueResets_canon (h : Canon s) : Canon s.dueResets := by
  unfold State.dueResets
  exact foldl_canon (fun _ _ h => startCoreReset_canon h ..) _ h

end Sys2Proof.HomeMemory

/-! Canonical memory through the events of the module that write no home memory. -/

namespace Sys2Proof.HomeMemory

open Sys2Proof.Machine

variable {s : State}

theorem getD_canon {o : Option State} (ho : SomeMem s.mem o) (h : Canon s) : Canon (o.getD s) :=
  canon_of_mem (getD_mem ho rfl) h

/-! ## Copies -/

/-- Memory of the state that a try leaves. -/
def OkMem {ε : Type} (m : Memory) : Except ε State → Prop
  | .ok t => t.mem = m
  | .error _ => True

theorem okMem_ite {ε : Type} {m : Memory} {p : Prop} [Decidable p] {a b : Except ε State} (ha : OkMem m a) (hb : OkMem m b) :
    OkMem m (if p then a else b) := by
  split <;> assumption

theorem cryptChunk_mem (s : State) (g : Nat) (c : CopyCmd) (j : Nat) : OkMem s.mem (s.cryptChunk g c j) := by
  have hr := copyRead_mem s g c (c.src.toNat + 4112 * j) 4112
  unfold State.cryptChunk
  refine okMem_ite (stopCopy_mem ..) ?_
  split
  · trivial
  · next e => rw [e] at hr; exact (stopCopy_mem ..).trans hr
  · next bs t e =>
    rw [e] at hr
    extract_lets iv
    generalize gcmOpen _ iv _ _ = o
    cases o with
    | none =>
      exact (resolve_mem ..).trans ((State.count_mem ..).trans ((pfb_mem ..).trans ((modBlock_mem ..).trans hr)))
    | some pt =>
      have hp := copyPlace_mem t g c true (c.dst.toNat + 4096 * j) pt []
      dsimp only
      split
      · trivial
      · next e => rw [e] at hp; exact (stopCopy_mem ..).trans (Eq.trans hp hr)
      · next e => rw [e] at hp; exact (sendChunk_mem ..).trans (Eq.trans hp hr)

theorem remoteChunk_mem (s : State) (g : Nat) (c : CopyCmd) (j : Nat) : OkMem s.mem (s.remoteChunk g c j) := by
  have hr := copyRead_mem s g c (c.src.toNat + j * c.size) (Nat.min c.size (c.len.toNat - j * c.size))
  unfold State.remoteChunk
  refine okMem_ite (stopCopy_mem ..) (okMem_ite trivial (okMem_ite (sendPacket_mem ..) ?_))
  split
  · trivial
  · next e => rw [e] at hr; exact (stopCopy_mem ..).trans hr
  · next e => rw [e] at hr; exact (foldl_mem (fun _ _ => sendPacket_mem ..) _ _).trans hr

theorem tryChunk_mem (s : State) (g : Nat) (c : CopyCmd) (j : Nat) : OkMem s.mem (s.tryChunk g c j) := by
  have hb : (s.beginChunk g c j).mem = s.mem := beginChunk_mem ..
  unfold State.tryChunk
  dsimp only
  split
  · exact hb ▸ cryptChunk_mem ..
  · exact hb ▸ remoteChunk_mem ..
  · have hp := copyParts_mem (s.beginChunk g c j) g c (c.parts j) []
    split
    · trivial
    · next e => rw [e] at hp; exact (stopCopy_mem ..).trans (Eq.trans hp hb)
    · next e => rw [e] at hp; exact (sendChunk_mem ..).trans (Eq.trans hp hb)

theorem startChunk_mem (s : State) (g : Nat) (c : CopyCmd) : SomeMem s.mem (s.startChunk g c) := by
  intro t e
  obtain ⟨j, _, he⟩ := Option.bind_eq_some_iff.mp e
  have ht := tryChunk_mem s g c j
  cases hc : s.tryChunk g c j with
  | ok u =>
    rw [hc] at ht he
    exact Option.some.inj he ▸ ht
  | error x =>
    rw [hc] at he
    exact nomatch he

theorem execCopyChunkStart_canon (h : Canon s) (core : Nat) : NextCanon (execCopyChunkStart core s) := by
  refine ifUnit_canon ?_
  split
  · exact foldl_canon (fun _ _ h => canon_of_mem (hold_mem ..) h) _ h
  · exact getD_canon (startChunk_mem _ _ _) h

theorem execCopyChunkComplete_canon (h : Canon s) (core : Nat) : NextCanon (execCopyChunkComplete core s) := by
  refine ifUnit_canon ?_
  split
  · exact h
  · simpa [Canon] using h

theorem execCkeyApply_canon (h : Canon s) (stk : Nat) : NextCanon (execCkeyApply stk s) := by
  refine ifUnit_canon ?_
  split
  · exact h
  · next g c _ =>
    dsimp only
    split
    · simpa [Canon] using h
    · have hr := copyRead_mem s g c c.src.toNat 40
      split
      · split
        · simpa [Canon] using h
        · exact h
      · next e => rw [e] at hr; exact canon_of_mem ((endCopy_mem ..).trans hr) h
      · next bs t e =>
        rw [e] at hr
        have ht := canon_of_mem hr h
        split <;> simpa [Canon] using ht

/-! ## Residency, service control and hosts -/

theorem execServiceControlWrite_canon (h : Canon s) (stk off : Nat) (v : Word) : NextCanon (execServiceControlWrite stk off v s) :=
  ifUnit_canon (getD_canon (controlWrite_mem _ _ _ _) h)

theorem execCounterClear_canon (h : Canon s) (stk off : Nat) : NextCanon (execCounterClear stk off s) :=
  ifUnit_canon (getD_canon (controlWrite_mem _ _ _ _) h)

theorem execResidencyCommand_canon (h : Canon s) (stk : Nat) (v : Word) : NextCanon (execResidencyCommand stk v s) :=
  ifUnit_canon (getD_canon (controlWrite_mem _ _ _ _) h)

theorem execHostRead_canon (h : Canon s) (port dom pa n : Nat) (ide : Bool) : NextCanon (execHostRead port dom pa n ide s) := by
  refine ifUnit_canon (canon_ite (canon_ite h h) (canon_ite ?_ ?_))
  · simpa [Canon] using h
  · split
    · exact h
    · exact canon_of_mem (outsideRead_mem ..) h

theorem execTdiEnterRun_canon (h : Canon s) (d : Nat) (run : Bool) : NextCanon (execTdiEnterRun d run s) := by
  refine ifUnit_canon (canon_ite h ?_)
  split
  · simpa [Canon] using h
  · simpa [Canon] using h
  · exact h

theorem execDoorbell_canon (h : Canon s) (stk ch port : Nat) (v : BitVec 32) : NextCanon (execDoorbell stk ch port v s) := by
  refine ifUnit_canon ?_
  split
  · exact h
  · simpa [Canon, apply_ite] using h

theorem execDownResync_canon (h : Canon s) (stk ch : Nat) : NextCanon (execDownResync stk ch s) := by
  refine ifUnit_canon ?_
  split
  · exact h
  · simpa [Canon] using h

theorem execRemoteWrite_canon (h : Canon s) (stk entry off : Nat) (add : Bool) (bytes : List Byte) :
    NextCanon (execRemoteWrite stk entry off add bytes s) := by
  refine ifUnit_canon (canon_ite h ?_)
  split
  · exact canon_of_mem (arrivePut_mem ..) h
  · exact h

theorem execFrameResend_canon (h : Canon s) (peer : Nat) : NextCanon (execFrameResend peer s) :=
  nextCanon_next.mpr (canon_ite h (foldl_canon (fun _ _ h => canon_of_mem (State.send_mem ..) h) _ h))

theorem execConnectionFail_canon (h : Canon s) (peer : Nat) : NextCanon (execConnectionFail peer s) := by
  refine nextCanon_next.mpr (canon_ite h (foldl_canon (fun s x h => ?_) _ h))
  simpa [Canon] using h

/-! ## Launches, contexts and tests -/

theorem execIdleSplit_canon (h : Canon s) (core : Nat) : NextCanon (execIdleSplit core s) := by
  refine ifUnit_canon ?_
  split
  · refine canon_ite (getD_canon (splitInto_mem _ _ _ _ _) h) ?_
    split
    · exact h
    · next e => exact canon_of_mem ((State.modCore_mem ..).trans (askSplit_mem e)) h
  · exact h

theorem resumeOne_mem (s : State) (x : Hart) (g slot : Nat) : SomeMem s.mem (s.resumeOne x g slot) := by
  unfold State.resumeOne
  split
  · exact someMem_none
  · refine someMem_some.mpr ?_
    rw [refreshAll_mem, modCtx_mem, State.modCore_mem, foldl_mem (fun _ _ => cacheRead_mem ..)]
    split <;> simp

theorem resumeEach_mem (s : State) (xs : List Hart) : SomeMem s.mem (s.resumeEach xs) := by
  induction xs generalizing s with
  | nil => exact someMem_some.mpr rfl
  | cons x xs ih =>
    unfold State.resumeEach
    split
    · split
      · next e => exact resumeOne_mem _ _ _ _ _ e ▸ ih _
      · exact someMem_none
    · exact someMem_none

theorem resumeAll_mem (s : State) (x : Hart) (g slot : Nat) : SomeMem s.mem (s.resumeAll x g slot) := by
  unfold State.resumeAll
  dsimp only
  split
  · exact someMem_none
  · split
    · next u e =>
      intro t ht
      obtain ⟨v, hv, rfl⟩ := Option.map_eq_some_iff.mp ht
      have hm : v.mem = s.mem := (resumeEach_mem _ _ _ hv).trans (resumeOne_mem _ _ _ _ _ e)
      split
      · exact (checkGrant_mem ..).trans hm
      · exact hm
    · exact someMem_none

theorem execResume_canon (h : Canon s) (x core slot : Nat) : NextCanon (execResume x core slot s) := by
  refine ifUnit_canon ?_
  split
  · exact getD_canon (resumeAll_mem _ _ _ _) h
  · exact h

theorem moveHeld_mem (s : State) (x : Hart) (g : Nat) : SomeMem s.mem (s.moveHeld x g) := by
  simp [State.moveHeld]

theorem execThermalMigration_canon (h : Canon s) (x core : Nat) : NextCanon (execThermalMigration x core s) := by
  have hm : ∀ f, Canon (s.modCtx x f) := fun _ => canon_of_mem (modCtx_mem ..) h
  refine ifUnit_canon ?_
  split
  · exact h
  · refine canon_ite h (canon_ite (canon_ite (hm _) (getD_canon (moveHeld_mem _ _ _) (hm _))) ?_)
    exact canon_of_mem (askPreempt_mem ..) (hm _)

theorem execSpdmKeyWrap_canon (h : Canon s) (key : BitVec 256) : NextCanon (execSpdmKeyWrap key s) :=
  nextCanon_next.mpr (canon_ite (foldl_canon (fun _ _ h => canon_of_mem (State.modStack_mem ..) h) allStacks h) h)

theorem execInfieldTestEnd_canon (h : Canon s) (core : Nat) (failed : Word) : NextCanon (execInfieldTestEnd core failed s) := by
  refine ifUnit_canon ?_
  split
  · simpa [Canon] using h
  · split
    · exact canon_of_mem (modCtx_mem ..) h
    · exact h

theorem execCoreResetEnd_canon (h : Canon s) (core : Nat) : NextCanon (execCoreResetEnd core s) := by
  refine ifUnit_canon ?_
  split
  · exact canon_ite h h
  · exact h

end Sys2Proof.HomeMemory

/-! Canonical memory through the words and members that a hart executes. -/

namespace Sys2Proof.HomeMemory

open Sys2Proof.Machine

variable {s : State}

/-! ## Scalar words -/

theorem scalar_canon (h : Canon s) {i : Instr} {sd : SReg} {x : State → Word} : NextCanon (scalar s i sd x) :=
  word_canon h (setS_leaves h ..)

theorem branch_canon (h : Canon s) {i : Instr} {imm : BitVec 15} {taken : State → Bool} : NextCanon (branch s i imm taken) :=
  word_canon h h

theorem roundWord_canon (h : Canon s) {i : Instr} {r : Rnd} {body : State → Rnd → Nat → Res State}
    (hb : ∀ t m u, Canon t → Leaves Canon (body t m u)) : NextCanon (roundWord s i r body) := by
  unfold roundWord
  split
  · exact word_canon h h
  · exact word_canon h (leaves_ite (hb _ _ _ h) (hb _ _ _ h))

theorem floatWord_canon (h : Canon s) {i : Instr} {r : Rnd} {dbl : Bool} {sd : SReg} {op : State → Rnd → FNum × FpFlags} :
    NextCanon (floatWord s i r dbl sd op) :=
  roundWord_canon h fun _ _ _ h => setF_leaves h ..

theorem minMaxWord_canon (h : Canon s) {i : Instr} {dbl : Bool} {sd sa sb : SReg} {op : FNum → FNum → FNum} :
    NextCanon (minMaxWord s i dbl sd sa sb op) :=
  word_canon h (setF_leaves h ..)

theorem loadWord_canon (h : Canon s) {i : Instr} {signed : Bool} {n : Nat} {sd sa : SReg} {imm : BitVec 15} :
    NextCanon (loadWord s i signed n sd sa imm) :=
  word_canon h (andThen_leaves (load_leaves h ..) (fun _ h => h) fun _ h => setS_leaves h ..)

theorem storeWord_canon (h : Canon s) {i : Instr} {n : Nat} {sb sa : SReg} {imm : BitVec 15} :
    NextCanon (storeWord s i n sb sa imm) :=
  word_canon h (then_leaves (store_leaves h ..) fun _ h => h)

theorem homeWord_canon (h : Canon s) {i : Instr} {a : State → Word} {n : Nat} {k : Access} {acq rel signed : Bool}
    {el : State → Nat → HomeEl} {sd : SReg} : NextCanon (homeWord s i a n k acq rel signed el sd) := by
  have hsend : ∀ {t : State} {p : Nat}, Canon t →
      Leaves Canon ((t.commitHome rel [el t p]).then fun s' => .wait s' (.requested t.nextKey)) := fun h =>
    then_leaves (commitHome_leaves h ..) fun _ h => h
  refine word_canon h ?_
  split
  · exact h
  · split
    · next e => exact setLate_leaves (canon_of_mem (acquireKey_mem e) h) ..
    · exact h
  · dsimp only
    split
    · exact hsend h
    · exact check_leaves (check_leaves (andThen_leaves (access_leaves h ..) (fun _ h => h) fun _ h => hsend h))

theorem csrWord_canon (h : Canon s) {i : Instr} {sd : SReg} {csr : BitVec 15} {writes : Bool} {new : State → Word → Option Word} :
    NextCanon (csrWord s i sd csr writes new) := by
  unfold csrWord
  refine word_canon h (leaves_ite leaves_trap ?_)
  dsimp only
  split
  · exact canon_of_mem (csrWrite_mem ..) h
  · exact h

theorem execLdsd_canon (h : Canon s) (sd sa : SReg) (imm : BitVec 15) : NextCanon (execLdsd sd sa imm s) :=
  word_canon h (sdmCheck_leaves (setS_leaves h ..))

theorem execStsd_canon (h : Canon s) (sb sa : SReg) (imm : BitVec 15) : NextCanon (execStsd sb sa imm s) :=
  word_canon h (sdmCheck_leaves h)

theorem execJal_canon (h : Canon s) (sd : SReg) (imm : BitVec 20) : NextCanon (execJal sd imm s) :=
  word_canon h (jump_leaves h ..)

theorem execJalr_canon (h : Canon s) (sd sa : SReg) (imm : BitVec 15) : NextCanon (execJalr sd sa imm s) :=
  word_canon h (leaves_ite leaves_trap (check_leaves (jump_leaves h ..)))

theorem execFcmp_canon (h : Canon s) (c : FCond) (dbl : Bool) (sd sa sb : SReg) : NextCanon (execFcmp c dbl sd sa sb s) :=
  word_canon h (setF_leaves h ..)

theorem execFcvt_canon (h : Canon s) (dst src : CvtKind) (r : Rnd) (sd sa : SReg) : NextCanon (execFcvt dst src r sd sa s) :=
  roundWord_canon h fun _ _ _ h => setF_leaves h ..

/-! ## Launch and ordering words -/

/-- WNEXT's take of a tile, with the answer when none is left. -/
theorem takeTile_answer_leaves (h : Canon s) {sd : SReg} {none_ : State → Res State} (hn : ∀ t, Canon t → Leaves Canon (none_ t)) :
    Leaves Canon (match s.takeTile with
      | (s, some x) => s.setLate sd x
      | (s, none) => none_ s) := by
  have ht := takeTile_canon h
  split
  · next e => rw [e] at ht; exact setLate_leaves ht ..
  · next e => rw [e] at ht; exact hn _ ht

theorem execWnext_canon (h : Canon s) (sd : SReg) : NextCanon (execWnext sd s) := by
  have hlast : ∀ t : State, Canon t → Leaves Canon (match t.takeTile with
      | (s, some x) => s.setLate sd x
      | (s, none) => s.setLate sd (BitVec.allOnes 64)) := fun _ h => takeTile_answer_leaves h fun _ h => setLate_leaves h ..
  refine word_canon h (check_leaves ?_)
  dsimp only
  split
  · exact h
  · exact leaves_ite (setLate_leaves h ..) (hlast _ h)
  · refine takeTile_answer_leaves h fun t ht => ?_
    split
    · next e => exact splitFor_canon ht e
    · next e => exact hlast _ (splitFor_canon ht e)
    · exact setLate_leaves ht ..

theorem execWsplit_canon (h : Canon s) (sd : SReg) : NextCanon (execWsplit sd s) := by
  refine word_canon h ?_
  dsimp only
  split
  · split
    · next e => exact setLate_leaves (canon_of_mem (splitInto_mem _ _ _ _ _ _ (Option.ite_none_right_eq_some.mp e).2) h) ..
    · exact setLate_leaves h ..
  · exact setLate_leaves h ..

theorem execWdone_canon (h : Canon s) : NextCanon (execWdone s) :=
  word_canon h (check_leaves (canon_of_mem (t := s.dropTile.next) (dropTile_mem s) h))

theorem execCtwait_canon (h : Canon s) (sd sa sb : SReg) : NextCanon (execCtwait sd sa sb s) :=
  word_canon h (check_leaves (leaves_ite (setLate_leaves (canon_of_mem ((raiseFloor_mem ..).trans (refreshAll_mem ..)) h) ..) h))

theorem execCtinc_canon (h : Canon s) (sd sa sb : SReg) : NextCanon (execCtinc sd sa sb s) := by
  refine word_canon h (check_leaves ?_)
  dsimp only
  split
  · refine leaves_ite (setLate_leaves h ..) (leaves_ite h (setLate_leaves (canon_of_mem ?_ h) ..))
    simp
  · exact then_leaves (publish_leaves h ..) fun _ h => h

theorem execLaunch_canon (h : Canon s) (sa : SReg) : NextCanon (execLaunch sa s) := by
  refine word_canon h (check_leaves (andThen_leaves (loadWords_leaves h ..) (fun _ h => h) fun x hx => ?_))
  dsimp only
  split
  · trivial
  · split
    · exact hx
    · refine leaves_ite (leaves_ite hx (canon_of_mem (s := x.1) ?_ hx)) (then_leaves (publish_leaves hx ..) fun t ht => ?_)
      · simp
      · exact canon_of_mem (s := t) (by simp) ht

theorem execExit_canon (h : Canon s) : NextCanon (execExit s) :=
  word_canon h (leaves_ite h (then_leaves (publish_leaves (canon_of_mem (dropTile_mem s) h) ..) fun _ h => leave_canon h))

theorem execPub_canon (h : Canon s) (sc : Scope) : NextCanon (execPub sc s) :=
  word_canon h (publishThen_leaves h fun _ h => h)

theorem execAcq_canon (h : Canon s) (k : LogSet) (sa sb : SReg) : NextCanon (execAcq k sa sb s) :=
  word_canon h (acquireThen_leaves h ..)

theorem execPubacq_canon (h : Canon s) (sc : Scope) (k : LogSet) (sa sb : SReg) : NextCanon (execPubacq sc k sa sb s) :=
  word_canon h (leaves_ite (acquireThen_leaves h ..) (publishThen_leaves h fun _ h => acquireThen_leaves h ..))

theorem execBar_canon (h : Canon s) : NextCanon (execBar s) := by
  refine word_canon h ?_
  dsimp only
  split
  · exact h
  · exact acquireThen_leaves h ..
  · exact acquireThen_leaves h ..
  · exact acquireThen_leaves (s := s.modHart fun h => { h with passed := none }) h ..
  · refine leaves_ite h (publishThen_leaves h fun t ht => ?_)
    have ha : Canon t.arrive := canon_of_mem (arrive_mem t) ht
    split
    · exact acquireThen_leaves ha ..
    · exact ha

theorem execConvoyRetire_canon (h : Canon s) : NextCanon (execConvoyRetire s) := by
  unfold execConvoyRetire
  have hpark : ∀ {t : State} {p : Phase}, Canon t → Canon (t.park p) := fun h => canon_of_mem (park_mem ..) h
  have hc := fun es => commitAll_canon h s.hart.cv.sent [] es
  refine nextCanon_next.mpr (canon_ite h (canon_ite (hpark h) ?_))
  dsimp only
  split
  · exact canon_ite (canon_of_mem (holdConvoy_mem ..) (hc _)) (hpark h)
  · exact canon_ite (hpark (hc _)) (finishConvoy_canon (hc _) _)

/-! ## System words -/

theorem execTrap_canon (h : Canon s) (imm : BitVec 8) : NextCanon (execTrap imm s) := word_canon h (takeTrap_canon h ..)

theorem execIllegalWord_canon (h : Canon s) (tval : Word) : NextCanon (execIllegalWord tval s) := takeTrap_canon h ..

theorem execAsyncTrap_canon (h : Canon s) : NextCanon (execAsyncTrap s) := by
  unfold execAsyncTrap
  split
  · exact h
  · split
    · exact takeTrap_canon (s := State.modHart _ _) h ..
    · exact takeTrap_canon (s := State.modHart _ _) h ..
    · exact h

theorem execTret_canon (h : Canon s) : NextCanon (execTret s) := by
  refine word_canon h (leaves_ite leaves_trap ?_)
  split
  · exact canon_ite (canon_of_mem (askPreempt_mem ..) h) h
  · trivial

theorem execEvwait_canon (h : Canon s) (sd sa : SReg) : NextCanon (execEvwait sd sa s) := by
  refine word_canon h (leaves_ite (setLate_leaves (s := State.modHart _ _) h ..) ?_)
  split
  · exact setLate_leaves h ..
  · exact h
  · exact h

theorem execHalt_canon (h : Canon s) : NextCanon (execHalt s) := by
  refine word_canon h ?_
  split
  · exact h
  · exact h
  · exact canon_of_mem (reportHalt_mem s) h

theorem execPtinv_canon (h : Canon s) (sa : SReg) : NextCanon (execPtinv sa s) := word_canon h h

theorem execCapfence_canon (h : Canon s) (sd sa : SReg) : NextCanon (execCapfence sd sa s) :=
  word_canon h (leaves_ite leaves_trap (canon_of_mem (t := State.next _) (fenceOwn_mem ..) h))

theorem execCaptest_canon (h : Canon s) (sd sa : SReg) : NextCanon (execCaptest sd sa s) := by
  refine word_canon h ?_
  split
  · exact setLate_leaves (canon_of_mem (endTest_mem ..) h) ..
  · exact h
  · exact leaves_ite h h

theorem execBbox_canon (h : Canon s) (sa sb : SReg) : NextCanon (execBbox sa sb s) :=
  word_canon h (canon_of_mem (t := State.next _) (pfbHart_mem ..) h)

theorem execTstamp_canon (h : Canon s) (sd : SReg) : NextCanon (execTstamp sd s) := word_canon h (setS_leaves h ..)

theorem execVsetl_canon (h : Canon s) (sd sa : SReg) (tag : Tag) (c : Clus) : NextCanon (execVsetl sd sa tag c s) := by
  unfold execVsetl
  refine word_canon h (fragCheck_leaves (leaves_ite leaves_trap (leaves_ok.mpr (canon_of_mem ?_ h))))
  simp

theorem execVsetlG_canon (h : Canon s) (sd sa : SReg) (tag : Tag) (c : Clus) : NextCanon (execVsetlG sd sa tag c s) := by
  have hl : ∀ {t : State} {n : Nat}, Canon t → Canon (t.setLength sd n) := fun h => canon_of_mem (setLength_mem ..) h
  unfold execVsetlG
  refine word_canon h ?_
  split
  · exact h
  · exact hl h
  · exact hl (t := State.modHart _ _) h
  · refine leaves_ite h (fragCheck_leaves ?_)
    dsimp only
    have hg : ∀ {t : State} {g : Nat}, Canon t → Canon (t.checkGrant g) := fun h => canon_of_mem (checkGrant_mem ..) h
    split
    · exact hl (hg h)
    · exact hg h

theorem execFrgpop_canon (h : Canon s) : NextCanon (execFrgpop s) := by
  refine word_canon h ?_
  split
  · exact h
  · exact h

theorem execVbany_canon (h : Canon s) (p : PReg) (imm : BitVec 15) : NextCanon (execVbany p imm s) := word_canon h h

theorem execVbnone_canon (h : Canon s) (p : PReg) (imm : BitVec 15) : NextCanon (execVbnone p imm s) := word_canon h h

theorem execVbrf_canon (h : Canon s) (p : PReg) (imm : BitVec 15) : NextCanon (execVbrf p imm s) :=
  word_canon h (leaves_ite h (leaves_ite h (leaves_ite leaves_trap h)))

/-! ## Members that compute -/

theorem polyMember_canon (h : Canon s) {i : Instr} {p : Poly} {g : Gov} {vd va : VReg} {b : VB} {c : Option VReg} {r : Rnd} :
    NextCanon (polyMember s i p g vd va b c r) :=
  member_canon h (withTag_leaves fun _ => stage2_leaves fun _ _ => finishV_leaves h)

theorem unaryMember_canon (h : Canon s) {i : Instr} {p : Poly} {g : Gov} {vd va : VReg} {r : Rnd} :
    NextCanon (unaryMember s i p g vd va r) :=
  member_canon h (withTag_leaves fun _ => stage2_leaves fun _ _ => finishV_leaves h)

theorem bitMember_canon (h : Canon s) {i : Instr} {cls : Nat} {g : Gov} {vd va : VReg} {b : Option VB} {ok : Tag → Tag → Bool}
    {f : Tag → Nat → Nat → Nat × FpFlags} : NextCanon (bitMember s i cls g vd va b ok f) :=
  member_canon h (withTag_leaves fun _ => stage2_leaves fun _ _ => finishV_leaves h)

theorem shiftMember_canon (h : Canon s) {i : Instr} {g : Gov} {vd va : VReg} {b : VB} {f : Tag → Nat → Nat → Nat × FpFlags} :
    NextCanon (shiftMember s i g vd va b f) :=
  member_canon h (withTag_leaves fun _ => stage2_leaves fun _ _ => finishV_leaves h)

theorem moveMember_canon (h : Canon s) {i : Instr} {g : Gov} {vd va : VReg} {vb : Option VReg} {ok : Tag → Tag → Bool} {keep : Bool}
    {f : State → Nat → Option Nat} : NextCanon (moveMember s i g vd va vb ok keep f) :=
  member_canon h (withTag_leaves fun _ => stage2_leaves fun _ _ => finishV_leaves h)

theorem predMember_canon (h : Canon s) {i : Instr} {g : Gov} {pd : PReg} {f : State → Nat → Bool} :
    NextCanon (predMember s i g pd f) :=
  member_canon h (checkedBy_leaves h fun _ _ h => canon_of_mem (writeP_mem ..) h)

theorem execVcmp_canon (h : Canon s) (g : Gov) (pd : PReg) (va : VReg) (b : VB) (c : VCond) : NextCanon (execVcmp g pd va b c s) :=
  member_canon h (withTag_leaves fun _ => formats_leaves (lengths_leaves (parity_leaves
    (checkedBy_leaves h fun _ _ h => canon_of_mem (writeP_mem ..) h))))

theorem execVsel_canon (h : Canon s) (g : Gov) (vd va vb : VReg) (pc : PReg) : NextCanon (execVsel g vd va vb pc s) :=
  member_canon h (withTag_leaves fun _ => stage2_leaves fun _ _ => finishV_leaves h)

theorem execVcvt_canon (h : Canon s) (g : Gov) (vd va : VReg) (d : Tag) (sat : Bool) (r : Rnd) :
    NextCanon (execVcvt g vd va d sat r s) :=
  member_canon h (withTag_leaves fun _ => widthChange_leaves (stage2_leaves fun _ _ => finishV_leaves h))

theorem execVscale_canon (h : Canon s) (g : Gov) (vd va : VReg) (b : VB) (r : Rnd) : NextCanon (execVscale g vd va b r s) :=
  member_canon h (withTag_leaves fun _ => stage2_leaves fun _ _ => leaves_ite (finishV_leaves h) (finishV_leaves (s := State.raise _ _) h))

theorem execVqnt_canon (h : Canon s) (g : Gov) (vd va : VReg) (d : Tag) (r : Rnd) : NextCanon (execVqnt g vd va d r s) :=
  member_canon h (withTag_leaves fun _ => widthChange_leaves (stage2_leaves fun _ _ => finishV_leaves (s := State.raise _ _) h))

theorem execVmov_canon (h : Canon s) (g : Gov) (vd va : VReg) : NextCanon (execVmov g vd va s) :=
  member_canon h (stage2_leaves fun _ _ => finishV_leaves h)

theorem execVsplat_canon (h : Canon s) (g : Gov) (vd : VReg) (ss : SReg) (d : Tag) : NextCanon (execVsplat g vd ss d s) :=
  member_canon h (withTag_leaves fun _ => stage2_leaves fun _ _ => finishV_leaves h)

theorem execViota_canon (h : Canon s) (g : Gov) (vd : VReg) (ss : SReg) (d : Tag) (sat : Bool) : NextCanon (execViota g vd ss d sat s) :=
  member_canon h (withTag_leaves fun _ => stage2_leaves fun _ _ => finishV_leaves h)

theorem execVput_canon (h : Canon s) (g : Gov) (vd va vb : VReg) (px : PReg) : NextCanon (execVput g vd va vb px s) :=
  member_canon h (withTag_leaves fun _ => stage2_leaves fun _ _ => checkedBy_leaves h fun _ _ h =>
    canon_ite (canon_of_mem (writeV_mem ..) h) (canon_of_mem (t := State.modRegs _ _) (writeV_mem ..) h))

theorem execVcomp_canon (h : Canon s) (g : Gov) (vd va : VReg) (sd : SReg) : NextCanon (execVcomp g vd va sd s) :=
  member_canon h (withTag_leaves fun _ => stage2_leaves fun _ _ => checkedRes_leaves h fun _ _ h =>
    then_leaves (leaves_ite h (memberS_leaves h ..)) fun _ h => canon_of_mem (writeV_mem ..) h)

theorem execVexpd_canon (h : Canon s) (g : Gov) (vd va : VReg) : NextCanon (execVexpd g vd va s) :=
  member_canon h (withTag_leaves fun _ => stage2_leaves fun _ _ => checkedBy_leaves h fun _ _ h => canon_of_mem (writeV_mem ..) h)

theorem execVred_canon (h : Canon s) (g : Gov) (op : RedOp) (ord sat : Bool) (r : Rnd) (vd va vb : VReg) (sd : SReg) :
    NextCanon (execVred g op ord sat r vd va vb sd s) :=
  member_canon h (withTag_leaves fun _ => formats_leaves (withMode_leaves fun _ => lengths_leaves (parity_leaves
    (leaves_ite h (checkedRes_leaves h fun _ _ h => then_leaves (leaves_ite h (memberS_leaves h ..)) fun _ h => h)))))

theorem execVscan_canon (h : Canon s) (g : Gov) (op : RedOp) (ex sat : Bool) (r : Rnd) (vd va : VReg) :
    NextCanon (execVscan g op ex sat r vd va s) :=
  member_canon h (withTag_leaves fun _ => stage2_leaves fun _ _ => checkedBy_leaves h fun _ _ h => canon_of_mem (writeV_mem ..) h)

theorem execVconf_canon (h : Canon s) (g : Gov) (pd : PReg) (va : VReg) (sd : SReg) : NextCanon (execVconf g pd va sd s) :=
  member_canon h (withTag_leaves fun _ => formats_leaves (lengths_leaves (parity_leaves (checkedRes_leaves h fun _ _ h =>
    then_leaves (leaves_ite h (memberS_leaves h ..)) fun _ h => canon_of_mem (writeP_mem ..) h))))

theorem execVexts_canon (h : Canon s) (g : Gov) (sd : SReg) (va : VReg) (sk : SReg) (keep : Bool) :
    NextCanon (execVexts g sd va sk keep s) := by
  refine member_canon h (withTag_leaves fun _ => formats_leaves (lengths_leaves (parity_leaves (leaves_ite h ?_))))
  dsimp only
  split
  · exact checkedRes_leaves h fun _ _ h => memberS_leaves h ..
  · exact leaves_ite h (memberS_leaves h ..)

theorem execVinss_canon (h : Canon s) (g : Gov) (vd : VReg) (ss sk : SReg) : NextCanon (execVinss g vd ss sk s) :=
  member_canon h (withTag_leaves fun _ => formats_leaves (lengths_leaves (leaves_ite h (checkedBy_leaves h fun _ _ h => h))))

theorem execVtag_canon (h : Canon s) (vd : VReg) (t : Tag) : NextCanon (execVtag vd t s) :=
  member_canon h (formats_leaves (checkedBy_leaves h fun _ _ h => h))

theorem execVtagq_canon (h : Canon s) (sd : SReg) (va : VReg) : NextCanon (execVtagq sd va s) :=
  member_canon h (checkedRes_leaves h fun _ _ h => memberS_leaves h ..)

theorem execPsetc_canon (h : Canon s) (g : Gov) (pd : PReg) (ss : SReg) : NextCanon (execPsetc g pd ss s) :=
  member_canon h (checkedBy_leaves h fun _ _ h => canon_ite h (canon_of_mem (writeP_mem ..) h))

theorem execPpack_canon (h : Canon s) (vd : VReg) (pa : BitVec 2) (hi : Bool) : NextCanon (execPpack vd pa hi s) :=
  member_canon h (formats_leaves (checkedBy_leaves h fun _ _ h => h))

theorem execPunpack_canon (h : Canon s) (pd : BitVec 2) (va : VReg) (hi : Bool) : NextCanon (execPunpack pd va hi s) :=
  member_canon h (parity_leaves (checkedBy_leaves h fun _ _ h => h))

theorem execPmovs_canon (h : Canon s) (sd : SReg) (pa : PReg) (sk : SReg) : NextCanon (execPmovs sd pa sk s) :=
  member_canon h (checkedRes_leaves h fun _ _ h => memberS_leaves h ..)

theorem execPlead_canon (h : Canon s) (g : Gov) (sd : SReg) (pa : PReg) : NextCanon (execPlead g sd pa s) :=
  member_canon h (activeScalar_leaves h ..)

theorem execPnum_canon (h : Canon s) (g : Gov) (sd : SReg) (pa : PReg) : NextCanon (execPnum g sd pa s) :=
  member_canon h (activeScalar_leaves h ..)

/-! ## Matrix members -/

theorem execTshape_canon (h : Canon s) (sd sm sn sk : SReg) (f : Tag) : NextCanon (execTshape sd sm sn sk f s) :=
  member_canon h (formats_leaves (leaves_ite h (memberS_leaves (s := State.modRegs _ _) h ..)))

theorem execMxzero_canon (h : Canon s) (acc : BitVec 2) : NextCanon (execMxzero acc s) := member_canon h h

theorem execMxpert_canon (h : Canon s) (sa : SReg) : NextCanon (execMxpert sa s) := member_canon h (check_leaves h)

theorem mmaMember_canon (h : Canon s) {i : Instr} {g : Gov} {n : BitVec 2} {va vb : VReg} {cls : Nat}
    {pair : Tag → Tag → Option Bool} : NextCanon (mmaMember s i g n va vb cls pair) := by
  refine member_canon h ?_
  dsimp only
  split
  · trivial
  · next int _ =>
    refine check_leaves (formats_leaves (parity_leaves (tileParity_leaves (leaves_ite h ?_))))
    have hc := checkTile_mem s n int cls
    split
    · next e => exact canon_of_mem (t := State.raise _ _) (e ▸ hc _ _ :) h
    · next e => exact takeTrap_canon (canon_of_mem (e ▸ hc _ _ :) h) ..

theorem execMxext_canon (h : Canon s) (g : Gov) (vd : VReg) (acc : BitVec 2) (sr : SReg) (d : Tag) (int sat : Bool) (r : Rnd) :
    NextCanon (execMxext g vd acc sr d int sat r s) :=
  member_canon h (withTag_leaves fun _ => formats_leaves (withMode_leaves fun _ => tileParity_leaves
    (checkedBy_leaves h fun _ _ h => canon_of_mem (writeV_mem ..) h)))

theorem execMxins_canon (h : Canon s) (g : Gov) (acc : BitVec 2) (va : VReg) (sr : SReg) : NextCanon (execMxins g acc va sr s) :=
  member_canon h (withTag_leaves fun _ => formats_leaves (parity_leaves (checkedBy_leaves h fun _ _ h => h)))

/-! ## Memory members -/

theorem loadMember_canon (h : Canon s) {i : Instr} {cls : Nat} {g : Gov} {vd : VReg} {off : BitVec 8} {sb : SReg} {form : State → Form}
    {ssc : SReg} {ff ck : Bool} : NextCanon (loadMember s i cls g vd off sb form ssc ff ck) := by
  refine member_canon h (vmTags_leaves (vmRegs_leaves (vmAddrs_leaves h fun t as ht => afterProbe_leaves ht fun t xs ht => ?_)))
  exact then_leaves (finishLoad_leaves (canon_ite (canon_of_mem (chunkRefresh_mem ..) ht) ht)) fun _ h => canon_ite h h

theorem storeMember_canon (h : Canon s) {i : Instr} {cls : Nat} {g : Gov} {va : VReg} {off : BitVec 8} {sb : SReg} {form : State → Form}
    {ssc : SReg} : NextCanon (storeMember s i cls g va off sb form ssc) :=
  member_canon h (vmTags_leaves (vmRegs_leaves (vmAddrs_leaves h fun _ _ h => afterProbe_leaves h fun _ _ h => parity_leaves
    (foldl_canon (fun _ _ h => canon_of_mem (effect_mem ..) h) _ h))))

theorem scratchMember_canon (h : Canon s) {i : Instr} {g : Gov} {v : VReg} {off : BitVec 8} {sb : SReg} {vi : VReg} {reads : List VReg}
    {k : State → Nat → List (Nat × Nat) → State} (hk : ∀ t w os, Canon t → Canon (k t w os)) :
    NextCanon (scratchMember s i g v off sb vi reads k) := by
  refine member_canon h (vmTags_leaves (vmRegs_leaves (vmAddrs_leaves h fun t os ht => ?_)))
  split
  · trivial
  · exact parity_leaves (hk _ _ _ ht)

theorem execVlsx_canon (h : Canon s) (g : Gov) (vd : VReg) (off : BitVec 8) (sb : SReg) (vi : VReg) :
    NextCanon (execVlsx g vd off sb vi s) :=
  scratchMember_canon h fun _ _ _ h => canon_of_mem (writeV_mem ..) h

theorem execVssx_canon (h : Canon s) (g : Gov) (va : VReg) (off : BitVec 8) (sb : SReg) (vi : VReg) :
    NextCanon (execVssx g va off sb vi s) :=
  scratchMember_canon h fun _ _ _ h => h

theorem execVpf_canon (h : Canon s) (off : BitVec 8) (sb sn : SReg) : NextCanon (execVpf off sb sn s) := member_canon h h

theorem execVldh_canon (h : Canon s) (g : Gov) (vd : VReg) (off : BitVec 8) (sb : SReg) (vi : VReg) (acq : Bool) :
    NextCanon (execVldh g vd off sb vi acq s) := by
  refine member_canon h (vmTags_leaves (vmRegs_leaves ?_))
  dsimp only
  split
  · exact canon_ite (canon_of_mem (t := State.effect _ _) (writeV_mem ..) h) (canon_of_mem (writeV_mem ..) h)
  · exact vmAddrs_leaves h fun _ _ h => afterProbe_leaves h fun _ _ h => h

theorem execVamo_canon (h : Canon s) (g : Gov) (op : VAmoOp) (ord : Order) (va : VReg) (off : BitVec 8) (sb : SReg) (vi : VReg) :
    NextCanon (execVamo g op ord va off sb vi s) :=
  member_canon h (vmTags_leaves (vmRegs_leaves (vmAddrs_leaves h fun _ _ h => afterProbe_leaves h fun _ _ h => parity_leaves h)))

/-! ## Bank and copy members -/

theorem planeMember_canon (h : Canon s) {i : Instr} {d : Option BReg} {a : BReg} {b c : Option BReg} {bits : Option SReg}
    {writesA : Bool} {rule : BitVec 128 → BitVec 128 → BitVec 128 → BitVec 128 → Bool} {mul : Bool} :
    NextCanon (planeMember s i d a b c bits writesA rule mul) :=
  member_canon h (bankChecks_leaves h h)

theorem memoryMember_canon (h : Canon s) {i : Instr} {p : BitVec 128} {a n : Word} {store : Bool} {cmd : BankCmd → BankCmd} :
    NextCanon (memoryMember s i p a n store cmd) :=
  member_canon h (bankChecks_leaves h (check_leaves (andThen_leaves (translateAll_leaves h ..) (fun _ _ => h) fun _ _ =>
    bankChecks_leaves h (canon_of_mem (t := State.effect _ _) (setTlb_mem ..) h))))

theorem execBldp_canon (h : Canon s) (bd : BReg) (sa sb : SReg) (sgn sat : Bool) : NextCanon (execBldp bd sa sb sgn sat s) := by
  unfold execBldp
  exact memoryMember_canon h

theorem execBstp_canon (h : Canon s) (ba : BReg) (sa sb : SReg) (sgn : Bool) : NextCanon (execBstp ba sa sb sgn s) := by
  unfold execBstp
  exact memoryMember_canon h

theorem execBsetl_canon (h : Canon s) (sd sa : SReg) : NextCanon (execBsetl sd sa s) := by
  refine member_canon h ?_
  split
  · rw [leaves_ok]
    split <;> exact h
  · exact bankChecks_leaves h h

theorem execBalloc_canon (h : Canon s) (sa sb : SReg) : NextCanon (execBalloc sa sb s) := member_canon h (bankChecks_leaves h h)
theorem execBplane_canon (h : Canon s) (bd : BReg) (sa : SReg) : NextCanon (execBplane bd sa s) := member_canon h (bankChecks_leaves h h)
theorem execBnext_canon (h : Canon s) (sa : SReg) : NextCanon (execBnext sa s) := member_canon h (bankChecks_leaves h h)
theorem execBrlk_canon (h : Canon s) (sa sb sc : SReg) : NextCanon (execBrlk sa sb sc s) := member_canon h (bankChecks_leaves h h)
theorem execBrul_canon (h : Canon s) (sa sb : SReg) : NextCanon (execBrul sa sb s) := member_canon h (bankChecks_leaves h h)

theorem execBwait_canon (h : Canon s) (sd : SReg) : NextCanon (execBwait sd s) :=
  member_canon h (bankChecks_leaves h (leaves_ite h h))

theorem execBtov_canon (h : Canon s) (vd : BitVec 5) (ba : BReg) (sk : SReg) (sgn : Bool) : NextCanon (execBtov vd ba sk sgn s) := by
  have hb : ∀ r t, Canon (s.btovWrite r t) := fun _ _ => canon_of_mem (btovWrite_mem ..) h
  refine member_canon h ?_
  dsimp only
  split
  · exact canon_ite (hb ..) h
  · exact lengths_leaves (bankChecks_leaves h (hb ..))

theorem execVtob_canon (h : Canon s) (bd : BReg) (v : BitVec 5) (sk : SReg) (sgn sat : Bool) : NextCanon (execVtob bd v sk sgn sat s) :=
  member_canon h (leaves_ite leaves_trap (lengths_leaves (parity_leaves (bankChecks_leaves h h))))

theorem execBred_canon (h : Canon s) (sd : SReg) (ba : BReg) : NextCanon (execBred sd ba s) := by
  refine member_canon h ?_
  dsimp only
  split
  · rw [leaves_ok]
    split <;> exact h
  · exact bankChecks_leaves h h

theorem copyMember_canon (h : Canon s) {i : Instr} {k : BitVec 5} {pk : PReg} {code : BitVec 3} {checks : State → List (Bool × Nat)}
    {cmd : State → CopyCmd → CopyCmd} : NextCanon (copyMember s i k pk code checks cmd) :=
  member_canon h (copyChecks_leaves (leaves_ite h (canon_of_mem (t := State.effect _ _) (by simp) h)))

theorem execCwait_canon (h : Canon s) (sd smask : SReg) : NextCanon (execCwait sd smask s) := member_canon h (leaves_ite h h)

theorem execCstat_canon (h : Canon s) (sd : SReg) (k : BitVec 5) (word : BitVec 2) : NextCanon (execCstat sd k word s) :=
  member_canon h h

end Sys2Proof.HomeMemory

/-! Canonical memory through the events of the module that may write home memory, and those that take more than one step. -/

namespace Sys2Proof.HomeMemory

open Sys2Proof.Machine

variable {s : State}

/-! ## The merge engine and the bank processor -/

theorem execMergeQueueDelivery_canon (h : Canon s) (stk n : Nat) : NextCanon (execMergeQueueDelivery stk n s) := by
  unfold execMergeQueueDelivery
  split
  · trivial
  · split
    · exact h
    · split
      · exact h
      · refine nextCanon_next.mpr ?_
        split
        · exact canon_of_mem (askSector_mem ..) h
        · split
          · exact canon_ite (canon_of_mem (keyChunk_mem ..) h) h
          · exact h

theorem execMergeQueueResend_canon (h : Canon s) (stk : Nat) : NextCanon (execMergeQueueResend stk s) := by
  refine ifUnit_canon ?_
  split
  · exact h
  · exact h

theorem execMergeApply_canon (h : Canon s) (stk : Nat) : NextCanon (execMergeApply stk s) := by
  have ha : ∀ e, Canon ((s.modStack stk fun t => { t with mq := t.mq.erase e }).applyEntry stk e) := fun e =>
    applyEntry_canon (s := State.modStack _ _ _) h stk e
  have hs : ∀ e x r, Canon (s.setAside stk (fun s => s.modStack stk fun t => { t with mq := t.mq.erase e }) x r) := fun e x r =>
    setAside_canon h stk h x r
  refine ifUnit_canon ?_
  split
  · exact h
  · dsimp only
    split
    · refine canon_ite (canon_of_mem (damage_mem ..) h) ?_
      split
      · exact ha _
      · exact hs ..
    · split
      · exact ha _
      · exact hs ..

theorem execBankMicroprogramStart_canon (h : Canon s) (stk die : Nat) : NextCanon (execBankMicroprogramStart stk die s) := by
  refine ifUnit_canon ?_
  split
  · exact h
  · simpa [Canon] using h

theorem execBankCompletion_canon (h : Canon s) (stk die : Nat) (e : BankEnd) : NextCanon (execBankCompletion stk die e s) := by
  refine ifUnit_canon ?_
  dsimp only
  split
  · exact h
  · next c _ =>
    refine canon_of_mem ?_ (runBank_canon (s := s.modStack stk fun t => { t with channels := Tbl.drop t.channels die }) h c)
    simp

theorem execRowLockEffective_canon (h : Canon s) (stk n : Nat) : NextCanon (execRowLockEffective stk n s) := by
  refine ifUnit_canon ?_
  split
  · exact h
  · simpa [Canon] using h

theorem execRowRelease_canon (h : Canon s) (stk n : Nat) : NextCanon (execRowRelease stk n s) := by
  refine ifUnit_canon ?_
  dsimp only
  split
  · exact canon_of_mem (finishBank_mem ..) (releaseLock_canon (s := State.modStack _ _ _) h ..)
  · split
    · exact h
    · exact canon_ite (releaseLock_canon (canon_of_mem (takeBankKey_mem ..) h) ..) h

theorem execLeaseExpiry_canon (h : Canon s) (stk n : Nat) : NextCanon (execLeaseExpiry stk n s) := by
  refine ifUnit_canon ?_
  split
  · exact h
  · next l _ =>
    have ha := foldl_canon (f := fun s c => s.abortBank c) (fun _ _ h => abortBank_canon h _)
      ((s.stack stk).bcpq.filter fun c => c.gang == l.gang && c.touches l) h
    have hb := canon_ite (p := l.expired = true) ha (canon_of_mem (tear_mem _ stk l.gang l.log l.frames) ha)
    exact canon_ite (releaseLock_canon (canon_of_mem (takeBankKey_mem ..) hb) ..) hb

theorem execBcpWatchdogReset_canon (h : Canon s) (stk die : Nat) : NextCanon (execBcpWatchdogReset stk die s) :=
  ifUnit_canon (canon_ite h (resetBcp_canon h ..))

theorem execBcpResetEnd_canon (h : Canon s) (stk : Nat) : NextCanon (execBcpResetEnd stk s) := by
  refine ifUnit_canon ?_
  split
  · have ha := foldl_canon (f := fun s c => s.abortBank c) (fun _ _ h => abortBank_canon h _) (s.stack stk).bcpq h
    exact canon_ite ha ha
  · exact h

theorem execResidencyDone_canon (h : Canon s) (stk : Nat) : NextCanon (execResidencyDone stk s) := by
  refine ifUnit_canon ?_
  split
  · exact h
  · exact h

/-! ## Logs and replies -/

theorem execCompaction_canon (h : Canon s) (log : Nat) : NextCanon (execCompaction log s) := by
  unfold execCompaction
  refine nextCanon_next.mpr (canon_ite h (canon_of_mem (freeLog_mem ..) ?_))
  split
  · exact h
  · exact h

theorem execMemoryReply_canon (h : Canon s) (core sector : Nat) : NextCanon (execMemoryReply core sector s) := by
  refine ifUnit_canon ?_
  split
  · exact h
  · exact canon_ite (canon_of_mem ((State.modHart_mem ..).trans (select_mem ..)) h) h

/-! ## Launches and contexts -/

theorem execPlacement_canon (h : Canon s) (stk w : Nat) : NextCanon (execPlacement stk w s) := by
  refine ifUnit_canon ?_
  cases e : s.placeNext stk w with
  | none => exact h
  | some t => exact placeNext_canon h e

theorem execSplitRequest_canon (h : Canon s) (stk src w : Nat) : NextCanon (execSplitRequest stk src w s) := by
  refine ifUnit_canon ?_
  dsimp only
  split <;> simpa [Canon] using h

theorem execSplitReply_canon (h : Canon s) (stk : Nat) : NextCanon (execSplitReply stk s) := by
  refine ifUnit_canon ?_
  split
  · exact h
  · exact splitAnswered_canon h ..

theorem execDrainComplete_canon (h : Canon s) (x : Nat) : NextCanon (execDrainComplete x s) := by
  refine nextCanon_next.mpr ?_
  cases e : s.drained x with
  | none => exact h
  | some t => exact drained_canon h e

theorem execSaveComplete_canon (h : Canon s) (x : Nat) : NextCanon (execSaveComplete x s) := by
  refine nextCanon_next.mpr ?_
  split
  · exact canon_ite (saved_canon h _) h
  · exact h

/-! ## Host channels and the network -/

theorem execDownLaunchHead_canon (h : Canon s) (stk ch : Nat) : NextCanon (execDownLaunchHead stk ch s) := by
  refine ifUnit_canon ?_
  split <;> simpa [Canon] using h

theorem execDownLaunchTail_canon (h : Canon s) (stk ch : Nat) : NextCanon (execDownLaunchTail stk ch s) := by
  refine ifUnit_canon ?_
  split
  · refine canon_ite h ?_
    dsimp only
    split
    · simpa [Canon] using h
    · split
      · simpa [Canon] using h
      · split
        · exact h
        · simpa [Canon] using h
  · exact h

theorem execDownCounterAdvance_canon (h : Canon s) (stk ch : Nat) : NextCanon (execDownCounterAdvance stk ch s) := by
  refine ifUnit_canon ?_
  split <;> simpa [Canon] using h

theorem execDownNotify_canon (h : Canon s) (stk ch : Nat) : NextCanon (execDownNotify stk ch s) := by
  refine ifUnit_canon ?_
  split <;> simpa [Canon] using h

theorem execUpMessage_canon (h : Canon s) (stk ch : Nat) : NextCanon (execUpMessage stk ch s) := by
  refine ifUnit_canon ?_
  split
  · exact h
  · dsimp only
    split <;> simpa [Canon] using h

theorem execReport_canon (h : Canon s) (stk : Nat) : NextCanon (execReport stk s) := by
  refine ifUnit_canon ?_
  split
  · exact h
  · refine canon_ite h ?_
    dsimp only
    split
    · exact canon_ite (canon_of_mem (queueUp_mem ..) h) h
    · exact h

theorem execEthernetFrame_canon (h : Canon s) (peer seq ack : Nat) (bytes : List Byte) :
    NextCanon (execEthernetFrame peer seq ack bytes s) := by
  refine nextCanon_next.mpr (canon_ite h (canon_ite h (canon_ite h (canon_of_mem (State.send_mem ..) ?_))))
  split
  · exact canon_of_mem (deliverPacket_mem ..) h
  · exact h

/-! ## Signals, resets and the clock -/

theorem execThermalAlert_canon (h : Canon s) (stk die t : Nat) : NextCanon (execThermalAlert stk die t s) := by
  have ha : Canon (s.modStack stk fun x => { x with temps := x.temps.put die t }).setAlert := canon_of_mem (setAlert_mem _) h
  have hm := canon_ite (p := 95 < t) (canon_of_mem (migrateHot_mem _ stk) ha) ha
  exact ifUnit_canon (canon_ite ha (canon_ite (shutdown_canon hm) hm))

theorem receiveInput_canon (h : Canon s) (i : Inp) : NextCanon (receiveInput i s) := by
  cases i with
  | singleBit k => exact ifUnit_canon h
  | viewError g sec => exact ifUnit_canon (canon_of_mem (viewError_mem ..) h)
  | cacheError k sec => exact ifUnit_canon (canon_of_mem (cacheError_mem ..) h)
  | groupRetired k g => exact ifUnit_canon (canon_of_mem (firmwareRetire_mem ..) h)
  | modrst low => exact holdReset_canon h ..
  | powerOk high => exact holdReset_canon h ..
  | sensor n high => exact canon_of_mem (sensor_mem ..) h
  | configRequest p => exact ifUnit_canon (canon_of_mem (configRequest_mem ..) h)
  | peerPacket p bs => exact ifUnit_canon (canon_of_mem (peerPacket_mem ..) h)
  | channelHang k d => exact ifUnit_canon (canon_of_mem (hangChannel_mem ..) h)
  | bondOpen k c x b => exact ifUnit_canon (canon_of_mem (openBond_mem ..) h)
  | imageDamage k => exact ifUnit_canon (canon_ite h h)
  | stepFailure => exact nextCanon_next.mpr (canon_ite (canon_of_mem (failBringUp_mem s) h) h)

theorem execTick_canon (h : Canon s) : NextCanon (execTick s) := by
  unfold execTick
  refine nextCanon_next.mpr (canon_ite h ?_)
  extract_lets s₁ s₂ s₃ s₄ s₅
  have h₁ : Canon s₁ := canon_of_mem (State.mapCtx_mem ..) h
  clear_value s₁
  have h₂ : Canon s₂ :=
    canon_of_mem (keyChunks_mem _) (dueResets_canon (canon_of_mem ((advanceTime_mem _).trans (ageCores_mem s₁)) h₁))
  clear_value s₂
  have h₃ : Canon s₃ := foldl_canon (fun _ _ h => canon_of_mem (fetchLater_mem ..) h) _ h₂
  clear_value s₃
  have h₄ : Canon s₄ := canon_of_mem (reportPuts_mem _) (foldl_canon (fun _ _ h => canon_of_mem (serveArrivals_mem ..) h) _ h₃)
  clear_value s₄
  have h₅ : Canon s₅ := h₄
  exact canon_ite (endStep_canon h₅) h₅

end Sys2Proof.HomeMemory

/-! Canonical memory through every instruction and event, and through a step of the module. -/

namespace Sys2Proof.HomeMemory

open Sys2Proof.Machine

variable {s : State}

/-- Every instruction and event of the module keeps home memory canonical. -/
theorem exec_canon (h : Canon s) (i : Instr) : NextCanon (exec i s) := by
  cases i <;> unfold exec
  case add | sub | and | or | xor | sll | srl | sra | slt | sltu | min | max | mul | mulh | mulhu | div | divu | rem |
      remu | clz | ctz | popc | sel | addi | andi | ori | xori | slti | slli | srli | srai | lui | auipc =>
    exact scalar_canon h
  case ldB | ldH | ldW | ldD | ldBU | ldHU | ldWU => exact loadWord_canon h
  case ldh | amo | amoCas => exact homeWord_canon h
  case stB | stH | stW | stD => exact storeWord_canon h
  case ldsd => exact execLdsd_canon h ..
  case stsd => exact execStsd_canon h ..
  case beq | bne | blt | bge | bltu | bgeu => exact branch_canon h
  case jal => exact execJal_canon h ..
  case jalr => exact execJalr_canon h ..
  case vbany => exact execVbany_canon h ..
  case vbnone => exact execVbnone_canon h ..
  case vbrf => exact execVbrf_canon h ..
  case frgpop => exact execFrgpop_canon h
  case fadd | fsub | fmul | fdiv | fsqrt | ffma => exact floatWord_canon h
  case fmin | fmax => exact minMaxWord_canon h
  case fcmp => exact execFcmp_canon h ..
  case fcvt => exact execFcvt_canon h ..
  case pub => exact execPub_canon h ..
  case acq => exact execAcq_canon h ..
  case pubacq => exact execPubacq_canon h ..
  case bar => exact execBar_canon h
  case fence | npbegin | npend | yield | mxon | mxoff => exact word_canon h h
  case launch => exact execLaunch_canon h ..
  case wnext => exact execWnext_canon h ..
  case wsplit => exact execWsplit_canon h ..
  case wdone => exact execWdone_canon h
  case ctwait => exact execCtwait_canon h ..
  case ctinc => exact execCtinc_canon h ..
  case exit => exact execExit_canon h
  case csrr | csrw | csrs | csrc => exact csrWord_canon h
  case tret => exact execTret_canon h
  case evwait => exact execEvwait_canon h ..
  case halt => exact execHalt_canon h
  case ptinv => exact execPtinv_canon h ..
  case capfence => exact execCapfence_canon h ..
  case captest => exact execCaptest_canon h ..
  case bbox => exact execBbox_canon h ..
  case tstamp => exact execTstamp_canon h ..
  case trap => exact execTrap_canon h ..
  case vsetl => exact execVsetl_canon h ..
  case vsetlG => exact execVsetlG_canon h ..
  case illegalWord => exact execIllegalWord_canon h ..
  case vadd | vsub | vmul | vmulh | vfma | vfms | vnfma | vdiv | vmin | vmax => exact polyMember_canon h
  case vsqrt | vrcp | vrsq | vexp2 | vlog2 | vtanh | vabs | vneg => exact unaryMember_canon h
  case vand | vor | vxor | vnot | vclz | vpopc | vclmul => exact bitMember_canon h
  case vshl | vshr | vrot => exact shiftMember_canon h
  case vcmp => exact execVcmp_canon h ..
  case vsel => exact execVsel_canon h ..
  case vcvt => exact execVcvt_canon h ..
  case vscale => exact execVscale_canon h ..
  case vqnt => exact execVqnt_canon h ..
  case vmov => exact execVmov_canon h ..
  case vsplat => exact execVsplat_canon h ..
  case viota => exact execViota_canon h ..
  case vtag => exact execVtag_canon h ..
  case vtagq => exact execVtagq_canon h ..
  case psetc => exact execPsetc_canon h ..
  case pand | por | pxor | pnot | pandn => exact predMember_canon h
  case ppack => exact execPpack_canon h ..
  case punpack => exact execPunpack_canon h ..
  case pmovs => exact execPmovs_canon h ..
  case vperm | vslu | vsld | vzip | vunzip | vbcast => exact moveMember_canon h
  case vput => exact execVput_canon h ..
  case vcomp => exact execVcomp_canon h ..
  case vexpd => exact execVexpd_canon h ..
  case vred => exact execVred_canon h ..
  case vscan => exact execVscan_canon h ..
  case vconf => exact execVconf_canon h ..
  case vexts => exact execVexts_canon h ..
  case vinss => exact execVinss_canon h ..
  case plead => exact execPlead_canon h ..
  case pnum => exact execPnum_canon h ..
  case vld | vlds | vldx => exact loadMember_canon h
  case vst | vsts | vstx => exact storeMember_canon h
  case vlsx => exact execVlsx_canon h ..
  case vssx => exact execVssx_canon h ..
  case vldh => exact execVldh_canon h ..
  case vpf => exact execVpf_canon h ..
  case vamo => exact execVamo_canon h ..
  case tshape => exact execTshape_canon h ..
  case mma | mmas => exact mmaMember_canon h
  case mxzero => exact execMxzero_canon h ..
  case mxext => exact execMxext_canon h ..
  case mxins => exact execMxins_canon h ..
  case mxpert => exact execMxpert_canon h ..
  case bsetl => exact execBsetl_canon h ..
  case balloc => exact execBalloc_canon h ..
  case bplane => exact execBplane_canon h ..
  case brlk => exact execBrlk_canon h ..
  case brul => exact execBrul_canon h ..
  case bldp => exact execBldp_canon h ..
  case bstp => exact execBstp_canon h ..
  case btov => exact execBtov_canon h ..
  case vtob => exact execVtob_canon h ..
  case bnot | band | bor | bxor | bmaj | badd | bsub | bmulc | bmac | bmact | bcmp | bsel | bshl | bshr | bseal =>
    exact planeMember_canon h
  case bred => exact execBred_canon h ..
  case bnext => exact execBnext_canon h ..
  case bwait => exact execBwait_canon h ..
  case cpy | cpy2d | cpyd | cpye | ckey => exact copyMember_canon h
  case cwait => exact execCwait_canon h ..
  case cstat => exact execCstat_canon h ..
  case convoyRetire => exact execConvoyRetire_canon h
  case coreResetEnd => exact execCoreResetEnd_canon h ..
  case asyncTrap => exact execAsyncTrap_canon h
  case overrunFault | vbranchResolve | preemptAccept | logSpaceFreed | homeOpResult | evwaitTimeout | timeBeacon |
      raiseFusedMinimum | pldmFreeze | readPhotoFinishEntries | readCounterBlock | clearFrozen | spdmKeyExchange =>
    exact nextCanon_next.mpr (by simpa [Canon] using h)
  case preemptRequest => exact canon_of_mem (askPreempt_mem ..) h
  case drainComplete => exact execDrainComplete_canon h ..
  case saveComplete => exact execSaveComplete_canon h ..
  case resume => exact execResume_canon h ..
  case thermalMigration => exact execThermalMigration_canon h ..
  case placement => exact execPlacement_canon h ..
  case pinDrop | mergeBeaconReceive | haltRelease | stackPtinv | pfbClearFrozen | keyWrapKeyWrite | linkClearRetry |
      linkInjectArm | linkWindowEnd | perst =>
    exact ifUnit_canon h
  case memoryReply => exact execMemoryReply_canon h ..
  case mergeBeacon | mergeBeaconOverdue | launchCut | launchDone | instanceRestore | instanceSpent | infieldTestDue |
      infieldTestDeadline | refreshSlot | dramSensorRead | timeBeaconReceive | timeBeaconOverdue | pfbFreeze |
      freezeMessage | capmaskWrite | firmwareCapmaskWrite | channelBindingWrite | hostWrite | ptmRequest | tdiLeaveRun |
      flitReplay | linkPause | linkUnpause | linkRetrain | linkRetrainEnd | linkInjectFire | powerSample =>
    exact ifUnit_canon (by simpa [Canon] using h)
  case mergeApply => exact execMergeApply_canon h ..
  case compaction => exact execCompaction_canon h ..
  case mergeQueueResend => exact execMergeQueueResend_canon h ..
  case copyChunkStart => exact execCopyChunkStart_canon h ..
  case copyChunkComplete => exact execCopyChunkComplete_canon h ..
  case ckeyApply => exact execCkeyApply_canon h ..
  case idleSplit => exact execIdleSplit_canon h ..
  case splitRequest => exact execSplitRequest_canon h ..
  case splitReply => exact execSplitReply_canon h ..
  case infieldTestEnd => exact execInfieldTestEnd_canon h ..
  case bankMicroprogramStart => exact execBankMicroprogramStart_canon h ..
  case bankCompletion => exact execBankCompletion_canon h ..
  case rowLockEffective => exact execRowLockEffective_canon h ..
  case rowRelease => exact execRowRelease_canon h ..
  case leaseExpiry => exact execLeaseExpiry_canon h ..
  case bcpWatchdogReset => exact execBcpWatchdogReset_canon h ..
  case bcpResetEnd => exact execBcpResetEnd_canon h ..
  case residencyCommand => exact execResidencyCommand_canon h ..
  case residencyDone => exact execResidencyDone_canon h ..
  case serviceControlWrite => exact execServiceControlWrite_canon h ..
  case counterClear => exact execCounterClear_canon h ..
  case hostRead => exact execHostRead_canon h ..
  case doorbell => exact execDoorbell_canon h ..
  case downLaunchHead => exact execDownLaunchHead_canon h ..
  case downLaunchTail => exact execDownLaunchTail_canon h ..
  case downCounterAdvance => exact execDownCounterAdvance_canon h ..
  case downNotify => exact execDownNotify_canon h ..
  case downResync => exact execDownResync_canon h ..
  case upMessage => exact execUpMessage_canon h ..
  case report => exact execReport_canon h ..
  case remoteWrite => exact execRemoteWrite_canon h ..
  case ethernetFrame => exact execEthernetFrame_canon h ..
  case frameResend => exact execFrameResend_canon h ..
  case connectionFail => exact execConnectionFail_canon h ..
  case thermalAlert => exact execThermalAlert_canon h ..
  case thermalShutdown => exact shutdown_canon h
  case coldReset | pldmColdReset => exact coldReset_canon s
  case warmReset => exact nextCanon_next.mpr (canon_ite (warmReset_canon h) h)
  case firmwareUpdate => exact h
  case pldmWarmReset => exact nextCanon_next.mpr (canon_ite h (warmReset_canon h))
  case spdmKeyWrap => exact execSpdmKeyWrap_canon h ..
  case tick => exact execTick_canon h
  case mergeQueueDelivery => exact execMergeQueueDelivery_canon h ..
  case tdiEnterRun => exact execTdiEnterRun_canon h ..

/-! ## Convoys and the issue of a hart -/

theorem fetchShared_leaves (h : Canon s) (a : Word) (n : Nat) : Leaves (fun x => Canon x.1) (s.fetchShared a n) := by
  unfold State.fetchShared
  refine andThen_leaves (translateAll_leaves h ..) (fun _ _ => h) fun x _ => ?_
  have ht : Canon (s.setTlb x.2) := canon_of_mem (setTlb_mem ..) h
  refine andThen_leaves (keepWalks_leaves ht (then_leaves (ensureFetch_leaves ht ..) fun t ht => ?_)) (fun _ h => h) fun _ h => h
  exact leaves_ite ht (ensureFetch_leaves ht ..)

theorem fetchBytes_leaves (h : Canon s) (a : Word) (n : Nat) : Leaves (fun x => Canon x.1) (s.fetchBytes a n) := by
  unfold State.fetchBytes State.fetchImage
  exact leaves_ite (leaves_ite leaves_trap h) (fetchShared_leaves h ..)

theorem fetchMembers_leaves (h : Canon s) (k n : Nat) : Leaves (fun x => Canon x.1) (s.fetchMembers k n) := by
  induction n generalizing s k with
  | zero => exact h
  | succ n ih =>
    exact andThen_leaves (fetchBytes_leaves h ..) (fun _ h => h) fun _ h => andThen_leaves (ih h _) (fun _ h => h) fun _ h => h

theorem trapHere_canon (h : Canon s) (c : Nat) (v : Word) : NextCanon (trapHere s c v) := takeTrap_canon h ..

theorem settleFetch_canon {α : Type} (h : Canon s) {r : Res (State × α)} {k : State × α → Host.Outcome State Fault Refusal}
    (hr : Leaves (fun x => Canon x.1) r) (hk : ∀ x, Canon x.1 → NextCanon (k x)) : NextCanon (settleFetch s r k) := by
  cases r with
  | ok a => exact hk a hr
  | trap c v => exact trapHere_canon h ..
  | fault t c v => exact trapHere_canon hr ..
  | late a x => exact trapHere_canon h ..
  | wait a p => exact canon_of_mem ((park_mem ..).trans (State.modHart_mem ..)) hr

theorem runMembers_canon (h : Canon s) (p : Pending) (is : List Instr) : NextCanon (runMembers s p is) := by
  induction is generalizing s p with
  | nil => exact exec_canon h _
  | cons i is ih =>
    have he := exec_canon h i
    unfold runMembers
    split
    · exact ih (canon_of_mem (redo_mem ..) h) _
    · dsimp only
      split
      · next t e =>
        rw [e] at he
        split
        · split
          · exact ih he _
          · exact ih (canon_of_mem (keepRan_mem ..) he) _
        · split
          · exact ih (canon_of_mem (memberDone_mem s) h) _
          · exact he
      · exact he

theorem runMemberWords_canon (h : Canon s) (hd : Header) (ws : List (BitVec 64)) : NextCanon (runMemberWords s hd ws) := by
  unfold runMemberWords
  split
  · exact exec_canon h _
  · exact trapHere_canon h ..
  · exact runMembers_canon (canon_of_mem (beginConvoy_mem ..) h) ..

theorem nextCanon_ite {p : Prop} [Decidable p] {a b : Host.Outcome State Fault Refusal} (ha : NextCanon a) (hb : NextCanon b) :
    NextCanon (if p then a else b) := by
  split <;> assumption

theorem runConvoy_canon (h : Canon s) (w : Word) (hd : Header) : NextCanon (runConvoy s w hd) :=
  nextCanon_ite (runMemberWords_canon h ..) (settleFetch_canon h (fetchMembers_leaves h ..) fun _ h =>
    runMemberWords_canon (canon_of_mem (latch_mem ..) h) ..)

theorem runWord_canon (h : Canon s) (w : BitVec 32) : NextCanon (runWord s w) := by
  unfold runWord
  split
  · exact exec_canon h _
  · exact nextCanon_ite (exec_canon h _) (runConvoy_canon h ..)
  · exact exec_canon h _

theorem runNext_canon (h : Canon s) : NextCanon (runNext s) :=
  nextCanon_ite (runWord_canon h _) (settleFetch_canon h (fetchBytes_leaves h ..) fun _ h =>
    runWord_canon (canon_of_mem (latch_mem ..) h) _)

theorem issueCtx_canon (h : Canon s) (k : Nat) : NextCanon (issueCtx s k) := by
  have hs : Canon (s.select k) := canon_of_mem (select_mem ..) h
  have hm : Canon (s.select k).markIssue := canon_of_mem (markIssue_mem _) hs
  unfold issueCtx
  refine nextCanon_ite hs ?_
  dsimp only
  split
  · exact hm
  · exact hm
  · exact trapHere_canon hm ..
  · refine nextCanon_ite (exec_canon hm _) (nextCanon_ite (exec_canon hm _) (nextCanon_ite ?_ ?_))
    · exact canon_of_mem (park_mem ..) hm
    · exact runNext_canon (canon_of_mem (sample_mem _) (forcedPublish_canon hm))

/-! ## The engines -/

/-- Whatever is due has a canonical next state. -/
def DueCanon (d : Due) : Prop := ∀ o, d = some o → NextCanon o

theorem dueCanon_none : DueCanon none := fun _ e => nomatch e

theorem dueCanon_some {o : Host.Outcome State Fault Refusal} (h : NextCanon o) : DueCanon (some o) := fun _ e => Option.some.inj e ▸ h

theorem dueCanon_when {c : Bool} {f : Unit → Host.Outcome State Fault Refusal} (h : NextCanon (f ())) : DueCanon (whenDue c f) := by
  unfold whenDue
  split
  · exact dueCanon_some h
  · exact dueCanon_none

theorem dueCanon_or {a b : Due} (ha : DueCanon a) (hb : DueCanon b) : DueCanon (a <|> b) := by
  cases a with
  | none => exact hb
  | some o => exact ha

theorem dueCanon_find {α : Type} {xs : List α} {f : α → Due} (hf : ∀ x, DueCanon (f x)) : DueCanon (xs.findSome? f) := by
  intro o e
  obtain ⟨x, _, hx⟩ := List.exists_of_findSome?_eq_some e
  exact hf x o hx

theorem dueCanon_ite {p : Prop} [Decidable p] {a b : Due} (ha : DueCanon a) (hb : DueCanon b) : DueCanon (if p then a else b) := by
  split <;> assumption

theorem dueCanon_exec (h : Canon s) (c : Bool) (i : Instr) : DueCanon (whenDue c fun _ => exec i s) :=
  dueCanon_when (exec_canon h i)

theorem dueMemory_canon (h : Canon s) (k : Nat) : DueCanon (dueMemory s k) := by
  refine dueCanon_or (dueCanon_exec h _ (.residencyDone k)) (dueCanon_or ?_ (dueCanon_or (dueCanon_exec h _ (.mergeQueueResend k))
    (dueCanon_or (dueCanon_exec h _ (.mergeApply k)) (dueCanon_find fun l => dueCanon_or (dueCanon_exec h _ (.linkPause ..))
      (dueCanon_or (dueCanon_exec h _ (.linkRetrainEnd ..)) (dueCanon_exec h _ (.linkWindowEnd ..)))))))
  split
  · exact dueCanon_some (exec_canon h (.mergeQueueDelivery ..))
  · exact dueCanon_none

theorem dueBeacons_canon (h : Canon s) : DueCanon (dueBeacons s) :=
  dueCanon_or (dueCanon_ite dueCanon_none (dueCanon_or (dueCanon_exec h _ .timeBeacon) (dueCanon_or
    (dueCanon_find fun k => dueCanon_exec h _ (.mergeBeacon k))
    (dueCanon_find fun k => dueCanon_find fun j => dueCanon_exec h _ (.mergeBeaconOverdue k j)))))
  (dueCanon_find fun k => dueCanon_exec h _ (.timeBeaconOverdue k))

theorem dueBanks_canon (h : Canon s) (k : Nat) : DueCanon (dueBanks s k) := by
  refine dueCanon_or (dueCanon_find fun c => dueCanon_or (dueCanon_exec h _ (.bcpWatchdogReset ..)) (dueCanon_exec h _ (.bankCompletion ..)))
    (dueCanon_or ?_ (dueCanon_or
      (dueCanon_find fun l => dueCanon_or (dueCanon_exec h _ (.rowLockEffective ..)) (dueCanon_or (dueCanon_exec h _ (.rowRelease ..))
        (dueCanon_exec h _ (.leaseExpiry ..))))
      (dueCanon_or (dueCanon_ite dueCanon_none (dueCanon_find fun d => dueCanon_exec h _ (.bankMicroprogramStart ..)))
        (dueCanon_or (dueCanon_find fun d => dueCanon_exec h _ (.refreshSlot ..)) (dueCanon_exec h _ (.dramSensorRead k))))))
  split
  · exact dueCanon_exec h _ (.bcpResetEnd k)
  · exact dueCanon_none

theorem dueDown_canon (h : Canon s) (k ch : Nat) (c : Chan) : DueCanon (dueDown s k ch c) := by
  have hhead : DueCanon (some (execDownLaunchHead k ch s)) := dueCanon_some (exec_canon h (.downLaunchHead k ch))
  unfold dueDown
  split
  · exact dueCanon_none
  · exact hhead
  · split
    · exact dueCanon_exec h _ (.downLaunchTail k ch)
    · exact hhead
    · exact dueCanon_some (exec_canon h (.downLaunchTail k ch))
    · exact dueCanon_exec h _ (.downCounterAdvance k ch)
    · exact dueCanon_some (exec_canon h (.downNotify k ch))
    · exact dueCanon_some (exec_canon h (.downResync k ch))
    · exact hhead

theorem dueLaunches_canon (h : Canon s) (k : Nat) : DueCanon (dueLaunches s k) := by
  refine dueCanon_or (dueCanon_find fun c => dueCanon_or (dueDown_canon h _ _ _) (dueCanon_exec h _ (.upMessage ..)))
    (dueCanon_or (dueCanon_exec h _ (.report k)) (dueCanon_or ?_ (dueCanon_or
      (dueCanon_find fun l => dueCanon_or (dueCanon_exec h _ (.launchCut ..)) (dueCanon_exec h _ (.launchDone ..)))
      (dueCanon_or (dueCanon_find fun w => dueCanon_exec h _ (.instanceSpent ..)) (dueCanon_or ?_ ?_)))))
  · split
    · exact dueCanon_some (exec_canon h (.launchCut ..))
    · exact dueCanon_none
  · split
    · exact dueCanon_some (exec_canon h (.placement ..))
    · exact dueCanon_none
  · split
    · exact dueCanon_some (exec_canon h (.preemptRequest ..))
    · exact dueCanon_none

theorem dueSplits_canon (h : Canon s) : DueCanon (dueSplits s) := by
  refine dueCanon_ite dueCanon_none ?_
  dsimp only
  split
  · exact dueCanon_some (exec_canon h (.idleSplit _))
  · exact dueCanon_none

theorem dueCore_canon (h : Canon s) (g : Nat) (c : CoreS) : DueCanon (dueCore s g c) := by
  refine dueCanon_or (dueCanon_exec h _ (.copyChunkComplete g)) (dueCanon_or (dueCanon_exec h _ (.copyChunkStart g))
    (dueCanon_or (dueCanon_exec h _ (.ckeyApply _)) (dueCanon_or ?_ (dueCanon_or (dueCanon_exec h _ (.infieldTestDue g))
      (dueCanon_or (dueCanon_exec h _ (.infieldTestDeadline g)) (dueCanon_or ?_ (dueCanon_find fun x => ?_)))))))
  · split
    · exact dueCanon_exec h _ (.coreResetEnd g)
    · exact dueCanon_none
  · split
    · exact dueCanon_some (exec_canon h (.infieldTestEnd ..))
    · exact dueCanon_none
  · split
    · exact dueCanon_exec h _ (.pinDrop ..)
    · exact dueCanon_none

theorem dueContext_canon (h : Canon s) (x : Hart) : DueCanon (dueContext s x) := by
  refine dueCanon_or ?_ (dueCanon_or ?_ (dueCanon_or (dueCanon_exec h _ (.preemptAccept _))
    (dueCanon_or (dueCanon_exec h _ (.drainComplete _)) (dueCanon_or (dueCanon_exec h _ (.saveComplete _)) (dueCanon_or ?_ ?_)))))
  · split
    · exact dueCanon_exec h _ (.vbranchResolve _)
    · exact dueCanon_exec h _ (.homeOpResult _)
    · exact dueCanon_exec h _ (.evwaitTimeout _)
    · exact dueCanon_exec h _ (.infieldTestEnd ..)
    · exact dueCanon_exec h _ (.memoryReply ..)
    · exact dueCanon_none
  · split
    · exact dueCanon_exec h _ (.overrunFault _)
    · exact dueCanon_none
  · split
    · exact dueCanon_some (exec_canon h (.thermalMigration ..))
    · exact dueCanon_none
  · split
    · exact dueCanon_some (exec_canon h (.resume ..))
    · exact dueCanon_none

theorem engineDue_canon (h : Canon s) : DueCanon (engineDue s) :=
  dueCanon_or (dueCanon_find fun _ => dueMemory_canon h _) (dueCanon_or (dueBeacons_canon h)
    (dueCanon_or (dueCanon_find fun _ => dueBanks_canon h _) (dueCanon_or (dueCanon_find fun _ => dueCanon_exec h _ (.compaction _))
      (dueCanon_or (dueCanon_find fun _ => dueCanon_ite (dueCore_canon h _ _) dueCanon_none)
        (dueCanon_or (dueCanon_find fun _ => dueLaunches_canon h _) (dueCanon_or (dueCanon_find fun x => dueContext_canon h x)
          (dueCanon_or (dueCanon_find fun _ => dueCanon_or (dueCanon_exec h _ (.connectionFail _)) (dueCanon_exec h _ (.frameResend _)))
            (dueSplits_canon h))))))))

/-! ## A step -/

theorem receive_canon (h : Canon s) (m : Msg) : NextCanon (receive m s) := by
  refine nextCanon_ite h ?_
  cases m with
  | freeze j k c d => exact exec_canon h (.freezeMessage ..)
  | beacon k j f a => exact exec_canon h (.mergeBeaconReceive ..)
  | split k j w => exact exec_canon h (.splitRequest ..)
  | splitReply j k => exact splitReplied_canon h ..
  | time k t at_ => exact exec_canon h (.timeBeaconReceive ..)

theorem ownStep_canon (h : Canon s) : NextCanon (ownStep s) := by
  unfold ownStep
  split
  · next e => exact engineDue_canon h _ e
  · split
    · exact issueCtx_canon h _
    · exact exec_canon h _

theorem step_canon (h : Canon s) : NextCanon (step s) := by
  have ha : ∀ r, Canon { s with agenda := r } := fun _ => h
  unfold step advance
  split
  · exact nextCanon_ite (ha _) (exec_canon (ha _) _)
  · exact nextCanon_ite (ha _) (receiveInput_canon (ha _) _)
  · exact nextCanon_ite (ha _) (receive_canon (ha _) _)
  · exact nextCanon_ite (ha _) (issueCtx_canon (ha _) _)
  · exact nextCanon_ite h (ownStep_canon h)

/-- Settles O60: every step keeps memory canonical, and canonical memories that read alike are equal. -/
theorem everyStepKeepsMemoryCanonical : Obligations.EveryStepKeepsMemoryCanonical := by
  unfold Obligations.EveryStepKeepsMemoryCanonical
  refine ⟨fun s t h e => ?_, fun m n => memory_ext⟩
  have hn := step_canon h
  rw [e] at hn
  exact hn

end Sys2Proof.HomeMemory

/-! Records at home: which entry the merge engine takes, what its record writes, and what it sets aside (R243, R260, R274). -/

namespace Sys2Proof.MergeOrder

open Sys2Proof.Machine Sys2Proof.HomeMemory

variable {s : State} {stk l q sec : Nat} {e : MEntry} {mask : BitVec 64} {d : BitVec 512}

/-! ## Masked bytes of a sector -/

theorem read_writeMasked_outside (m : Memory) (sec : Nat) (mask : BitVec 64) (d : BitVec 512) {n a : Nat}
    (h : a < sec ∨ sec + n ≤ a) : (m.writeMasked sec mask d n).read a = m.read a := by
  induction n with
  | zero => rfl
  | succ n ih =>
    simp only [Memory.writeMasked]
    split
    · exact (Memory.read_write_other _ _ (by omega)).trans (ih (by omega))
    · exact ih (by omega)

theorem read_writeMasked_inside (m : Memory) (sec : Nat) (mask : BitVec 64) (d : BitVec 512) {n i : Nat} (h : i < n) :
    (m.writeMasked sec mask d n).read (sec + i) =
      if mask.getLsbD i then d.extractLsb' (8 * i) 8 else m.read (sec + i) := by
  induction n with
  | zero => exact absurd h (Nat.not_lt_zero i)
  | succ n ih =>
    simp only [Memory.writeMasked]
    rcases Nat.lt_succ_iff_lt_or_eq.mp h with hlt | rfl
    · split
      · exact (Memory.read_write_other _ _ (by omega)).trans (ih hlt)
      · exact ih hlt
    · split
      · exact Memory.read_write_same ..
      · exact read_writeMasked_outside _ _ _ _ (by omega)

/-! ## What the steps of the merge engine leave unchanged -/

/-- A part of a stack that a change of some stack keeps is kept in every stack. -/
theorem modStack_keeps {α : Type} (p : Stack → α) {j : Nat} {f : Stack → Stack} (h : p (f (s.stack j)) = p (s.stack j)) (k : Nat) :
    p ((s.modStack j f).stack k) = p (s.stack k) := by
  by_cases e : k = j
  · subst e
    rw [State.modStack_stack_same, h]
  · rw [State.modStack_stack_other _ _ _ e]

theorem markApplied_stack (s : State) (l q k : Nat) : (s.markApplied l q).stack k = s.stack k := by
  unfold State.markApplied
  split <;> rfl

theorem markApplied_hart (s : State) (l q : Nat) : (s.markApplied l q).hart = s.hart := by
  unfold State.markApplied
  split <;> rfl

theorem freeLog_stack (s : State) (l k : Nat) : (s.freeLog l).stack k = s.stack k := by
  unfold State.freeLog
  dsimp only
  split <;> rfl

theorem freeLog_hart (s : State) (l : Nat) : (s.freeLog l).hart = s.hart := by
  unfold State.freeLog
  dsimp only
  split <;> rfl

theorem cacheWrite_mq (s : State) (sec k : Nat) : ((s.cacheWrite sec).stack k).mq = (s.stack k).mq := by
  refine modStack_keeps Stack.mq ?_ k
  unfold Stack.cacheTouch
  dsimp only
  split
  · rfl
  · split <;> rfl

theorem count_mq (s : State) (j off n k : Nat) : ((s.count j off n).stack k).mq = (s.stack k).mq := modStack_keeps Stack.mq rfl k

/-- A record applied leaves every merge queue and the selected context. -/
theorem applyEntry_record_frame (s : State) (stk : Nat) (hb : e.body = .record sec mask d) (ho : e.origin = .publication l q) :
    ((s.applyEntry stk e).stack stk).mq = (s.stack stk).mq ∧ (s.applyEntry stk e).hart = s.hart := by
  unfold State.applyEntry
  simp only [hb, ho, freeLog_stack, freeLog_hart, markApplied_stack, markApplied_hart]
  split
  · exact ⟨rfl, rfl⟩
  · exact ⟨(count_mq ..).trans (cacheWrite_mq ..), rfl⟩

theorem deferFull_stalled (h : (s.stack stk).deferStall = true) : s.deferFull stk = s := if_pos h

/-- The stall of a full deferred-request queue: it is noted, and the queues stay. -/
theorem deferFull_first (h : (s.stack stk).deferStall = false) :
    ((s.deferFull stk).stack stk).deferStall = true ∧ ((s.deferFull stk).stack stk).mq = (s.stack stk).mq ∧
      ((s.deferFull stk).stack stk).deferred = (s.stack stk).deferred := by
  unfold State.deferFull State.pfb
  rw [if_neg (by simp [h])]
  dsimp only
  split <;> simp

/-! ## The entry that the merge engine takes -/

theorem nextMerge_of_find (h : (s.stack stk).mq.find? (fun e => !(e.addrs.any (s.stack stk).heldFrame) && !e.isRelease) = some e) :
    (s.stack stk).nextMerge = if e.key.lt (s.stack stk).horizon then some e else none := by
  unfold Stack.nextMerge
  rw [h]

/-- What the merge engine does with a publication's record: a damaged line, a locked row, or an application. -/
theorem mergeApply_record (hs : stk < 24) (hn : (s.stack stk).nextMerge = some e) (hb : e.body = .record sec mask d)
    (ho : e.origin = .publication l q) : exec (.mergeApply stk) s = .next (
      let drop := fun s : State => s.modStack stk fun t => { t with mq := t.mq.erase e }
      if s.lineGood l q = false then s.damage stk l q
      else if (s.stack stk).defers e.key sec then s.setAside stk drop e none else (drop s).applyEntry stk e) := by
  refine ifUnit_next (decide_eq_true hs) ?_
  simp only [hn, ho, MEntry.part, hb, Bool.not_eq_true']
  split
  · rfl
  · cases (s.stack stk).defers e.key sec <;> rfl

theorem mergeApply_none (hs : stk < 24) (hn : (s.stack stk).nextMerge = none) : exec (.mergeApply stk) s = .next s :=
  ifUnit_next (decide_eq_true hs) (by simp only [hn])

theorem defers_iff {t : Stack} {k : Key} {p : Nat} : t.defers k p = true ↔
    ∃ x ∈ t.locks, x.2.covers (frameOf p) = true ∧ (x.2.effective = true ∨ x.2.kl.lt k = true) := by
  simp [Stack.defers]

theorem defers_of_unlocked {t : Stack} {k : Key} {p : Nat}
    (h : ∀ x ∈ t.locks, x.2.covers (frameOf p) = true → x.2.effective = false ∧ x.2.kl.lt k = false) : t.defers k p = false := by
  rw [← Bool.not_eq_true, defers_iff]
  rintro ⟨x, hx, hc, he⟩
  simp [h x hx hc] at he

/-! ## An application -/

/-- The entry dropped from its queue and applied: the queue loses it, and the context stays. -/
theorem drop_apply_frame (s : State) (hb : e.body = .record sec mask d) (ho : e.origin = .publication l q) :
    let u := (s.modStack stk fun t => { t with mq := t.mq.erase e }).applyEntry stk e
    u.hart = s.hart ∧ (u.stack stk).mq = (s.stack stk).mq.erase e := by
  obtain ⟨hq, hh⟩ := applyEntry_record_frame (s.modStack stk fun t => { t with mq := t.mq.erase e }) stk hb ho
  exact ⟨hh, hq.trans (by simp)⟩

theorem drop_apply_mem (s : State) (hb : e.body = .record sec mask d) :
    ((s.modStack stk fun t => { t with mq := t.mq.erase e }).applyEntry stk e).mem =
      if (s.stack stk).supersedes e.key sec then s.mem else s.mem.writeMasked sec mask d 64 := by
  rw [applyEntry_record_mem _ _ hb, State.modStack_stack_same]
  rfl

/-! ## What is set aside -/

theorem setAside_room (drop : State → State) (h : (s.stack stk).deferred.length < 1024) :
    s.setAside stk drop e none = ((drop s).modStack stk fun t => { t with deferred := t.deferred ++ [.entry e] }).count stk 0x118 1 :=
  if_neg (Nat.not_le.mpr h)

theorem setAside_full (drop : State → State) (h : 1024 ≤ (s.stack stk).deferred.length) :
    s.setAside stk drop e none = s.deferFull stk := if_pos h

/-- Settles O36, from what the engine does with a record (`mergeApply_record`) and what the record writes (`drop_apply_mem`). -/
theorem recordsMergeInKeyOrder : Obligations.RecordsMergeInKeyOrder := by
  unfold Obligations.RecordsMergeInKeyOrder
  constructor
  · intro s stk l q sec e mask d hs hf hb ho hl
    have hd := defers_of_unlocked hl
    have taken (hk : e.key.lt (s.stack stk).horizon = true) :=
      mergeApply_record hs ((nextMerge_of_find hf).trans (if_pos hk)) hb ho
    obtain ⟨hh, hq⟩ := drop_apply_frame (stk := stk) s hb ho
    have hm := drop_apply_mem (stk := stk) s hb
    have applied (hk : e.key.lt (s.stack stk).horizon = true) (hg : s.lineGood l q = true) := by
      simpa [hg, hd] using taken hk
    refine ⟨fun hk => ?_, fun hk hg hsup => ?_, fun hk hg hsup => ?_, fun hk hg => ⟨?_, damage_mem ..⟩⟩
    · exact mergeApply_none hs ((nextMerge_of_find hf).trans (by simp [hk]))
    · exact ⟨_, applied hk hg, hm.trans (if_pos hsup), hh, hq⟩
    · have hw := hm.trans (if_neg (by simp [hsup]))
      refine ⟨_, applied hk hg, fun i hi => ?_, fun a ha => ?_, hh, hq⟩
      · rw [hw, read_writeMasked_inside _ _ _ _ hi]
      · rw [hw, read_writeMasked_outside _ _ _ _ ha]
    · simpa [hg] using taken hk
  · intro s stk l q sec e mask d hs t hn hb ho hg hlock
    have hd : (s.stack stk).defers e.key sec = true := defers_iff.mpr hlock
    have hx := mergeApply_record hs hn hb ho
    simp only [hg, Bool.true_eq_false, if_false, hd, if_true] at hx
    refine ⟨fun hr => ?_, fun hr hst => ?_, fun hr hst => ?_⟩
    · rw [setAside_room _ hr] at hx
      exact ⟨_, hx, rfl, by simp [t], by simp [t]⟩
    · rw [hx, setAside_full _ hr, deferFull_stalled hst]
    · rw [setAside_full _ hr] at hx
      exact ⟨_, hx, deferFull_mem .., deferFull_first hst⟩

end Sys2Proof.MergeOrder

/-! Residency commands (R243) and time beacons (R6, R387). -/

namespace Sys2Proof.StackBeacons

open Sys2Proof.Machine Sys2Proof.HomeMemory Sys2Proof.MergeOrder

variable {s : State} {stk : Nat} {v : Word}

/-! ## The residency command -/

/-- The residency register of a stack's control space (R214): a command is taken when none is in progress. -/
theorem residencyCommand_step (hs : stk < 24) : exec (.residencyCommand stk v) s = .next (s.modStack stk fun t =>
    if t.resCmd.isSome then t else { t with resCmd := some (v &&& 0xFFFFFFFF0001), resFailed := false }) :=
  ifUnit_next (decide_eq_true hs) rfl

theorem residencyCommand_idle (hs : stk < 24) (h : (s.stack stk).resCmd = none) : exec (.residencyCommand stk v) s =
    .next (s.modStack stk fun t => { t with resCmd := some (v &&& 0xFFFFFFFF0001), resFailed := false }) := by
  rw [residencyCommand_step hs]
  unfold State.modStack
  simp only [h, Option.isSome_none, Bool.false_eq_true, if_false]

theorem residencyCommand_busy (hs : stk < 24) (h : (s.stack stk).resCmd ≠ none) : ∃ u, exec (.residencyCommand stk v) s = .next u ∧
    u.stack stk = s.stack stk ∧ u.mem = s.mem ∧ u.hart = s.hart :=
  ⟨_, residencyCommand_step hs, (State.modStack_stack_same ..).trans (if_pos (Option.isSome_iff_ne_none.mpr h)), rfl, rfl⟩

theorem residencyDone_idle (hs : stk < 24) (h : (s.stack stk).resCmd = none) : exec (.residencyDone stk) s = .next s :=
  ifUnit_next (decide_eq_true hs) (by simp only [h])

theorem residencyDone_moved {r : Tbl Word} (hs : stk < 24) (h : (s.stack stk).resCmd = some v)
    (hr : (s.stack stk).moveResident stk v = some r) : ∃ u, exec (.residencyDone stk) s = .next u ∧
    (u.stack stk).residency = r ∧ (u.stack stk).resCmd = none ∧ (u.stack stk).locks = (s.stack stk).locks ∧
    (u.stack stk).mq = (s.stack stk).mq ∧ u.mem = s.mem ∧ u.hart = s.hart := by
  refine ⟨_, ifUnit_next (decide_eq_true hs) (by simp only [h]; rfl), ?_⟩
  simp only [State.modStack_stack_same, hr, State.modStack_mem, State.modStack_hart]
  exact ⟨trivial, trivial, rfl, rfl, trivial, trivial⟩

theorem residencyDone_failed (hs : stk < 24) (h : (s.stack stk).resCmd = some v) (hr : (s.stack stk).moveResident stk v = none) :
    exec (.residencyDone stk) s = .next (s.modStack stk fun t => { t with resCmd := none, resFailed := true }) := by
  refine ifUnit_next (decide_eq_true hs) ?_
  unfold State.modStack
  simp only [h, hr]

/-- A command's frame number and its mark bit, read back from its word. -/
theorem residencyWord_fields {f : Nat} (hf : f < 2 ^ 32) :
    ((BitVec.ofNat 64 (f * 65536 + 1)).extractLsb' 16 32).toNat = f ∧ (BitVec.ofNat 64 (f * 65536 + 1)).getLsbD 0 = true := by
  constructor
  · rw [BitVec.extractLsb'_toNat, BitVec.toNat_ofNat, Nat.shiftRight_eq_div_pow]
    omega
  · rw [BitVec.getLsbD_ofNat]
    simp [Nat.testBit_zero, Nat.add_mod, Nat.mul_mod]

/-- A frame of the stack's home memory that no entry names takes the lowest free one. -/
theorem moveResident_marks {t : Stack} {f i : Nat} (hf : f < 2 ^ 32) (hstk : f / (Config.stackSlot / 65536) = stk)
    (hhome : f % (Config.stackSlot / 65536) < Config.homeBytes / 65536)
    (hnew : ∀ e ∈ t.residency, e.2 ≠ BitVec.ofNat 64 (f * 65536 + 1))
    (hi : (List.range 4608).find? (fun i => !((t.residency.look i 0).getLsbD 0)) = some i) :
    t.moveResident stk (BitVec.ofNat 64 (f * 65536 + 1)) = some (t.residency.put i (BitVec.ofNat 64 (f * 65536 + 1))) := by
  obtain ⟨hframe, hmark⟩ := residencyWord_fields hf
  have hnone : t.residency.find? (fun e => e.2 == BitVec.ofNat 64 (f * 65536 + 1)) = none :=
    List.find?_eq_none.mpr fun e he => by simpa using hnew e he
  unfold Stack.moveResident
  rw [hframe]
  simp only [hnone, hmark, hi, hstk, hhome, beq_self_eq_true, decide_true, Bool.and_self, Bool.not_true, Bool.or_self,
    Bool.false_eq_true, if_false, Option.map_some]

/-! ## TIME -/

theorem timeBeacon_quiet (h : (s.time 0).toNat % 65536 ≠ 0 ∨ (s.stack 0).timeSent = some (s.time 0).toNat) :
    exec .timeBeacon s = .next s := by
  have hd : s.timeDue = false := by
    rcases h with h | h <;> simp [State.timeDue, h]
  rw [exec_timeBeacon]
  unfold execTimeBeacon
  rw [hd]
  rfl

theorem timeBeacon_sends (h0 : (s.time 0).toNat % 65536 = 0) (h1 : (s.stack 0).timeSent ≠ some (s.time 0).toNat) :
    ∃ u, exec .timeBeacon s = .next u ∧ (u.stack 0).timeSent = some (s.time 0).toNat ∧ u.mem = s.mem ∧ u.hart = s.hart ∧
      u.agenda = s.agenda ++ ((List.range 24).drop 1).map fun k =>
        Sched.msg (.time k (s.time 0) (s.ticks + BitVec.ofNat 64 (6 * (k % 6 + k / 6)))) := by
  have hd : s.timeDue = true := by simp [State.timeDue, h0, h1]
  rw [exec_timeBeacon]
  unfold execTimeBeacon
  rw [hd]
  refine ⟨_, rfl, ?_, rfl, rfl, ?_⟩
  · simp
  · exact congrArg (s.agenda ++ ·) List.map_map

theorem timeBeaconReceive_adjusts (t : Word) (hs : stk < 24) :
    let want := (t + BitVec.ofNat 64 (6 * (stk % 6 + stk / 6))).toNat
    let now := (s.time stk).toNat
    ∃ u, exec (.timeBeaconReceive stk t) s = .next u ∧ (u.stack stk).timeLate = false ∧ (u.stack stk).timeBeacon = now ∧
      (u.stack stk).adjust = (if now < want then 1 else if want < now then -1 else 0) ∧ u.mem = s.mem ∧ u.hart = s.hart := by
  intro want now
  by_cases h : want = now
  · exact ⟨_, ifUnit_next (decide_eq_true hs) (if_pos h), by simp [want, now]⟩
  · exact ⟨_, ifUnit_next (decide_eq_true hs) (if_neg h), by simp [want, now]⟩

/-! ## A late beacon -/

theorem pfb_timeLate (s : State) (k ty agent slot lg hart : Nat) (a b : Word) (j : Nat) :
    ((s.pfb k ty agent slot lg hart a b).stack j).timeLate = (s.stack j).timeLate := by
  unfold State.pfb
  dsimp only
  split <;> exact modStack_keeps Stack.timeLate rfl j

theorem timeIsLate_iff : s.timeIsLate stk = true ↔
    0 < stk ∧ (s.stack stk).timeLate = false ∧ (s.stack stk).timeBeacon + 131072 ≤ (s.time stk).toNat := by
  simp [State.timeIsLate, and_assoc]

theorem timeBeaconOverdue_reports (hs : stk < 24) (h : s.timeIsLate stk = true) : ∃ u,
    exec (.timeBeaconOverdue stk) s = .next u ∧ (u.stack stk).timeLate = true ∧ u.mem = s.mem ∧ u.hart = s.hart := by
  refine ⟨_, ifUnit_next (decide_eq_true hs) (if_neg (by simp [h])), ?_⟩
  simp [pfb_timeLate, MatrixMultiply.pfb_hart]

theorem timeBeaconOverdue_quiet (hs : stk < 24) (h : s.timeIsLate stk = false) : exec (.timeBeaconOverdue stk) s = .next s :=
  ifUnit_next (decide_eq_true hs) (if_pos (by simp [h]))

/-- Settles O44, a lemma for each case of the residency command and of the beacons. -/
theorem residencyAndTimeBeacons : Obligations.ResidencyAndTimeBeacons := by
  unfold Obligations.ResidencyAndTimeBeacons
  constructor
  · intro s stk v r hs t
    refine ⟨residencyCommand_idle hs, residencyCommand_busy hs, residencyDone_idle hs, residencyDone_moved hs, ?_,
      residencyDone_failed hs⟩
    rintro f rfl hf hstk hhome hnew i hi
    exact moveResident_marks hf hstk hhome hnew hi
  · intro s stk t want now x
    refine ⟨timeBeacon_quiet, timeBeacon_sends, timeBeaconReceive_adjusts t, fun h0 hs hl ht => ?_, fun hs h => ?_⟩
    · exact timeBeaconOverdue_reports hs (timeIsLate_iff.mpr ⟨h0, hl, ht⟩)
    · refine timeBeaconOverdue_quiet hs (Bool.eq_false_iff.mpr fun hlate => ?_)
      obtain ⟨h0, hl, ht⟩ := timeIsLate_iff.mp hlate
      rcases h with h | h | h
      · omega
      · exact absurd (h.symm.trans hl) (by decide)
      · exact Nat.not_le.mpr h ht

end Sys2Proof.StackBeacons

/-! The parts of a CPY2D chunk where the copy has no row (R340). -/

namespace Sys2Proof.CopyRows

open Sys2Proof.Machine

/-- A CPY2D command of no row, with rows of one byte at a stride of one byte. -/
def noRows : CopyCmd :=
  { instr := .cpy2d 0 0 0 0 0 0 0 0, serial := 0, log := 0, slot := 0, domain := 0, stk := 0, x := 0, y := 0x100000000, len := 1 }

/-- Its extent is that of one row, since the number of rows less one is 0. -/
theorem noRows_extent : noRows.extent = 1 := by decide

/-- No row gives a part. -/
theorem noRows_parts : noRows.parts 0 = [] := by decide

/-- Refutes O37: the parts of a CPY2D command are claimed to carry every row byte below its extent also where the command has no
row. Its extent is then the length of one row, so byte 0 lies below it, but the chunk has no part (`noRows`). CPY2D refuses such a
command with reason 4 (R340), which the statement does not ask of the command. -/
theorem not_compactionAndCopyEngines : ¬ Obligations.CompactionAndCopyEngines := by
  unfold Obligations.CompactionAndCopyEngines
  rintro ⟨hparts, -⟩
  obtain ⟨carries, -⟩ := hparts noRows 0 0 0 0 0 0 0 0 0 rfl (by decide) (by decide) (by decide)
  obtain ⟨p, hp, -⟩ := carries 0 (by decide) (by decide) (noRows_extent ▸ Nat.one_pos) (by decide)
  simp [noRows_parts] at hp

end Sys2Proof.CopyRows
